-- ==== Sys2Proof/Word.lean ====
section
/-! DEFINITION. The word types of the Dzidal P32 model and the sparse map that every table of the state is kept in. -/

namespace Sys2Proof

/-- One byte. -/
abbrev Byte := BitVec 8
/-- One lane's 32-bit vector register (R60). -/
abbrev W32 := BitVec 32
/-- A 64-bit register, uniform register or instruction word (R5, R60, R64). -/
abbrev W64 := BitVec 64
/-- A 256-bit descriptor (R60, R135). -/
abbrev W256 := BitVec 256
/-- A 64-byte Campion item, word 0 in the low bits (R377). -/
abbrev Item := BitVec 512

/-- A sparse table: pairs of a key and a value, keys strictly rising, no value equal to the table's default. -/
abbrev NMap (α : Type) := List (Nat × α)

/-- Byte-addressed memory in the same form, default 0: every store of the module is zeroed before DEV_READY (R539). -/
abbrev Mem := List Host.Cell

end Sys2Proof
end

