-- ==== Sys2Proof/Syntax.lean ====
section
/-! DEFINITION. The commands of the module, one constructor of `Instr` for each row of the table of operations and events,
and the operand types they carry. A Lamiz command carries the place that issues it and the fields of its word (R66, R69);
its FMT and OP are fixed by the constructor (R70). -/

namespace Sys2Proof

/-- Where a Lamiz instruction issues: module core number (R17) and group slot (R34). -/
structure Site where
  core : Nat
  slot : Nat
deriving DecidableEq, Repr

/-- Bits [19:12] of every word (R66). -/
structure Hdr where
  pg : Bool
  pn : Bool
  pq : BitVec 3
  res : BitVec 3
deriving DecidableEq, Repr

/-- Format VV (R69). -/
structure VV where
  h : Hdr
  dst : BitVec 8
  a : BitVec 8
  b : BitVec 8
  c : BitVec 8
  ty : BitVec 4
  rnd : BitVec 3
  sat : Bool
  na : Bool
  nc : Bool
  ub : Bool
  aa : Bool
deriving DecidableEq, Repr

/-- Format VI (R69). -/
structure VI where
  h : Hdr
  dst : BitVec 8
  a : BitVec 8
  ty : BitVec 4
  imm : BitVec 24
deriving DecidableEq, Repr

/-- A vector word in either of its two formats. -/
inductive VForm where
  | vv (w : VV)
  | vi (w : VI)
deriving DecidableEq, Repr

/-- Format VK (R69). -/
structure VK where
  h : Hdr
  dst : BitVec 8
  res : BitVec 4
  imm : BitVec 32
deriving DecidableEq, Repr

/-- Format U (R69). -/
structure UF where
  h : Hdr
  dst : BitVec 6
  a : BitVec 6
  b : BitVec 6
  imm : BitVec 26
deriving DecidableEq, Repr

/-- Format M (R69). -/
structure MF where
  h : Hdr
  data : BitVec 8
  addr : BitVec 8
  base : BitVec 6
  space : BitVec 2
  size : BitVec 3
  hint : BitVec 2
  sem : BitVec 2
  scope : BitVec 2
  ua : Bool
  ofs : BitVec 10
deriving DecidableEq, Repr

/-- Format A (R69). -/
structure AF where
  h : Hdr
  dst : BitVec 8
  addr : BitVec 8
  src : BitVec 8
  base : BitVec 6
  aop : BitVec 4
  aty : BitVec 3
  space : BitVec 2
  sem : BitVec 2
  scope : BitVec 2
  ret : Bool
deriving DecidableEq, Repr

/-- Format X (R69). -/
structure XF where
  h : Hdr
  d : BitVec 4
  d2 : BitVec 4
  k : BitVec 4
  dep : BitVec 16
  ur : BitVec 6
  x2 : Bool
  xu : Bool
  sub : BitVec 8
deriving DecidableEq, Repr

/-- Format Q (R69). -/
structure QF where
  h : Hdr
  data : BitVec 8
  qh : BitVec 6
  qs : BitVec 6
  pri : BitVec 2
  mark : BitVec 2
  two : Bool
  nb : Bool
  sem : BitVec 2
  scope : BitVec 2
  res : BitVec 14
deriving DecidableEq, Repr

/-- Format B (R69): bits [45:20] and RCV; LNK is the low 8 bits of the target field, CTGT its upper 18. -/
structure BF where
  h : Hdr
  tgt : BitVec 26
  rcv : BitVec 18
deriving DecidableEq, Repr

/-- Format C (R69). -/
structure CF where
  h : Hdr
  a : BitVec 8
  cc : BitVec 3
  un : Bool
  imm : BitVec 8
  tgt : BitVec 12
  rcv : BitVec 12
deriving DecidableEq, Repr

/-- Format S (R69). -/
structure SF where
  h : Hdr
  arg : BitVec 16
  res : BitVec 28
deriving DecidableEq, Repr

/-- LNK of a format B word. -/
def BF.lnk (w : BF) : BitVec 8 := w.tgt.extractLsb' 0 8
/-- CTGT of a format B word. -/
def BF.ctgt (w : BF) : BitVec 18 := w.tgt.extractLsb' 8 18

/-- Who made a request of the memory system (R180, R239). -/
inductive Agent where
  /-- A load, atomic or near-cache miss of a group: core, group slot, operation number. -/
  | load (core slot op : Nat)
  /-- A store-buffer entry of a core. -/
  | store (core ent : Nat)
  /-- A stream prefetcher of a half. -/
  | prefetch (half pf : Nat)
  /-- A request of a tensor mover of a core, by operation number. -/
  | mover (core m op : Nat)
  /-- A Vetch engine. -/
  | vetch (half : Nat)
  /-- A task dispatcher of a die, a queue engine, a port die, a management die. -/
  | dispatcher (die : Nat)
  | queueEngine (q : Nat)
  | port (pd : Nat)
  | mgmt
deriving DecidableEq, Repr

/-- An atomic on one address: operation, type, address, and the operands of its lanes in ascending lane order; the second
operand is the new value of cas (R88, R201). -/
structure AtomReq where
  aop : Nat
  aty : Nat
  addr : Nat
  lanes : List (Nat × Nat × Nat)
deriving DecidableEq, Repr

/-- What a request asks of one line. -/
inductive ReqBody where
  /-- Reads the sectors of the mask. -/
  | read (sectors : BitVec 4)
  /-- Writes bytes at offsets within the line. -/
  | write (bytes : List (Nat × Byte))
  | atom (a : AtomReq)
deriving DecidableEq, Repr

/-- A request to a cache slice of a half for one line of a global region (R239, R240). -/
structure LlmReq where
  half : Nat
  agent : Agent
  slice : Nat
  cls : Nat
  hint : Nat
  policy : Nat
  ro : Bool
  /-- Physical address of the line divided by 128. -/
  line : Nat
  body : ReqBody
deriving DecidableEq, Repr

/-- A request through the scratch window (R250, R251): the slice is the hardware's stamp. -/
structure ScrReq where
  agent : Agent
  slice : Nat
  /-- Byte of the scratch window divided by 128. -/
  line : Nat
  body : ReqBody
deriving DecidableEq, Repr

/-- One contribution to one line: the values of its lanes at byte offsets within the line, in ascending lane order, under
a type code (R89), with the sequence key of red.line.ord (R205, R206). -/
structure Contrib where
  src : Agent
  slice : Nat
  /-- Physical address divided by 128; scratch lines lie in the scratch window. -/
  line : Nat
  aty : Nat
  lanes : List (Nat × Nat)
  key : Option (BitVec 32)
  /-- The task instance number of its attempt (R548). -/
  no : Nat
deriving DecidableEq, Repr

/-- What issues as a trap: the word of trap, or a word with a reserved FMT or an OP that no table lists (R67, R70). -/
inductive TrapWord where
  | word (w : SF)
  | illegal (v : W64)
deriving DecidableEq, Repr

/-- A party of the coherence protocol: an LLM half, a core's fine path (core, operation slot and number), or an agent
without an LLM half (R239, R307). -/
inductive Party where
  | half (h : Nat)
  | fine (core slot op : Nat)
  | agent (a : Agent)
deriving DecidableEq, Repr

/-- A request message: home node, requester and its tag, line (R313, R316). -/
structure CohReq where
  node : Nat
  src : Party
  tag : Nat
  line : Nat
deriving DecidableEq, Repr

/-- A forward to a recorded owner: home node, owner half and owner tag, line, requester and its tag (R313). -/
structure Fwd where
  node : Nat
  half : Nat
  otag : Nat
  line : Nat
  src : Party
  tag : Nat
deriving DecidableEq, Repr

/-- The sectors of a line that a message carries, with their poison and dirty marks. -/
structure LineData where
  sec : List (Option W256)
  poison : BitVec 4
  dirty : BitVec 4
deriving DecidableEq, Repr

/-- The state that Data grants (R312). -/
inductive Granted where | s | e | m | none
deriving DecidableEq, Repr

/-- Data: requester, tag, line, granted state, ACKCNT, sectors; the owner that sends it, none where the home does. -/
structure DataMsg where
  dst : Party
  tag : Nat
  node : Nat
  line : Nat
  grant : Granted
  ackcnt : Nat
  data : LineData
  owner : Option Nat
deriving DecidableEq, Repr

/-- The operation that FwdOp carries: an access of one line (R245). -/
inductive OpBody where
  | body (b : ReqBody)
deriving DecidableEq, Repr

/-- The kinds of forward (R313). -/
inductive FwdKind where | fwds | fwdx | fwdrd | recall | fwdop (op : OpBody)
deriving DecidableEq, Repr

/-- The stages at which a request waits (R329, R330). -/
inductive Stage where
  | cacheSlice (half : Nat)
  | lane (node : Nat)
  | controller (node : Nat)
deriving DecidableEq, Repr

/-- An error that a patrol or an access finds in a half (R265, R266): the line, its sector, and whether it is beyond
correction; or a tag or state entry. -/
inductive LlmErr where
  | sector (line sector : Nat) (uncorrectable : Bool)
  | tag (uncorrectable : Bool)
deriving DecidableEq, Repr

/-- What has happened to a burst between its write and a read of it (R281, R290): the data and side bits that have turned over, by beat and
pin, and the address it was written for where that is another. -/
structure BurstRead where
  data : W256
  side : BitVec 32
  written : Option Nat
deriving DecidableEq, Repr

/-- A link packet: the header of R403 and the payload. -/
structure Packet where
  ty : Nat
  vc : Nat
  kidx : Nat
  seq : Nat
  ack : Nat
  xp : Nat
  src : Nat
  dst : Nat
  job : Nat
  gen : Nat
  opid : Nat
  addr : Nat
  key : Nat
  hops : Nat
  payload : List Byte
deriving DecidableEq, Repr

/-- What a link session exchange brings (R495): the peer's point and quote, and whether the peer's checks hold is judged from
the quote: signature over text, key slot values. -/
structure LinkKx where
  point : List Byte
  quote : List Byte
  sig : List Byte
deriving DecidableEq, Repr

/-- The medium of a link port, with its length in dm (R560). -/
inductive Medium where
  | passive (dm : Nat)
  | active (dm : Nat)
  | optical (dm : Nat)
  | other
deriving DecidableEq, Repr

/-- What training of a link port finds: its good lanes and its medium (R406, R560). -/
structure PortTest where
  good : BitVec 8
  medium : Medium
deriving DecidableEq, Repr

/-- Word 0 of a Bugle message (R365): source and destination position, class, words. -/
structure Bugle where
  src : Nat
  dst : Nat
  cls : Nat
  words : Nat
deriving DecidableEq, Repr

/-- A mesh route image: exit edge of a die for a destination die, and primary and alternate Bugle exit (R338, R340, R364). -/
structure MeshRoutes where
  mesh : List (Nat × Nat × Nat)
  bugle : List (Nat × Nat × Nat × Nat)
deriving DecidableEq, Repr

/-- A route image of ROUTESET (R410, R544): mesh routes, or link routes as module, destination, primary and alternate exit. -/
inductive RouteImage where
  | mesh (r : MeshRoutes)
  | link (r : List (Nat × Nat × Nat × Nat))
deriving DecidableEq, Repr

/-- What a half measures at an evaluation (R519, R520), in mW: its core rail, the die's mesh, control and LLM rails, the die,
the half's demand and that of the die's Run halves. -/
structure PowerReading where
  core : Nat
  other : Nat
  die : Nat
  demand : Nat
  demands : Nat
deriving DecidableEq, Repr

/-- A die's measured power in mW, hottest sensor in °C, smallest eye margin in % (R530, R534). -/
structure DieReading where
  die : Nat
  power : Nat
  temp : Nat
  eye : Nat
deriving DecidableEq, Repr

/-- One rail's energy of an interval in pJ as R531 divides it: slice, counter (0 core, 1 LLM, 2 HBM, 3 link), the slice's part of
the whole; the part that a queue's operations caused is also a share. -/
structure EnergyShare where
  slice : Nat
  counter : Nat
  energy : Nat
  part : Nat
  whole : Nat
  queue : Option Nat
deriving DecidableEq, Repr

/-- What a reporting unit has found in its own state (R331, R363, R392, R425): a corrected or uncorrectable flit payload of sectors of a
line, a route table or header, a directory entry, a line of the far buffer, an item of a queue by its push number, a codeword that a port's
FEC corrected (log 68). -/
inductive ErrFound where
  | nothing
  | flitCe
  | flitUe (line : Nat) (mask : BitVec 4)
  | route
  | dirCe (node : Nat)
  | dirUe (node : Nat)
  | farUe (node line : Nat)
  | queueCe (queue : Nat)
  | queueUe (queue no : Nat)
  | fecCe (port : Nat)
deriving DecidableEq, Repr

/-- A die's error report (R546). -/
structure ErrReport where
  sev : Nat
  block : Nat
  code : Nat
  die : Nat
  unit : Nat
  slice : Option Nat
  pa : Option Nat
  detail : Nat
  found : ErrFound
deriving DecidableEq, Repr

/-- How the read of a byte of host memory ends (R439, R440): with the byte, refused by the translation or as an Unsupported Request, or
poisoned by a completion or after 50 ms. -/
inductive HostByte where
  | ok (b : Byte)
  | refused (ats : Bool)
  | poisoned (timeout : Bool)
deriving DecidableEq, Repr

/-- What steps 4 to 11 of the power-on sequence found (R21, R537 to R539, R551): whether M0 and M1 derived an identity, reserve sites that
failed self-test, logical numbers whose dies failed it, with whether the routers and bridges of their sites passed, nodes with an untrained
channel, the routes that are loaded where they are not the default ones, sectors that failed the read-back of zeroisation (R539). -/
structure BootReport where
  id0 : Bool
  id1 : Bool
  badReserves : List Nat
  failed : List (Nat × Bool)
  untrained : List Nat
  routes : Option MeshRoutes
  unread : List Nat
deriving DecidableEq, Repr

/-- A filtered sideband input (R564). -/
inductive SbPin where
  | pwrEn | resetN | forceSlowN
  | qfcIn (i : Nat)
deriving DecidableEq, Repr

/-- The self-tests of a substitution (R21, R551): whether the reserve passes; the routes around the failed site where its routers or bridges
fail theirs, so that it is removed. -/
structure SubstTest where
  reserve : Bool
  around : Option MeshRoutes
deriving DecidableEq, Repr

/-- A register access of a host (R5, R429, R434): PF0 BAR0 of a port, the slice window that a PASID selects; offset and bytes. -/
inductive RegPlace where
  | bar0 (host ofs size : Nat)
  | slice (port : Nat) (pasid : Option Nat) (ofs size : Nat)
deriving DecidableEq, Repr

/-- What a host writes (R7, R428, R444): a register, a word of an MSI-X table, a BAR of a function. -/
inductive RegWrite where
  | reg (at_ : RegPlace) (value : Nat)
  | msix (port fn ofs value : Nat)
  | bar (port fn n value : Nat)
deriving DecidableEq, Repr

/-- The commands: one constructor per row of the table. -/
inductive Instr where
  /-- R73. -/
  | add (at_ : Site) (w : VForm)
  /-- R73. -/
  | sub (at_ : Site) (w : VForm)
  /-- R73. -/
  | mulLo (at_ : Site) (w : VForm)
  /-- R73. -/
  | mulHi (at_ : Site) (w : VForm)
  /-- R73. -/
  | madLo (at_ : Site) (w : VForm)
  /-- R73. -/
  | min (at_ : Site) (w : VForm)
  /-- R73. -/
  | max (at_ : Site) (w : VForm)
  /-- R73. -/
  | abs (at_ : Site) (w : VForm)
  /-- R73. -/
  | and (at_ : Site) (w : VForm)
  /-- R73. -/
  | or (at_ : Site) (w : VForm)
  /-- R73. -/
  | xor (at_ : Site) (w : VForm)
  /-- R73. -/
  | not (at_ : Site) (w : VForm)
  /-- R73. -/
  | shl (at_ : Site) (w : VForm)
  /-- R73. -/
  | shr (at_ : Site) (w : VForm)
  /-- R73. -/
  | sra (at_ : Site) (w : VForm)
  /-- R73. -/
  | popc (at_ : Site) (w : VForm)
  /-- R73. -/
  | clz (at_ : Site) (w : VForm)
  /-- R73. -/
  | brev (at_ : Site) (w : VForm)
  /-- R73. -/
  | sel (at_ : Site) (w : VForm)
  /-- R73. -/
  | setp (at_ : Site) (w : VForm)
  /-- R70. -/
  | mov (at_ : Site) (w : VForm)
  /-- R69. -/
  | movVk (at_ : Site) (w : VK)
  /-- R76. -/
  | fma (at_ : Site) (w : VForm)
  /-- R120. -/
  | addFloat (at_ : Site) (w : VForm)
  /-- R120. -/
  | mulFloat (at_ : Site) (w : VForm)
  /-- R121. -/
  | minFloat (at_ : Site) (w : VForm)
  /-- R121. -/
  | maxFloat (at_ : Site) (w : VForm)
  /-- R122. -/
  | rcp (at_ : Site) (w : VForm)
  /-- R122. -/
  | rsq (at_ : Site) (w : VForm)
  /-- R122. -/
  | sqrt (at_ : Site) (w : VForm)
  /-- R122. -/
  | ex2 (at_ : Site) (w : VForm)
  /-- R122. -/
  | lg2 (at_ : Site) (w : VForm)
  /-- R121. -/
  | setpFloat (at_ : Site) (w : VForm)
  /-- R77. -/
  | cvt (at_ : Site) (w : VV)
  /-- R77. -/
  | pack (at_ : Site) (w : VV)
  /-- R77. -/
  | unpack (at_ : Site) (w : VV)
  /-- R78. -/
  | shflIdx (at_ : Site) (w : VV)
  /-- R78. -/
  | shflUp (at_ : Site) (w : VV)
  /-- R78. -/
  | shflDown (at_ : Site) (w : VV)
  /-- R78. -/
  | shflXor (at_ : Site) (w : VV)
  /-- R78. -/
  | voteAny (at_ : Site) (w : VV)
  /-- R78. -/
  | voteAll (at_ : Site) (w : VV)
  /-- R78. -/
  | ballot (at_ : Site) (w : VV)
  /-- R74. -/
  | addUniform (at_ : Site) (w : UF)
  /-- R74. -/
  | subUniform (at_ : Site) (w : UF)
  /-- R74. -/
  | mulUniform (at_ : Site) (w : UF)
  /-- R74. -/
  | andUniform (at_ : Site) (w : UF)
  /-- R74. -/
  | orUniform (at_ : Site) (w : UF)
  /-- R74. -/
  | xorUniform (at_ : Site) (w : UF)
  /-- R74. -/
  | shlUniform (at_ : Site) (w : UF)
  /-- R74. -/
  | shrUniform (at_ : Site) (w : UF)
  /-- R74. -/
  | sraUniform (at_ : Site) (w : UF)
  /-- R74. -/
  | minUniform (at_ : Site) (w : UF)
  /-- R74. -/
  | maxUniform (at_ : Site) (w : UF)
  /-- R74. -/
  | addi (at_ : Site) (w : UF)
  /-- R74. -/
  | movi (at_ : Site) (w : UF)
  /-- R74. -/
  | ori (at_ : Site) (w : UF)
  /-- R74. -/
  | v2u (at_ : Site) (w : UF)
  /-- R74. -/
  | u2q (at_ : Site) (w : UF)
  /-- R74. -/
  | setpU (at_ : Site) (w : UF)
  /-- R83. -/
  | ld (at_ : Site) (w : MF)
  /-- R83. -/
  | st (at_ : Site) (w : MF)
  /-- R87. -/
  | ldRo (at_ : Site) (w : MF)
  /-- R85. -/
  | ldu (at_ : Site) (w : MF)
  /-- R85. -/
  | stu (at_ : Site) (w : MF)
  /-- R88. -/
  | atom (at_ : Site) (w : AF)
  /-- R89. -/
  | redLine (at_ : Site) (w : AF)
  /-- R89. -/
  | redLineOrd (at_ : Site) (w : AF)
  /-- R131. -/
  | mxa (at_ : Site) (w : XF)
  /-- R145. -/
  | mxw (at_ : Site) (w : XF)
  /-- R90. -/
  | tmov (at_ : Site) (w : XF)
  /-- R92. -/
  | dld (at_ : Site) (w : XF)
  /-- R92. -/
  | dset (at_ : Site) (w : XF)
  /-- R92. -/
  | dmov (at_ : Site) (w : XF)
  /-- R92. -/
  | dstD (at_ : Site) (w : XF)
  /-- R94. -/
  | qpush (at_ : Site) (w : QF)
  /-- R379. -/
  | qpop (at_ : Site) (w : QF)
  /-- R380. -/
  | qmark (at_ : Site) (w : QF)
  /-- R381. -/
  | qrewind (at_ : Site) (w : QF)
  /-- R382. -/
  | qrel (at_ : Site) (w : QF)
  /-- R386. -/
  | qstat (at_ : Site) (w : QF)
  /-- R79. -/
  | bra (at_ : Site) (w : BF)
  /-- R79. -/
  | braCc (at_ : Site) (w : CF)
  /-- R80. -/
  | braInd (at_ : Site) (w : BF)
  /-- R81. -/
  | call (at_ : Site) (w : BF)
  /-- R81. -/
  | ret (at_ : Site) (w : BF)
  /-- R96. -/
  | nop (at_ : Site) (w : SF)
  /-- R82. -/
  | exit (at_ : Site) (w : SF)
  /-- R47. -/
  | barB (at_ : Site) (w : SF)
  /-- R93. -/
  | wait (at_ : Site) (w : SF)
  /-- R193. -/
  | fence (at_ : Site) (w : SF)
  /-- R97. -/
  | sreg (at_ : Site) (w : SF)
  /-- R82. -/
  | trap (at_ : Site) (w : TrapWord)
  /-- R93. -/
  | tokTest (at_ : Site) (w : SF)
  /-- R43. -/
  | pathSwitch (at_ : Site)
  /-- R99. -/
  | loadReturn (at_ : Site) (op : Nat)
  /-- R151. -/
  | mxaStart (core : Nat)
  /-- R151. -/
  | mxaComplete (core : Nat) (n : Nat)
  /-- R152. -/
  | mxwStart (core : Nat)
  /-- R152. -/
  | mxwComplete (core : Nat) (n : Nat)
  /-- R236. -/
  | moverOperationStart (core mover : Nat)
  /-- R236. -/
  | moverOperationComplete (core mover n : Nat)
  /-- R232. -/
  | moverOperationFailed (core mover n : Nat)
  /-- R233. -/
  | moverPoison (core mover n : Nat)
  /-- R154. -/
  | hardwareErrorInCore (core : Nat) (block : Nat)
  /-- R257. -/
  | prefetchFill (half pf : Nat)
  /-- R228. -/
  | streamIdleTimeout (half pf : Nat)
  /-- R50. -/
  | blockRetire (core : Nat) (block : Nat)
  /-- R468. -/
  | taskReady (slice stream task : Nat) (fromHost : List (Nat × HostByte))
  /-- R469. -/
  | blockStart (slice : Nat)
  /-- R474. -/
  | taskOverrun (slice no : Nat)
  /-- R56. -/
  | clockChange (half : Nat)
  /-- R513. -/
  | halfGated (half : Nat)
  /-- R240. -/
  | llmRequest (r : LlmReq)
  /-- R251. -/
  | scratchRequest (r : ScrReq)
  /-- R262. -/
  | addToLineContribution (half : Nat) (c : Contrib)
  /-- R246. -/
  | reductionHoldEnd (half line : Nat)
  /-- R256. -/
  | combineWindowClose (half line : Nat)
  /-- R265. -/
  | llmPatrol (half : Nat) (found : List LlmErr)
  /-- R269. -/
  | thrashWindowEnd (half : Nat)
  /-- R253. -/
  | scratchUnitZeroed (half unit : Nat)
  /-- R276. -/
  | llmFlush (half : Nat)
  /-- R276. -/
  | llmFlushDone (half : Nat)
  /-- R276. -/
  | llmPowerOffDone (half : Nat)
  /-- R277. -/
  | llmPowerUpDone (half : Nat)
  /-- R312. -/
  | rds (q : CohReq)
  /-- R312. -/
  | rdx (q : CohReq) (hold : Bool)
  /-- R312. -/
  | rdxn (q : CohReq)
  /-- R312. -/
  | rdna (q : CohReq)
  /-- R288. -/
  | rdfine (q : CohReq) (sector : Nat)
  /-- R312. -/
  | wrna (q : CohReq) (bytes : List (Nat × Byte))
  /-- R312. -/
  | putm (q : CohReq) (d : LineData)
  /-- R312. -/
  | dropm (q : CohReq)
  /-- R312. -/
  | holdend (q : CohReq)
  /-- R326. -/
  | atomRequest (q : CohReq) (a : AtomReq)
  /-- R317. -/
  | inv (half : Nat) (line : Nat) (node : Nat) (ackTo : Option Party)
  /-- R317. -/
  | fwds (f : Fwd)
  /-- R317. -/
  | fwdx (f : Fwd)
  /-- R317. -/
  | fwdrd (f : Fwd)
  /-- R317. -/
  | recall (f : Fwd)
  /-- R317. -/
  | fwdop (f : Fwd) (op : OpBody)
  /-- R319. -/
  | dataMsg (m : DataMsg)
  /-- R319. -/
  | grant (dst : Party) (tag node line ackcnt : Nat)
  /-- R319. -/
  | ack (half : Nat) (line : Nat) (node : Nat) (dst : Option Party)
  /-- R317. -/
  | nodata (f : Fwd) (kind : FwdKind)
  /-- R317. -/
  | wbdata (f : Fwd) (kind : FwdKind) (d : LineData)
  /-- R313. -/
  | atomret (dst : Party) (tag node line : Nat) (vals : List (Nat × Nat)) (poison : Bool)
  /-- R313. -/
  | doneMsg (src : Party) (node line : Nat)
  /-- R318. -/
  | cmp (dst : Party) (tag node line : Nat) (stale : Bool)
  /-- R321. -/
  | parkedForwardServed (half line : Nat)
  /-- R330. -/
  | requestPromotion (at_ : Stage)
  /-- R323. -/
  | regimeSwitchDrained (node : Nat)
  /-- R323. -/
  | switchslow (node : Nat)
  /-- R324. -/
  | directoryScanDone (node : Nat)
  /-- R298. -/
  | scrubRead (sector : Nat) (found : BurstRead) (last : Bool)
  /-- R301. -/
  | refresh (node channel bank : Nat)
  /-- R300. -/
  | stackTemperatureReading (node temp : Nat)
  /-- R302. -/
  | nodeRetired (node : Nat)
  /-- R305. -/
  | frameRewriteDone (node frame : Nat) (south : Bool)
  /-- R354. -/
  | bridgeReplay (die edge link : Nat)
  /-- R355. -/
  | laneFailed (die edge link lane : Nat)
  /-- R356. -/
  | linkRetrain (die edge link : Nat)
  /-- R357. -/
  | linkRetrainDone (die edge link : Nat) (good : BitVec 72)
  /-- R361. -/
  | netLinkCtrlRetrain (host w value : Nat)
  /-- R359. -/
  | routeRepair (routes : Option MeshRoutes)
  /-- R342. -/
  | meshDrained
  /-- R342. -/
  | qslow
  /-- R352. -/
  | multicastConversion (src dst : Nat)
  /-- R352. -/
  | conversionNotice (src dst : Nat)
  /-- R370. -/
  | commitMsg (b : Bugle) (die epoch instant : Nat)
  /-- R9. -/
  | commitInstant
  /-- R371. -/
  | timeMsg (b : Bugle) (die value : Nat)
  /-- R342. -/
  | quiesce (b : Bugle) (start : Bool)
  /-- R323. -/
  | modeMsg (b : Bugle) (blocking : Bool)
  /-- R324. -/
  | lost (b : Bugle) (halves : List Nat)
  /-- R528. -/
  | trip (b : Bugle) (die : Nat)
  /-- R518. -/
  | budget (b : Bugle) (die watts period : Nat) (cap slow : Bool)
  /-- R526. -/
  | lend (b : Bugle) (die watts period : Nat)
  /-- R421. -/
  | pace (b : Bugle) (src clock cause : Nat)
  /-- R466. -/
  | doorbell (b : Bugle) (slice stream value : Nat)
  /-- R366. -/
  | dispatch (b : Bugle) (die slice no : Nat) (preempt : Bool)
  /-- R366. -/
  | doneBugle (b : Bugle) (slice no : Nat)
  /-- R437. -/
  | intrMsg (b : Bugle) (slice index gen : Nat)
  /-- R358. -/
  | linkctl (b : Bugle) (drained : Bool)
  /-- R546. -/
  | errMsg (b : Bugle) (r : ErrReport)
  /-- R518. -/
  | telem (b : Bugle) (die power demand : Nat)
  /-- R369. -/
  | bugleLinkDown (die edge : Nat)
  /-- R396. -/
  | headRingRefill (q : Nat)
  /-- R397. -/
  | hostPush (port : Nat) (pasid : Option Nat) (ofs : Nat) (bytes : List Byte)
  /-- R394. -/
  | qfcInChange (pin : Nat) (level : Bool)
  /-- R395. -/
  | qfcInTimeout (pin : Nat)
  /-- R169. -/
  | route (half : Nat)
  /-- R175. -/
  | combine (half : Nat)
  /-- R165. -/
  | vetchStat (half : Nat)
  /-- R173. -/
  | vetchCompletionPush (half : Nat)
  /-- R413. -/
  | linkWrite (port : Nat) (p : Packet)
  /-- R413. -/
  | linkReadRequest (port : Nat) (p : Packet)
  /-- R476. -/
  | linkReadResponse (port : Nat) (p : Packet)
  /-- R417. -/
  | linkAdd (port : Nat) (p : Packet)
  /-- R413. -/
  | linkQueuePush (port : Nat) (p : Packet)
  /-- R412. -/
  | linkAcknowledgement (port : Nat) (p : Packet)
  /-- R410. -/
  | linkRefusal (port : Nat) (p : Packet)
  /-- R421. -/
  | paceNotice (port : Nat) (p : Packet)
  /-- R422. -/
  | timeSyncFrame (port : Nat) (p : Packet) (offset : Int)
  /-- R449. -/
  | managementTunnel (port : Nat) (p : Packet)
  /-- R405. -/
  | linkPacketReplay (port : Nat) (seq : Nat) (tag : Bool)
  /-- R406. -/
  | portRetrain (port : Nat) (lanes : BitVec 8)
  /-- R406. -/
  | portRetrainDone (port : Nat) (lanes : PortTest) (nbr nbrPort : Nat)
  /-- R406. -/
  | lnkPortCfgRetrain (host port : Nat)
  /-- R414. -/
  | remoteTimeout (id : Nat)
  /-- R417. -/
  | linkEngineAdd (slice : Nat)
  /-- R418. -/
  | coll (slice : Nat)
  /-- R418. -/
  | collStageComplete (slice : Nat)
  /-- R416. -/
  | linkEngineStat (slice : Nat)
  /-- R420. -/
  | paceNoticeSend
  /-- R421. -/
  | paceNoticeExpiry (src : Nat)
  /-- R422. -/
  | timeSyncExchange (port : Nat)
  /-- R422. -/
  | timeParentLost (port : Nat)
  /-- R423. -/
  | linkRekey (port : Nat)
  /-- R495. -/
  | linkSessionExchange (port : Nat) (kx : LinkKx)
  /-- R495. -/
  | linkSessionRetry (port : Nat)
  /-- R435. -/
  | slcSDoorbell (port : Nat) (pasid : Option Nat) (stream value : Nat)
  /-- R440. -/
  | hostReadCompletion (id addr status : Nat) (bytes : List Byte)
  /-- R440. -/
  | hostReadTimeout (id addr : Nat)
  /-- R441. -/
  | zeroLengthReadComplete (port : Nat)
  /-- R439. -/
  | atsInvalidation (port tag slice addr len : Nat)
  /-- R445. -/
  | flrPf0 (port : Nat)
  /-- R445. -/
  | flrPf1 (port : Nat)
  /-- R445. -/
  | hostLinkDown (port : Nat)
  /-- R431. -/
  | ownershipFailover
  /-- R448. -/
  | podWindowAccess (port ofs size : Nat) (write : Option Nat)
  /-- R450. -/
  | tunnelReadTimeout (port module opid : Nat)
  /-- R442. -/
  | getVersion (port : Nat)
  /-- R442. -/
  | getCapabilities (port : Nat)
  /-- R442. -/
  | negotiateAlgorithms (port offered : Nat)
  /-- R442. -/
  | getDigests (port : Nat)
  /-- R486. -/
  | getCertificate (port slot ofs len : Nat)
  /-- R442. -/
  | challenge (port slot : Nat) (nonce : List Byte)
  /-- R487. -/
  | getMeasurements (port index : Nat) (signed : Bool) (nonce : List Byte)
  /-- R442. -/
  | keyExchange (port slot : Nat) (point : List Byte)
  /-- R442. -/
  | finish (port session : Nat) (good : Bool)
  /-- R442. -/
  | keyUpdate (port session : Nat)
  /-- R442. -/
  | heartbeat (port session : Nat)
  /-- R496. -/
  | endSession (port session : Nat)
  /-- R443. -/
  | keyProg (port session stream info : Nat) (zero pf1 : Bool)
  /-- R443. -/
  | ideIntegrityFailure (port stream : Nat)
  /-- R462. -/
  | slcCtrlStart (host slice : Nat)
  /-- R463. -/
  | slcCtrlStop (host slice : Nat)
  /-- R462. -/
  | slcSJobctlStart (port : Nat) (pasid : Option Nat)
  /-- R463. -/
  | slcSJobctlEnd (port : Nat) (pasid : Option Nat)
  /-- R466. -/
  | kernelStart (slice stream : Nat) (fromHost : List (Nat × HostByte))
  /-- R478. -/
  | modelSwap (slice : Nat) (fromHost : List (Nat × HostByte))
  /-- R470. -/
  | clusterQuantumExpiry (cluster : Nat)
  /-- R470. -/
  | drainExpiry (cluster : Nat)
  /-- R471. -/
  | windowCycleStart
  /-- R472. -/
  | windowGuard (w : Nat)
  /-- R472. -/
  | windowOpen (w : Nat)
  /-- R472. -/
  | windowClose (w : Nat)
  /-- R475. -/
  | blockSaveComplete (core block : Nat)
  /-- R476. -/
  | remoteWaitAbandon (id : Nat)
  /-- R477. -/
  | blockRestore (slice index core : Nat)
  /-- R544. -/
  | routeset (port seq : Nat) (image : Option RouteImage)
  /-- R544. -/
  | fwupdate (port seq : Nat)
  /-- R544. -/
  | fwupdateComplete (bytes : Option (List Byte))
  /-- R552. -/
  | handover (port seq : Nat)
  /-- R552. -/
  | probationEnd
  /-- R552. -/
  | standbyTakeover (failed : Bool)
  /-- R552. -/
  | diereload (port seq : Nat)
  /-- R551. -/
  | subst (port seq : Nat)
  /-- R544. -/
  | recal (port seq : Nat)
  /-- R544. -/
  | pdpower (port seq : Nat)
  /-- R544. -/
  | mreset (port seq : Nat)
  /-- R459. -/
  | hbmgrant (port seq : Nat)
  /-- R459. -/
  | hbmgrantComplete
  /-- R459. -/
  | hbmfree (port seq : Nat)
  /-- R459. -/
  | map (port seq : Nat)
  /-- R459. -/
  | unmap (port seq : Nat)
  /-- R459. -/
  | objload (port seq : Nat)
  /-- R460. -/
  | objloadComplete (bytes : Option (List Byte))
  /-- R461. -/
  | migrate (port seq : Nat)
  /-- R461. -/
  | migrateComplete
  /-- R503. -/
  | attest (port seq : Nat)
  /-- R503. -/
  | cfgrec (port seq : Nat) (bytes : Option (List Byte))
  /-- R504. -/
  | unlockreq (port seq : Nat)
  /-- R505. -/
  | unlock (port seq : Nat) (token : Option (List Byte))
  /-- R504. -/
  | unlockChallengeExpiry
  /-- R498. -/
  | quote (slice : Nat)
  /-- R498. -/
  | keyx (slice : Nat) (fromHost : List Byte)
  /-- R498. -/
  | openBlob (slice : Nat) (fromHost : List Byte)
  /-- R498. -/
  | sealBlob (slice : Nat) (fromHost : List Byte)
  /-- R498. -/
  | keydel (slice : Nat)
  /-- R486. -/
  | attestationKeyCertified (die : Nat)
  /-- R488. -/
  | transitionEnd
  /-- R540. -/
  | cfgCommitGo (host : Nat)
  /-- R540. -/
  | commitCheckDone
  /-- R541. -/
  | cfgCommitDiscard (host : Nat)
  /-- R543. -/
  | repairCommit (routes : Option MeshRoutes) (mask : Option Nat)
  /-- R551. -/
  | computeDieFailure (die : Nat)
  /-- R551. -/
  | reserveDieSubstitution (die : Nat) (good : SubstTest)
  /-- R511. -/
  | pwrEnAssert (early : Bool) (strap : Nat)
  /-- R538. -/
  | devReady (r : BootReport)
  /-- R538. -/
  | bootTimeout (step : Nat)
  /-- R512. -/
  | pwrEnDeassert
  /-- R566. -/
  | resetNAssert
  /-- R566. -/
  | resetNDeassert
  /-- R525. -/
  | forceSlowNAssert
  /-- R525. -/
  | forceSlowNDeassert
  /-- R564. -/
  | rateLimitedChange (pin : SbPin) (asserted : Bool) (early : Bool) (strap : Nat)
  /-- R565. -/
  | stuckEventInput (pin : SbPin)
  /-- R509. -/
  | ibcFailure (ibc : Nat)
  /-- R557. -/
  | inputUndervoltage
  /-- R557. -/
  | inputOvervoltage
  /-- R568. -/
  | refclkLoss
  /-- R568. -/
  | pcieRefclkLoss (port : Nat)
  /-- R518. -/
  | budgetPeriodStart (input : Nat)
  /-- R521. -/
  | pwrCap (host value : Nat)
  /-- R520. -/
  | budgetClockEvaluation (half : Nat) (m : PowerReading) (lend : Option (Nat × Nat))
  /-- R524. -/
  | budgetLost (die : Nat)
  /-- R517. -/
  | thermalClockEvaluation (half temp : Nat)
  /-- R515. -/
  | ageingMonitor (half : Nat) (margins : List Nat) (holds : Nat)
  /-- R527. -/
  | droopDetected (half : Nat)
  /-- R527. -/
  | droopRecovered (half : Nat)
  /-- R528. -/
  | thermalTrip (die : Nat)
  /-- R529. -/
  | tripRestart (hot : Bool)
  /-- R530. -/
  | telemetrySample (dv input : Nat) (dies : List DieReading)
  /-- R531. -/
  | energyAttribution (shares : List EnergyShare)
  /-- R268. -/
  | sampleWindowBoundary
  /-- R571. -/
  | coolantHot (inlet outlet : Nat)
  /-- R567. -/
  | dynamicAddressAssignment (addr : Nat)
  /-- R567. -/
  | privateWrite (bytes : List Byte)
  /-- R567. -/
  | privateRead
  /-- R544. -/
  | mgtEvtRead (host port : Nat)
  /-- R546. -/
  | errStatusAlertClear (host : Nat)
  /-- R326. -/
  | netCohPredCfgClr (host node value : Nat)
  /-- R7. -/
  | rcRead (host ofs : Nat)
  /-- R5. -/
  | badRegisterRead (at_ : RegPlace)
  /-- R7. -/
  | registerWrite (w : RegWrite)
  /-- R568. -/
  | refclkReturn
  /-- R426. -/
  | hostLinkUp (port rate width : Nat) (flit : Bool)
  /-- R444. -/
  | tdispRequest (port : Nat) (start : Nat)
  /-- R557. -/
  | inputRestored (strap : Nat)
  /-- R512. -/
  | pwrEnDelayedAssert (strap : Nat)
deriving DecidableEq, Repr

end Sys2Proof
end

