-- ==== Sys2Proof/WellFormed.lean ====
section
/-! DEFINITION. Well-formed commands: every number an operand carries names something the module has. -/

namespace Sys2Proof

/-- A module core (R17) and a group slot of it (R34). -/
def Site.wf (x : Site) : Bool := decide (x.core < 2048) && decide (x.slot < 48)

/-- A host's access is of 1 to 8 bytes (R5). -/
def accessSize (n : Nat) : Bool := decide (1 ≤ n) && decide (n ≤ 8)

/-- Who makes a request names a component. -/
def Agent.wf (a : Agent) : Bool :=
  match a with
  | .load c sl _ => decide (c < 2048) && decide (sl < 48)
  | .store c _ => decide (c < 2048)
  | .prefetch h _ => decide (h < 64)
  | .mover c m _ => decide (c < 2048) && decide (m < 2)
  | .vetch h => decide (h < 64)
  | .dispatcher d => decide (d < 32)
  | .queueEngine q => decide (q < 512)
  | .port p => decide (p < 4)
  | .mgmt => true

/-- A party of the coherence protocol names a component (R307). -/
def Party.wf (p : Party) : Bool :=
  match p with
  | .half h => decide (h < 64)
  | .fine c sl _ => decide (c < 2048) && decide (sl < 48)
  | .agent a => a.wf

/-- Offsets and lanes lie within the line and the group (R201). -/
def AtomReq.wf (a : AtomReq) : Bool := decide (a.addr < 2 ^ 44) && a.lanes.all fun l => decide (l.1 < 32)
def ReqBody.wf (b : ReqBody) : Bool :=
  match b with
  | .read _ => true
  | .write bs => bs.all fun p => decide (p.1 < 128)
  | .atom a => a.wf
def LlmReq.wf (r : LlmReq) : Bool := decide (r.half < 64) && r.agent.wf && decide (r.slice < 64) && decide (r.cls < 8) && decide (r.line < 2 ^ 37) && r.body.wf
def ScrReq.wf (r : ScrReq) : Bool := r.agent.wf && decide (r.slice < 64) && decide (r.line < 2 ^ 37) && r.body.wf
def Contrib.wf (c : Contrib) : Bool := c.src.wf && decide (c.slice < 64) && decide (c.line < 2 ^ 37) && decide (c.aty < 7) && c.lanes.all fun l => decide (l.1 < 128)
def CohReq.wf (q : CohReq) : Bool := decide (q.node < 18) && q.src.wf && decide (q.line < 2 ^ 37)
def Fwd.wf (f : Fwd) : Bool := decide (f.node < 18) && decide (f.half < 64) && f.src.wf && decide (f.line < 2 ^ 37)
def LineData.wf (d : LineData) : Bool := decide (d.sec.length = 4)
def DataMsg.wf (m : DataMsg) : Bool := m.dst.wf && decide (m.node < 18) && decide (m.line < 2 ^ 37) && m.data.wf && (match m.owner with | some h => decide (h < 64) | none => true)
def OpBody.wf (o : OpBody) : Bool := match o with | .body b => b.wf
def LlmErr.wf (e : LlmErr) : Bool := match e with | .sector l i _ => decide (l < 2 ^ 37) && decide (i < 4) | .tag _ => true

/-- Fields of a link packet within their widths (R403). -/
def Packet.wf (p : Packet) : Bool :=
  decide (p.ty < 256) && decide (p.vc < 8) && decide (p.kidx < 2) && decide (p.seq < 65536) && decide (p.ack < 65536) && decide (p.xp < 4) && decide (p.src < 65536) &&
  decide (p.dst < 65536) && decide (p.job < 2 ^ 24) && decide (p.gen < 65536) && decide (p.opid < 2 ^ 32) && decide (p.addr < 2 ^ 48) && decide (p.key < 2 ^ 32) &&
  decide (p.hops ≤ 16) && decide (p.payload.length ≤ 256) && decide (p.payload.length % 32 = 0)

/-- Positions and words of a Bugle message within their fields (R365). -/
def Bugle.wf (b : Bugle) : Bool := decide (b.src < 64) && decide (b.dst < 64) && decide (b.cls < 4) && decide (1 ≤ b.words) && decide (b.words ≤ 4)
def ErrFound.wf (e : ErrFound) : Bool :=
  match e with
  | .flitUe l _ => decide (l < 2 ^ 37)
  | .dirCe n | .dirUe n => decide (n < 18)
  | .farUe n l => decide (n < 18) && decide (l < 2 ^ 37)
  | .queueCe q | .queueUe q _ => decide (q < 512)
  | .fecCe p => decide (p < 16)
  | _ => true
def ErrReport.wf (r : ErrReport) : Bool := decide (r.sev < 7) && decide (r.block < 13) && decide (r.code < 65536) && decide (r.die < 60) && (r.slice.all fun x => decide (x < 64)) && r.found.wf

/-- Accesses of hosts lie in the space they name (R428, R434). -/
def RegPlace.wf (p : RegPlace) : Bool :=
  match p with
  | .bar0 h o n => decide (h < 2) && decide (o < 2 ^ 28) && accessSize n
  | .slice p x o n => decide (p < 2) && (x.all fun x => decide (x < 2 ^ 20)) && decide (o < 0x10000) && accessSize n
def RegWrite.wf (w : RegWrite) : Bool :=
  match w with
  | .reg p v => p.wf && decide (v < 2 ^ 64)
  | .msix p f o v => decide (p < 2) && decide (f < 2) && decide (o < 0x1000) && decide (v < 2 ^ 64)
  | .bar p f n v => decide (p < 2) && decide (f < 2) && decide (n < 6) && decide (v < 2 ^ 64)
def SbPin.wf (p : SbPin) : Bool := match p with | .qfcIn i => decide (i < 8) | _ => true
def BootReport.wf (r : BootReport) : Bool := (r.failed.all fun d => decide (d.1 < 32)) && (r.badReserves.all fun x => decide (x < 36)) && (r.untrained.all fun n => decide (n < 18)) && r.unread.all fun x => decide (x < 2 ^ 39)

/-- The operands of a command name components that the module has. -/
def Instr.wf (i : Instr) : Bool :=
  match i with
  | .add at_ _ | .sub at_ _ | .mulLo at_ _ | .mulHi at_ _ | .madLo at_ _ | .min at_ _ | .max at_ _ | .abs at_ _ | .and at_ _
  | .or at_ _ | .xor at_ _ | .not at_ _ | .shl at_ _ | .shr at_ _ | .sra at_ _ | .popc at_ _ | .clz at_ _ | .brev at_ _ | .sel at_ _
  | .setp at_ _ | .mov at_ _ | .movVk at_ _ | .fma at_ _ | .addFloat at_ _ | .mulFloat at_ _ | .minFloat at_ _ | .maxFloat at_ _
  | .rcp at_ _ | .rsq at_ _ | .sqrt at_ _ | .ex2 at_ _ | .lg2 at_ _ | .setpFloat at_ _ | .cvt at_ _ | .pack at_ _ | .unpack at_ _
  | .shflIdx at_ _ | .shflUp at_ _ | .shflDown at_ _ | .shflXor at_ _ | .voteAny at_ _ | .voteAll at_ _ | .ballot at_ _ | .addUniform at_ _
  | .subUniform at_ _ | .mulUniform at_ _ | .andUniform at_ _ | .orUniform at_ _ | .xorUniform at_ _ | .shlUniform at_ _
  | .shrUniform at_ _ | .sraUniform at_ _ | .minUniform at_ _ | .maxUniform at_ _ | .addi at_ _ | .movi at_ _ | .ori at_ _
  | .v2u at_ _ | .u2q at_ _ | .setpU at_ _ | .ld at_ _ | .st at_ _ | .ldRo at_ _ | .ldu at_ _ | .stu at_ _ | .atom at_ _
  | .redLine at_ _ | .redLineOrd at_ _ | .mxa at_ _ | .mxw at_ _ | .tmov at_ _ | .dld at_ _ | .dset at_ _ | .dmov at_ _ | .dstD at_ _
  | .qpush at_ _ | .qpop at_ _ | .qmark at_ _ | .qrewind at_ _ | .qrel at_ _ | .qstat at_ _ | .bra at_ _ | .braCc at_ _ | .braInd at_ _
  | .call at_ _ | .ret at_ _ | .nop at_ _ | .exit at_ _ | .barB at_ _ | .wait at_ _ | .fence at_ _ | .sreg at_ _ | .trap at_ _
  | .tokTest at_ _ | .pathSwitch at_ | .loadReturn at_ _ | .badRegisterRead at_ => at_.wf
  | .mxaStart core | .mxaComplete core _ | .mxwStart core | .mxwComplete core _ => decide (core < 2048)
  | .moverOperationStart core mover | .moverOperationComplete core mover _ | .moverOperationFailed core mover _ | .moverPoison core mover _ => decide (core < 2048) && decide (mover < 2)
  | .hardwareErrorInCore core block | .blockRetire core block | .blockSaveComplete core block => decide (core < 2048) && decide (block < 16)
  | .prefetchFill half _ | .streamIdleTimeout half _ | .clockChange half | .halfGated half | .thrashWindowEnd half | .llmFlush half
  | .llmFlushDone half | .llmPowerOffDone half | .llmPowerUpDone half | .route half | .combine half | .vetchStat half | .vetchCompletionPush half
  | .budgetClockEvaluation half _ _ | .thermalClockEvaluation half _ | .ageingMonitor half _ _ | .droopDetected half | .droopRecovered half => decide (half < 64)
  | .taskReady slice stream _ fromHost | .kernelStart slice stream fromHost => decide (slice < 64) && decide (stream < 17) && (fromHost.all fun p => decide (p.1 < 2 ^ 64))
  | .blockStart slice | .taskOverrun slice _ | .linkEngineAdd slice | .coll slice | .collStageComplete slice | .linkEngineStat slice
  | .quote slice | .keyx slice _ | .openBlob slice _ | .sealBlob slice _ | .keydel slice => decide (slice < 64)
  | .llmRequest r | .scratchRequest r | .devReady r => r.wf
  | .addToLineContribution half c => decide (half < 64) && c.wf
  | .reductionHoldEnd half line | .combineWindowClose half line | .parkedForwardServed half line => decide (half < 64) && decide (line < 2 ^ 37)
  | .llmPatrol half found => decide (half < 64) && found.all LlmErr.wf
  | .scratchUnitZeroed half unit => decide (half < 64) && decide (unit < 24)
  | .rds q | .rdx q _ | .rdxn q | .rdna q | .dropm q | .holdend q => q.wf
  | .rdfine q sector => q.wf && decide (sector < 4)
  | .wrna q bytes => q.wf && (bytes.all fun p => decide (p.1 < 128))
  | .putm q d => q.wf && d.wf
  | .atomRequest q a => q.wf && a.wf
  | .inv half line node ackTo => decide (half < 64) && decide (line < 2 ^ 37) && decide (node < 18) && ackTo.all Party.wf
  | .fwds f | .fwdx f | .fwdrd f | .recall f | .nodata f _ => f.wf
  | .fwdop f op => f.wf && op.wf
  | .dataMsg m => m.wf
  | .grant dst _ node line _ | .atomret dst _ node line _ _ | .cmp dst _ node line _ => dst.wf && decide (node < 18) && decide (line < 2 ^ 37)
  | .ack half line node dst => decide (half < 64) && decide (line < 2 ^ 37) && decide (node < 18) && dst.all Party.wf
  | .wbdata f _ d => f.wf && d.wf
  | .doneMsg src node line => src.wf && decide (node < 18) && decide (line < 2 ^ 37)
  | .requestPromotion _ | .routeRepair _ | .meshDrained | .qslow | .commitInstant | .remoteTimeout _ | .paceNoticeSend | .paceNoticeExpiry _
  | .hostReadTimeout _ _ | .ownershipFailover | .windowCycleStart | .remoteWaitAbandon _ | .fwupdateComplete _ | .probationEnd
  | .standbyTakeover _ | .hbmgrantComplete | .objloadComplete _ | .migrateComplete | .unlockChallengeExpiry | .transitionEnd
  | .commitCheckDone | .repairCommit _ _ | .pwrEnDeassert | .resetNAssert | .resetNDeassert | .forceSlowNAssert | .forceSlowNDeassert
  | .inputUndervoltage | .inputOvervoltage | .refclkLoss | .budgetPeriodStart _ | .tripRestart _ | .sampleWindowBoundary
  | .coolantHot _ _ | .privateWrite _ | .privateRead | .refclkReturn => true
  | .regimeSwitchDrained node | .switchslow node | .directoryScanDone node | .stackTemperatureReading node _ | .nodeRetired node => decide (node < 18)
  | .scrubRead sector _ _ => decide (sector < 2 ^ 39)
  | .refresh node channel bank => decide (node < 18) && decide (channel < 32) && decide (bank < 64)
  | .frameRewriteDone node frame _ => decide (node < 18) && decide (frame < 48)
  | .bridgeReplay die edge link | .linkRetrain die edge link | .linkRetrainDone die edge link _ => decide (die < 60) && decide (edge < 4) && decide (link < 8)
  | .laneFailed die edge link lane => decide (die < 60) && decide (edge < 4) && decide (link < 8) && decide (lane < 72)
  | .netLinkCtrlRetrain host w _ => decide (host < 2) && decide (w < 56)
  | .multicastConversion src dst | .conversionNotice src dst => decide (src < 64) && decide (dst < 64)
  | .commitMsg b die _ _ | .timeMsg b die _ | .trip b die => b.wf && decide (die < 60)
  | .quiesce b _ | .modeMsg b _ | .pace b _ _ _ | .linkctl b _ => b.wf
  | .lost b halves => b.wf && (halves.all fun h => decide (h < 64))
  | .budget b die _ _ _ _ | .lend b die _ _ | .telem b die _ _ => b.wf && decide (die < 32)
  | .doorbell b slice stream value => b.wf && decide (slice < 64) && decide (stream < 16) && decide (value < 2 ^ 64)
  | .dispatch b die slice _ _ => b.wf && decide (die < 32) && decide (slice < 64)
  | .doneBugle b slice _ => b.wf && decide (slice < 64)
  | .intrMsg b slice index _ => b.wf && decide (slice < 64) && decide (index < 4)
  | .errMsg b r => b.wf && r.wf
  | .bugleLinkDown die edge => decide (die < 60) && decide (edge < 4)
  | .headRingRefill q => decide (q < 512)
  | .hostPush port pasid ofs _ => decide (port < 2) && (pasid.all fun x => decide (x < 2 ^ 20)) && decide (ofs < 0x8000)
  | .qfcInChange pin _ | .qfcInTimeout pin => decide (pin < 8)
  | .linkWrite port p | .linkReadRequest port p | .linkReadResponse port p | .linkAdd port p | .linkQueuePush port p | .linkAcknowledgement port p
  | .paceNotice port p | .timeSyncFrame port p _ | .managementTunnel port p => decide (port < 16) && p.wf
  | .linkRefusal port p => decide (port < 17) && p.wf
  | .linkPacketReplay port seq _ => decide (port < 16) && decide (seq < 65536)
  | .portRetrain port _ | .portRetrainDone port _ _ _ | .timeSyncExchange port | .timeParentLost port | .linkRekey port | .linkSessionExchange port _
  | .linkSessionRetry port => decide (port < 16)
  | .lnkPortCfgRetrain host port => decide (host < 2) && decide (port < 16)
  | .slcSDoorbell port pasid stream value => decide (port < 2) && (pasid.all fun x => decide (x < 2 ^ 20)) && decide (stream < 16) && decide (value < 2 ^ 64)
  | .hostReadCompletion _ _ status _ => decide (status < 5)
  | .zeroLengthReadComplete port | .flrPf0 port | .flrPf1 port | .hostLinkDown port | .tunnelReadTimeout port _ _ | .getVersion port
  | .getCapabilities port | .negotiateAlgorithms port _ | .getDigests port | .getCertificate port _ _ _ | .challenge port _ _
  | .getMeasurements port _ _ _ | .keyExchange port _ _ | .finish port _ _ | .keyUpdate port _ | .heartbeat port _ | .endSession port _
  | .pcieRefclkLoss port | .hostLinkUp port _ _ _ | .tdispRequest port _ => decide (port < 2)
  | .atsInvalidation port _ slice _ _ => decide (port < 2) && decide (slice < 64)
  | .podWindowAccess port ofs size _ => decide (port < 2) && decide (ofs < 2 ^ 34) && accessSize size
  | .keyProg port _ stream _ _ _ | .ideIntegrityFailure port stream => decide (port < 2) && decide (stream < 5)
  | .slcCtrlStart host slice | .slcCtrlStop host slice => decide (host < 2) && decide (slice < 64)
  | .slcSJobctlStart port pasid | .slcSJobctlEnd port pasid => decide (port < 2) && (pasid.all fun x => decide (x < 2 ^ 20))
  | .modelSwap slice fromHost => decide (slice < 64) && (fromHost.all fun p => decide (p.1 < 2 ^ 64))
  | .clusterQuantumExpiry cluster | .drainExpiry cluster => decide (cluster < 256)
  | .windowGuard w | .windowOpen w | .windowClose w => decide (w < 64)
  | .blockRestore slice _ core => decide (slice < 64) && decide (core < 2048)
  | .routeset port seq _ | .fwupdate port seq | .handover port seq | .diereload port seq | .subst port seq | .recal port seq
  | .pdpower port seq | .mreset port seq | .hbmgrant port seq | .hbmfree port seq | .map port seq | .unmap port seq | .objload port seq
  | .migrate port seq | .attest port seq | .cfgrec port seq _ | .unlockreq port seq | .unlock port seq _ => decide (port < 2) && decide (seq < 256)
  | .attestationKeyCertified die => decide (die < 2)
  | .cfgCommitGo host | .cfgCommitDiscard host | .errStatusAlertClear host => decide (host < 2)
  | .computeDieFailure die | .reserveDieSubstitution die _ | .budgetLost die => decide (die < 32)
  | .pwrEnAssert _ strap | .inputRestored strap | .pwrEnDelayedAssert strap => decide (strap < 64)
  | .bootTimeout step => decide (step < 12)
  | .rateLimitedChange pin _ _ strap => pin.wf && decide (strap < 64)
  | .stuckEventInput pin => pin.wf
  | .ibcFailure ibc => decide (ibc < 8)
  | .pwrCap host value => decide (host < 2) && decide (value < 2 ^ 64)
  | .thermalTrip die => decide (die < 60)
  | .telemetrySample _ _ dies => (dies.all fun r => decide (r.die < 60))
  | .energyAttribution shares => (shares.all fun r => decide (r.slice < 64) && decide (r.counter < 4))
  | .dynamicAddressAssignment addr => decide (addr < 128)
  | .mgtEvtRead host port => decide (host < 2) && decide (port < 2)
  | .netCohPredCfgClr host node _ => decide (host < 2) && decide (node < 18)
  | .rcRead host ofs => decide (host < 2) && decide (ofs < 2 ^ 28)
  | .registerWrite w => w.wf

end Sys2Proof
end

