-- ==== Sys2Proof/Decode.lean ====
section
/-! DEFINITION. The table gives no command bits, so no word spells one. -/

namespace Sys2Proof

/-- The command that a word of the table spells: the table gives no row any bits. -/
def decodeTableWord (_nbits _w : Nat) : Option Instr := none

end Sys2Proof
end

