-- ==== Sys2Proof/Machine/Encoding.lean ====
section
/-! DEFINITION. The encoding of Lamiz words: formats, operations, both directions (R64, R66, R69, R70). -/

namespace Sys2Proof

/-- Bits [19:12] of a word: PG, PN, PQ and the reserved bits (R66). -/
def Hdr.bits (h : Hdr) : BitVec 8 := h.res ++ h.pq ++ BitVec.ofBool h.pn ++ BitVec.ofBool h.pg
def Hdr.ofWord (v : W64) : Hdr := { pg := v.getLsbD 12, pn := v.getLsbD 13, pq := v.extractLsb' 14 3, res := v.extractLsb' 17 3 }

/-- Format VV: the fields of R69 above the header of R66. -/
def VV.toWord (w : VV) (op : BitVec 8) : W64 :=
  BitVec.ofBool w.aa ++ BitVec.ofBool w.ub ++ BitVec.ofBool w.nc ++ BitVec.ofBool w.na ++ BitVec.ofBool w.sat ++ w.rnd ++ w.ty ++ w.c ++ w.b ++ w.a ++ w.dst ++ w.h.bits ++ op ++ 0#4
def VV.ofWord (v : W64) : VV :=
  { h := .ofWord v, dst := v.extractLsb' 20 8, a := v.extractLsb' 28 8, b := v.extractLsb' 36 8, c := v.extractLsb' 44 8, ty := v.extractLsb' 52 4, rnd := v.extractLsb' 56 3, sat := v.getLsbD 59, na := v.getLsbD 60, nc := v.getLsbD 61, ub := v.getLsbD 62, aa := v.getLsbD 63 }

/-- Format VI: the fields of R69 above the header of R66. -/
def VI.toWord (w : VI) (op : BitVec 8) : W64 :=
  w.imm ++ w.ty ++ w.a ++ w.dst ++ w.h.bits ++ op ++ 1#4
def VI.ofWord (v : W64) : VI :=
  { h := .ofWord v, dst := v.extractLsb' 20 8, a := v.extractLsb' 28 8, ty := v.extractLsb' 36 4, imm := v.extractLsb' 40 24 }

/-- Format VK: the fields of R69 above the header of R66. -/
def VK.toWord (w : VK) (op : BitVec 8) : W64 :=
  w.imm ++ w.res ++ w.dst ++ w.h.bits ++ op ++ 2#4
def VK.ofWord (v : W64) : VK :=
  { h := .ofWord v, dst := v.extractLsb' 20 8, res := v.extractLsb' 28 4, imm := v.extractLsb' 32 32 }

/-- Format U: the fields of R69 above the header of R66. -/
def UF.toWord (w : UF) (op : BitVec 8) : W64 :=
  w.imm ++ w.b ++ w.a ++ w.dst ++ w.h.bits ++ op ++ 3#4
def UF.ofWord (v : W64) : UF :=
  { h := .ofWord v, dst := v.extractLsb' 20 6, a := v.extractLsb' 26 6, b := v.extractLsb' 32 6, imm := v.extractLsb' 38 26 }

/-- Format M: the fields of R69 above the header of R66. -/
def MF.toWord (w : MF) (op : BitVec 8) : W64 :=
  w.ofs ++ BitVec.ofBool w.ua ++ w.scope ++ w.sem ++ w.hint ++ w.size ++ w.space ++ w.base ++ w.addr ++ w.data ++ w.h.bits ++ op ++ 4#4
def MF.ofWord (v : W64) : MF :=
  { h := .ofWord v, data := v.extractLsb' 20 8, addr := v.extractLsb' 28 8, base := v.extractLsb' 36 6, space := v.extractLsb' 42 2, size := v.extractLsb' 44 3, hint := v.extractLsb' 47 2, sem := v.extractLsb' 49 2, scope := v.extractLsb' 51 2, ua := v.getLsbD 53, ofs := v.extractLsb' 54 10 }

/-- Format A: the fields of R69 above the header of R66. -/
def AF.toWord (w : AF) (op : BitVec 8) : W64 :=
  BitVec.ofBool w.ret ++ w.scope ++ w.sem ++ w.space ++ w.aty ++ w.aop ++ w.base ++ w.src ++ w.addr ++ w.dst ++ w.h.bits ++ op ++ 5#4
def AF.ofWord (v : W64) : AF :=
  { h := .ofWord v, dst := v.extractLsb' 20 8, addr := v.extractLsb' 28 8, src := v.extractLsb' 36 8, base := v.extractLsb' 44 6, aop := v.extractLsb' 50 4, aty := v.extractLsb' 54 3, space := v.extractLsb' 57 2, sem := v.extractLsb' 59 2, scope := v.extractLsb' 61 2, ret := v.getLsbD 63 }

/-- Format X: the fields of R69 above the header of R66. -/
def XF.toWord (w : XF) (op : BitVec 8) : W64 :=
  w.sub ++ BitVec.ofBool w.xu ++ BitVec.ofBool w.x2 ++ w.ur ++ w.dep ++ w.k ++ w.d2 ++ w.d ++ w.h.bits ++ op ++ 6#4
def XF.ofWord (v : W64) : XF :=
  { h := .ofWord v, d := v.extractLsb' 20 4, d2 := v.extractLsb' 24 4, k := v.extractLsb' 28 4, dep := v.extractLsb' 32 16, ur := v.extractLsb' 48 6, x2 := v.getLsbD 54, xu := v.getLsbD 55, sub := v.extractLsb' 56 8 }

/-- Format Q: the fields of R69 above the header of R66. -/
def QF.toWord (w : QF) (op : BitVec 8) : W64 :=
  w.res ++ w.scope ++ w.sem ++ BitVec.ofBool w.nb ++ BitVec.ofBool w.two ++ w.mark ++ w.pri ++ w.qs ++ w.qh ++ w.data ++ w.h.bits ++ op ++ 7#4
def QF.ofWord (v : W64) : QF :=
  { h := .ofWord v, data := v.extractLsb' 20 8, qh := v.extractLsb' 28 6, qs := v.extractLsb' 34 6, pri := v.extractLsb' 40 2, mark := v.extractLsb' 42 2, two := v.getLsbD 44, nb := v.getLsbD 45, sem := v.extractLsb' 46 2, scope := v.extractLsb' 48 2, res := v.extractLsb' 50 14 }

/-- Format B: the fields of R69 above the header of R66. -/
def BF.toWord (w : BF) (op : BitVec 8) : W64 :=
  w.rcv ++ w.tgt ++ w.h.bits ++ op ++ 8#4
def BF.ofWord (v : W64) : BF :=
  { h := .ofWord v, tgt := v.extractLsb' 20 26, rcv := v.extractLsb' 46 18 }

/-- Format C: the fields of R69 above the header of R66. -/
def CF.toWord (w : CF) (op : BitVec 8) : W64 :=
  w.rcv ++ w.tgt ++ w.imm ++ BitVec.ofBool w.un ++ w.cc ++ w.a ++ w.h.bits ++ op ++ 9#4
def CF.ofWord (v : W64) : CF :=
  { h := .ofWord v, a := v.extractLsb' 20 8, cc := v.extractLsb' 28 3, un := v.getLsbD 31, imm := v.extractLsb' 32 8, tgt := v.extractLsb' 40 12, rcv := v.extractLsb' 52 12 }

/-- Format S: the fields of R69 above the header of R66. -/
def SF.toWord (w : SF) (op : BitVec 8) : W64 :=
  w.res ++ w.arg ++ w.h.bits ++ op ++ 10#4
def SF.ofWord (v : W64) : SF :=
  { h := .ofWord v, arg := v.extractLsb' 20 16, res := v.extractLsb' 36 28 }

/-- A vector word in either format. -/
def VForm.toWord (w : VForm) (op : BitVec 8) : W64 := match w with | .vv w => w.toWord op | .vi w => w.toWord op

/-- Operations of formats VV and VI (R70). -/
def vectorOp (op : Nat) : Option (Site → VForm → Instr) :=
  match op with
  | 0x00 => some .add
  | 0x01 => some .sub
  | 0x02 => some .mulLo
  | 0x03 => some .mulHi
  | 0x04 => some .madLo
  | 0x05 => some .min
  | 0x06 => some .max
  | 0x07 => some .abs
  | 0x08 => some .and
  | 0x09 => some .or
  | 0x0A => some .xor
  | 0x0B => some .not
  | 0x0C => some .shl
  | 0x0D => some .shr
  | 0x0E => some .sra
  | 0x0F => some .popc
  | 0x10 => some .clz
  | 0x11 => some .brev
  | 0x12 => some .sel
  | 0x13 => some .setp
  | 0x14 => some .mov
  | 0x20 => some .fma
  | 0x21 => some .addFloat
  | 0x22 => some .mulFloat
  | 0x23 => some .minFloat
  | 0x24 => some .maxFloat
  | 0x25 => some .rcp
  | 0x26 => some .rsq
  | 0x27 => some .sqrt
  | 0x28 => some .ex2
  | 0x29 => some .lg2
  | 0x2A => some .setpFloat
  | _ => none

/-- Operations of format VV alone (R70). -/
def vvOp (op : Nat) : Option (Site → VV → Instr) :=
  match op with
  | 0x30 => some .cvt
  | 0x31 => some .pack
  | 0x32 => some .unpack
  | 0x38 => some .shflIdx
  | 0x39 => some .shflUp
  | 0x3A => some .shflDown
  | 0x3B => some .shflXor
  | 0x3C => some .voteAny
  | 0x3D => some .voteAll
  | 0x3E => some .ballot
  | _ => none

/-- Operations of format U (R70). -/
def uOp (op : Nat) : Option (Site → UF → Instr) :=
  match op with
  | 0x00 => some .addUniform
  | 0x01 => some .subUniform
  | 0x02 => some .mulUniform
  | 0x03 => some .andUniform
  | 0x04 => some .orUniform
  | 0x05 => some .xorUniform
  | 0x06 => some .shlUniform
  | 0x07 => some .shrUniform
  | 0x08 => some .sraUniform
  | 0x09 => some .minUniform
  | 0x0A => some .maxUniform
  | 0x0B => some .addi
  | 0x0C => some .movi
  | 0x0D => some .ori
  | 0x10 => some .v2u
  | 0x11 => some .u2q
  | 0x12 => some .setpU
  | _ => none

/-- Operations of format M (R70). -/
def mOp (op : Nat) : Option (Site → MF → Instr) :=
  match op with
  | 0x00 => some .ld
  | 0x01 => some .st
  | 0x02 => some .ldRo
  | 0x03 => some .ldu
  | 0x04 => some .stu
  | _ => none

/-- Operations of format A (R70). -/
def aOp (op : Nat) : Option (Site → AF → Instr) :=
  match op with
  | 0x00 => some .atom
  | 0x01 => some .redLine
  | 0x02 => some .redLineOrd
  | _ => none

/-- Operations of format X (R70). -/
def xOp (op : Nat) : Option (Site → XF → Instr) :=
  match op with
  | 0x00 => some .mxa
  | 0x01 => some .mxw
  | 0x02 => some .tmov
  | 0x03 => some .dld
  | 0x04 => some .dset
  | 0x05 => some .dmov
  | 0x06 => some .dstD
  | _ => none

/-- Operations of format Q (R70). -/
def qOp (op : Nat) : Option (Site → QF → Instr) :=
  match op with
  | 0x00 => some .qpush
  | 0x01 => some .qpop
  | 0x02 => some .qmark
  | 0x03 => some .qrewind
  | 0x04 => some .qrel
  | 0x05 => some .qstat
  | _ => none

/-- Operations of format B (R70). -/
def bOp (op : Nat) : Option (Site → BF → Instr) :=
  match op with
  | 0x00 => some .bra
  | 0x01 => some .call
  | 0x02 => some .ret
  | 0x03 => some .braInd
  | _ => none

/-- Operations of format C (R70). -/
def cOp (op : Nat) : Option (Site → CF → Instr) :=
  match op with
  | 0x00 => some .braCc
  | _ => none

/-- Operations of format S (R70). -/
def sOp (op : Nat) : Option (Site → SF → Instr) :=
  match op with
  | 0x00 => some .nop
  | 0x01 => some .exit
  | 0x02 => some .barB
  | 0x03 => some .wait
  | 0x04 => some .fence
  | 0x05 => some .sreg
  | 0x06 => some fun x w => .trap x (.word w)
  | 0x07 => some .tokTest
  | _ => none

/-- The word of a Lamiz command (R69, R70); none for a command that is no instruction. -/
def encodeLamiz (i : Instr) : Option W64 :=
  match i with
  | .add _ w => some (w.toWord 0x00)
  | .sub _ w => some (w.toWord 0x01)
  | .mulLo _ w => some (w.toWord 0x02)
  | .mulHi _ w => some (w.toWord 0x03)
  | .madLo _ w => some (w.toWord 0x04)
  | .min _ w => some (w.toWord 0x05)
  | .max _ w => some (w.toWord 0x06)
  | .abs _ w => some (w.toWord 0x07)
  | .and _ w => some (w.toWord 0x08)
  | .or _ w => some (w.toWord 0x09)
  | .xor _ w => some (w.toWord 0x0A)
  | .not _ w => some (w.toWord 0x0B)
  | .shl _ w => some (w.toWord 0x0C)
  | .shr _ w => some (w.toWord 0x0D)
  | .sra _ w => some (w.toWord 0x0E)
  | .popc _ w => some (w.toWord 0x0F)
  | .clz _ w => some (w.toWord 0x10)
  | .brev _ w => some (w.toWord 0x11)
  | .sel _ w => some (w.toWord 0x12)
  | .setp _ w => some (w.toWord 0x13)
  | .mov _ w => some (w.toWord 0x14)
  | .fma _ w => some (w.toWord 0x20)
  | .addFloat _ w => some (w.toWord 0x21)
  | .mulFloat _ w => some (w.toWord 0x22)
  | .minFloat _ w => some (w.toWord 0x23)
  | .maxFloat _ w => some (w.toWord 0x24)
  | .rcp _ w => some (w.toWord 0x25)
  | .rsq _ w => some (w.toWord 0x26)
  | .sqrt _ w => some (w.toWord 0x27)
  | .ex2 _ w => some (w.toWord 0x28)
  | .lg2 _ w => some (w.toWord 0x29)
  | .setpFloat _ w => some (w.toWord 0x2A)
  | .cvt _ w => some (w.toWord 0x30)
  | .pack _ w => some (w.toWord 0x31)
  | .unpack _ w => some (w.toWord 0x32)
  | .shflIdx _ w => some (w.toWord 0x38)
  | .shflUp _ w => some (w.toWord 0x39)
  | .shflDown _ w => some (w.toWord 0x3A)
  | .shflXor _ w => some (w.toWord 0x3B)
  | .voteAny _ w => some (w.toWord 0x3C)
  | .voteAll _ w => some (w.toWord 0x3D)
  | .ballot _ w => some (w.toWord 0x3E)
  | .movVk _ w => some (w.toWord 0x00)
  | .addUniform _ w => some (w.toWord 0x00)
  | .subUniform _ w => some (w.toWord 0x01)
  | .mulUniform _ w => some (w.toWord 0x02)
  | .andUniform _ w => some (w.toWord 0x03)
  | .orUniform _ w => some (w.toWord 0x04)
  | .xorUniform _ w => some (w.toWord 0x05)
  | .shlUniform _ w => some (w.toWord 0x06)
  | .shrUniform _ w => some (w.toWord 0x07)
  | .sraUniform _ w => some (w.toWord 0x08)
  | .minUniform _ w => some (w.toWord 0x09)
  | .maxUniform _ w => some (w.toWord 0x0A)
  | .addi _ w => some (w.toWord 0x0B)
  | .movi _ w => some (w.toWord 0x0C)
  | .ori _ w => some (w.toWord 0x0D)
  | .v2u _ w => some (w.toWord 0x10)
  | .u2q _ w => some (w.toWord 0x11)
  | .setpU _ w => some (w.toWord 0x12)
  | .ld _ w => some (w.toWord 0x00)
  | .st _ w => some (w.toWord 0x01)
  | .ldRo _ w => some (w.toWord 0x02)
  | .ldu _ w => some (w.toWord 0x03)
  | .stu _ w => some (w.toWord 0x04)
  | .atom _ w => some (w.toWord 0x00)
  | .redLine _ w => some (w.toWord 0x01)
  | .redLineOrd _ w => some (w.toWord 0x02)
  | .mxa _ w => some (w.toWord 0x00)
  | .mxw _ w => some (w.toWord 0x01)
  | .tmov _ w => some (w.toWord 0x02)
  | .dld _ w => some (w.toWord 0x03)
  | .dset _ w => some (w.toWord 0x04)
  | .dmov _ w => some (w.toWord 0x05)
  | .dstD _ w => some (w.toWord 0x06)
  | .qpush _ w => some (w.toWord 0x00)
  | .qpop _ w => some (w.toWord 0x01)
  | .qmark _ w => some (w.toWord 0x02)
  | .qrewind _ w => some (w.toWord 0x03)
  | .qrel _ w => some (w.toWord 0x04)
  | .qstat _ w => some (w.toWord 0x05)
  | .bra _ w => some (w.toWord 0x00)
  | .call _ w => some (w.toWord 0x01)
  | .ret _ w => some (w.toWord 0x02)
  | .braInd _ w => some (w.toWord 0x03)
  | .braCc _ w => some (w.toWord 0x00)
  | .nop _ w => some (w.toWord 0x00)
  | .exit _ w => some (w.toWord 0x01)
  | .barB _ w => some (w.toWord 0x02)
  | .wait _ w => some (w.toWord 0x03)
  | .fence _ w => some (w.toWord 0x04)
  | .sreg _ w => some (w.toWord 0x05)
  | .trap _ (.word w) => some (w.toWord 0x06)
  | .tokTest _ w => some (w.toWord 0x07)
  | _ => none

/-- The command that a word stands for where it issues (R66, R70); none for a reserved FMT or OP, which is an illegal instruction (R67). -/
def decodeLamiz (x : Site) (v : W64) : Option Instr :=
  let op := (v.extractLsb' 4 8).toNat
  match (v.extractLsb' 0 4).toNat with
  | 0 => (vectorOp op).elim ((vvOp op).map fun f => f x (.ofWord v)) fun f => some (f x (.vv (.ofWord v)))
  | 1 => (vectorOp op).map fun f => f x (.vi (.ofWord v))
  | 2 => if op = 0 then some (.movVk x (.ofWord v)) else none
  | 3 => (uOp op).map fun f => f x (.ofWord v)
  | 4 => (mOp op).map fun f => f x (.ofWord v)
  | 5 => (aOp op).map fun f => f x (.ofWord v)
  | 6 => (xOp op).map fun f => f x (.ofWord v)
  | 7 => (qOp op).map fun f => f x (.ofWord v)
  | 8 => (bOp op).map fun f => f x (.ofWord v)
  | 9 => (cOp op).map fun f => f x (.ofWord v)
  | 10 => (sOp op).map fun f => f x (.ofWord v)
  | _ => none

end Sys2Proof
end

