-- ==== Sys2Proof/Config.lean ====
section
/-! DEFINITION. What the spec leaves open: free values (opaque, no body) and the constants of the signed records
that the model names. Every one has an entry in the assumption log. -/

namespace Sys2Proof.Config

/-- A free choice among the results that R76 allows for rcp, rsq, sqrt, ex2 and lg2: operation, format width, input bits (log 10). -/
opaque ulpChoice : Nat → Nat → Nat → Nat
/-- The one fixed exponential of the Vetch engines within its 2-ulp bound (R171): input bits (log 10). -/
opaque expChoice : Nat → Nat
/-- A fresh free value for a choice that the spec leaves open: which choice point, how many were taken before (log 11). -/
opaque freeValue : Nat → Nat → Nat
/-- SHA-256 of a byte string (R485, R487, R493): a named standard, uninterpreted here (log 12). -/
opaque sha256 : List Byte → BitVec 256
/-- HKDF-SHA256, HKDF-Expand and the IDE and link derivations: label, secret, salt, info (R495, R496, R498; log 12). -/
opaque hkdf : Nat → Nat → List Byte → List Byte → BitVec 288
/-- The public point of a private value on secp384r1, 97 bytes uncompressed (R498; log 12). -/
opaque ecPoint : Nat → List Byte
/-- The shared secret of a private value and a peer point; none when the point is not on the curve (R498; log 12). -/
opaque ecShared : Nat → List Byte → Option Nat
/-- RSASSA-PKCS1-v1_5 signature under the key with the given identity, 384 bytes (R490; log 12). -/
opaque rsaSign : Nat → List Byte → List Byte
/-- Whether a signature over a text verifies under a named authority: vendor, owner authority, field return (R503, R504; log 12). -/
opaque sigOk : Nat → List Byte → Bool
/-- AES-256-GCM encryption: key, IV, associated data, plaintext, giving ciphertext and 16-byte tag (R498; log 12). -/
opaque gcmSeal : BitVec 256 → List Byte → List Byte → List Byte → List Byte × List Byte
/-- AES-256-GCM decryption, giving the plaintext and whether the tag matches (R498; log 12). -/
opaque gcmOpen : BitVec 256 → List Byte → List Byte → List Byte → List Byte → List Byte × Bool
/-- The X.509 chain of a certificate slot for an acting die and its key (R485, R486; log 12). -/
opaque certChain : Nat → Nat → List Byte
/-- The new voltage tables, one entry per clock step, that a re-calibration of a half measures (R544; log 13). -/
opaque recalVoltage : Nat → Nat → Nat

/-- The check symbols of a correcting-class burst by data, sector and poison: the spec names the code and not its generator (R290, R295; log 70). -/
opaque checkSymbols : W256 → Nat → Bool → BitVec 32

/-- Voltage table and ceiling of a half of a site, by 2 × site + half and clock step, in 2.5 mV units: the signed record (R514; log 13). -/
opaque voltage : Nat → Nat → Nat
opaque ceiling : Nat → Nat → Nat

/-- The digest of the component of a measurement slot after a first power-on (R487; log 12). -/
opaque powerOnDigest : Nat → BitVec 256
/-- The digest of the manufacturing record with its in-service sections (R487, R535; log 12). -/
opaque recordDigest : List Nat → BitVec 256
/-- A field of a configuration record, whose layout the spec does not give: 0 the version, 1 the bits of CFG_OWNER (R430, R503; log 12). -/
opaque recordField : Nat → List Byte → Nat

end Sys2Proof.Config
end

