-- ==== Sys2Proof/Machine/Map.lean ====
section
/-! DEFINITION. Operations over the sparse tables and over byte memory, once for the whole model. Byte order is decided
here alone: the module is little-endian (R3). -/

namespace Sys2Proof.NMap

/-- The value of key `k`, `d` where none is listed. -/
def get {α : Type} (d : α) : NMap α → Nat → α
  | [], _ => d
  | (a, v) :: r, k => if k = a then v else get d r k

/-- Removes key `k`. -/
def del {α : Type} : NMap α → Nat → NMap α
  | [], _ => []
  | (a, v) :: r, k => if k = a then del r k else (a, v) :: del r k

/-- Puts value `v` at key `k`, keeping the keys rising. -/
def put {α : Type} : NMap α → Nat → α → NMap α
  | [], k, v => [(k, v)]
  | (a, w) :: r, k, v =>
    if k < a then (k, v) :: (a, w) :: r
    else if k = a then (k, v) :: r
    else (a, w) :: put r k v

/-- Writes `v` at key `k`; the default removes the entry, so that equal tables are equal data. -/
def set {α : Type} [DecidableEq α] (d : α) (m : NMap α) (k : Nat) (v : α) : NMap α :=
  if v = d then del m k else put m k v

/-- The keys are at or above `lo` and strictly rise, and no value is the default. -/
def wfFrom {α : Type} [DecidableEq α] (d : α) : Nat → NMap α → Bool
  | _, [] => true
  | lo, (a, v) :: r => decide (lo ≤ a) && decide (v ≠ d) && wfFrom d (a + 1) r

/-- The canonical form of a table. -/
def wf {α : Type} [DecidableEq α] (d : α) (m : NMap α) : Bool := wfFrom d 0 m

/-- The listed value of a key, none where it is not listed. -/
def find? {α : Type} : NMap α → Nat → Option α
  | [], _ => none
  | (a, v) :: r, k => if k = a then some v else find? r k

/-- Changes the value at `k` by `f`. -/
def upd {α : Type} [DecidableEq α] (d : α) (m : NMap α) (k : Nat) (f : α → α) : NMap α := set d m k (f (get d m k))

/-- Removes every key with `lo ≤ key < hi`. -/
def clear {α : Type} (m : NMap α) (lo hi : Nat) : NMap α := m.filter fun p => !(decide (lo ≤ p.1) && decide (p.1 < hi))

/-- Changes every value. -/
def mapV {α : Type} (m : NMap α) (f : α → α) : NMap α := List.map (fun (x : Nat × α) => (x.1, f x.2)) m

/-- The entries whose value satisfies `p`. -/
def keepV {α : Type} (m : NMap α) (p : α → Bool) : NMap α := List.filter (fun (x : Nat × α) => p x.2) m

/-- Folds over the entries. -/
def foldV {α β : Type} (m : NMap α) (b : β) (f : β → Nat → α → β) : β := List.foldl (fun b (x : Nat × α) => f b x.1 x.2) b m

end Sys2Proof.NMap

namespace Sys2Proof.Mem

/-- One byte of memory; an address that nothing has written reads 0 (R539). -/
def read (m : Mem) (a : Nat) : Byte := NMap.get 0 m a

/-- Writes one byte. -/
def write (m : Mem) (a : Nat) (v : Byte) : Mem := NMap.set 0 m a v

/-- `n` bytes from `a` upward. -/
def readBytes (m : Mem) (a : Nat) : Nat → List Byte
  | 0 => []
  | n + 1 => read m a :: readBytes m (a + 1) n

/-- Writes bytes from `a` upward. -/
def writeBytes (m : Mem) (a : Nat) : List Byte → Mem
  | [] => m
  | b :: r => writeBytes (write m a b) (a + 1) r

/-- Memory's canonical form. -/
def wf (m : Mem) : Bool := NMap.wf 0 m

end Sys2Proof.Mem

namespace Sys2Proof

/-- The number whose little-endian bytes are given (R3). -/
def leNat : List Byte → Nat
  | [] => 0
  | b :: r => b.toNat + 256 * leNat r

/-- The `n` little-endian bytes of a number (R3). -/
def leBytes : Nat → Nat → List Byte
  | 0, _ => []
  | n + 1, v => BitVec.ofNat 8 v :: leBytes n (v / 256)

/-- `n` bytes of memory at `a` as one little-endian number. -/
def Mem.readLE (m : Mem) (a n : Nat) : Nat := leNat (m.readBytes a n)

/-- Writes the low `n` bytes of `v` at `a`, little-endian. -/
def Mem.writeLE (m : Mem) (a n v : Nat) : Mem := m.writeBytes a (leBytes n v)

/-- Bits `[lo + w - 1 : lo]` of a number. -/
def bits (v lo w : Nat) : Nat := v / 2 ^ lo % 2 ^ w

/-- Bit `i` of a number. -/
def bit (v i : Nat) : Bool := v / 2 ^ i % 2 == 1

/-- The number with bits `[lo + w - 1 : lo]` replaced by `x`. -/
def setBits (v lo w x : Nat) : Nat := v - bits v lo w * 2 ^ lo + x % 2 ^ w * 2 ^ lo

/-- Sign extension of a `w`-bit field. -/
def sext (w v : Nat) : Int := if v % 2 ^ w < 2 ^ (w - 1) then (v % 2 ^ w : Nat) else ((v % 2 ^ w : Nat) : Int) - (2 ^ w : Nat)

/-- A signed number as its `w`-bit two's-complement pattern. -/
def wrap (w : Nat) (v : Int) : Nat := (v % ((2 ^ w : Nat) : Int)).toNat

/-- Lane numbers 0 to 31 (R26). -/
def lanes : List Nat := List.range 32

/-- Whether lane `l` is in a mask. -/
def inMask (m : W32) (l : Nat) : Bool := m.getLsbD l

/-- A mask from a test of each lane. -/
def maskOf (p : Nat → Bool) : W32 := (lanes.filter p).foldl (fun m l => m ||| (1#32 <<< l)) 0

/-- The lowest lane of a mask, 32 when empty. -/
def lowestLane (m : W32) : Nat := (lanes.find? (inMask m)).getD 32

/-- Ceiling division. -/
def cdiv (a b : Nat) : Nat := (a + b - 1) / b

/-- The bytes of a list joined in groups of `n`. -/
def listSet {α : Type} (l : List α) (i : Nat) (v : α) : List α := l.set i v

end Sys2Proof
end

