-- ==== Sys2Proof/Machine/Num.lean ====
section
/-! DEFINITION. Numbers and arithmetic (spec 04): element formats, exact values, rounding, saturation, conversions and
exact dot products. Every result is formed exactly and rounded once (R114). -/

namespace Sys2Proof.Num

/-- Element formats (R102, R104). -/
inductive Fmt where
  | f32 | bf16 | f16 | e5m2 | e4m3 | e3m2 | e2m3 | e2m1
  | s8 | s4 | u32 | s32 | u64 | s64
deriving DecidableEq, Repr

/-- Width in bits. -/
def Fmt.width : Fmt → Nat
  | .f32 | .u32 | .s32 => 32
  | .bf16 | .f16 => 16
  | .e5m2 | .e4m3 | .s8 => 8
  | .e3m2 | .e2m3 => 6
  | .e2m1 | .s4 => 4
  | .u64 | .s64 => 64

/-- Whether the format is floating point. -/
def Fmt.isFloat : Fmt → Bool
  | .f32 | .bf16 | .f16 | .e5m2 | .e4m3 | .e3m2 | .e2m3 | .e2m1 => true
  | _ => false

/-- Mantissa bits m (R102). -/
def Fmt.man : Fmt → Nat
  | .f32 => 23 | .bf16 => 7 | .f16 => 10 | .e5m2 => 2 | .e4m3 => 3 | .e3m2 => 2 | .e2m3 => 3 | .e2m1 => 1
  | _ => 0

/-- Exponent bias (R102). -/
def Fmt.bias : Fmt → Int
  | .f32 | .bf16 => 127 | .f16 | .e5m2 => 15 | .e4m3 => 7 | .e3m2 => 3 | .e2m3 | .e2m1 => 1
  | _ => 0

/-- Bit pattern of the largest finite magnitude (R102). -/
def Fmt.maxBits : Fmt → Nat
  | .f32 => 0x7F7FFFFF | .bf16 => 0x7F7F | .f16 => 0x7BFF | .e5m2 => 0x7B | .e4m3 => 0x7E
  | .e3m2 => 0x1F | .e2m3 => 0x1F | .e2m1 => 0x7
  | _ => 0

/-- Bit pattern of +∞ where the format has one (R102). -/
def Fmt.infBits : Fmt → Option Nat
  | .f32 => some 0x7F800000 | .bf16 => some 0x7F80 | .f16 => some 0x7C00 | .e5m2 => some 0x7C
  | _ => none

/-- The canonical NaN (R106); formats without a NaN write +0 (R117). -/
def Fmt.nanBits : Fmt → Nat
  | .f32 => 0x7FC00000 | .bf16 => 0x7FC0 | .f16 => 0x7E00 | .e5m2 => 0x7E | .e4m3 => 0x7F
  | _ => 0

/-- Whether an integer format is signed. -/
def Fmt.signed : Fmt → Bool
  | .s8 | .s4 | .s32 | .s64 => true
  | _ => false

/-- A decoded value: a NaN, an infinity, or exactly (−1)^neg × mag × 2^exp; a zero keeps its sign (R107). -/
inductive Val where
  | nan
  | inf (neg : Bool)
  | fin (neg : Bool) (mag : Nat) (exp : Int)
deriving DecidableEq, Repr

/-- The value of a bit pattern (R102 to R105); an integer decodes to itself. -/
def decode (f : Fmt) (v : Nat) : Val :=
  if f.isFloat then
    let neg := bit v (f.width - 1)
    let mg := v % 2 ^ (f.width - 1)
    let e := mg / 2 ^ f.man
    let m := mg % 2 ^ f.man
    match f.infBits with
    | some i => if mg = i then .inf neg else if i < mg then .nan
                else if e = 0 then .fin neg m (1 - f.bias - f.man) else .fin neg (2 ^ f.man + m) (e - f.bias - f.man)
    | none => if mg = f.nanBits ∧ f = .e4m3 then .nan
              else if e = 0 then .fin neg m (1 - f.bias - f.man) else .fin neg (2 ^ f.man + m) (e - f.bias - f.man)
  else
    let i : Int := if f.signed then sext f.width v else (v % 2 ^ f.width : Nat)
    .fin (decide (i < 0)) i.natAbs 0

/-- Negation. -/
def Val.negate : Val → Val
  | .nan => .nan | .inf n => .inf (!n) | .fin n m e => .fin (!n) m e
/-- Absolute value. -/
def Val.abs : Val → Val
  | .nan => .nan | .inf _ => .inf false | .fin _ m e => .fin false m e
/-- Whether a value is NaN. -/
def Val.isNan : Val → Bool | .nan => true | _ => false
/-- Whether a value is zero. -/
def Val.isZero : Val → Bool | .fin _ 0 _ => true | _ => false
/-- Whether a value is finite. -/
def Val.isFin : Val → Bool | .fin .. => true | _ => false

/-- The signed integer mantissa at a common exponent `e` not above the value's own. -/
def Val.at (e : Int) : Val → Int
  | .fin n m x => let k : Int := (m * 2 ^ (x - e).toNat : Nat); if n then -k else k
  | _ => 0

/-- Exact product (R120: NaN, 0 × ∞). -/
def mul : Val → Val → Val
  | .nan, _ | _, .nan => .nan
  | .inf a, .inf b => .inf (a != b)
  | .inf a, .fin b m _ => if m = 0 then .nan else .inf (a != b)
  | .fin a m _, .inf b => if m = 0 then .nan else .inf (a != b)
  | .fin a m x, .fin b n y => .fin (a != b) (m * n) (x + y)

/-- Exact sum (R120: ∞ − ∞ is NaN; an exact zero sum of opposite signs is +0, −0 in mode 3). -/
def add (mode : Nat) : Val → Val → Val
  | .nan, _ | _, .nan => .nan
  | .inf a, .inf b => if a = b then .inf a else .nan
  | .inf a, .fin .. => .inf a
  | .fin .., .inf b => .inf b
  | .fin a m x, .fin b n y =>
    let e := min x y
    let s := Val.at e (.fin a m x) + Val.at e (.fin b n y)
    if s = 0 then .fin (if a = b then a else decide (mode = 3)) 0 e else .fin (decide (s < 0)) s.natAbs e

/-- A finite value as sign, numerator and denominator. -/
def frac (m : Nat) (e : Int) : Nat × Nat := if 0 ≤ e then (m * 2 ^ e.toNat, 1) else (m, 2 ^ (-e).toNat)

/-- floor(log2 (n / d)) of a positive fraction. -/
def flog2 (n d : Nat) : Int :=
  let l : Int := (Nat.log2 n : Int) - (Nat.log2 d : Int)
  let ok := if 0 ≤ l then d * 2 ^ l.toNat ≤ n else d ≤ n * 2 ^ (-l).toNat
  if ok then l else l - 1

/-- n / d scaled by 2^(−u): quotient, remainder and denominator. -/
def scale (n d : Nat) (u : Int) : Nat × Nat × Nat :=
  let (a, b) := if 0 ≤ u then (n, d * 2 ^ u.toNat) else (n * 2 ^ (-u).toNat, d)
  (a / b, a % b, b)

/-- Whether a magnitude with quotient `t` and remainder `r / b` rounds up (R114, R115). `rnd t D` gives R. -/
def roundsUp (mode : Nat) (neg : Bool) (t r b : Nat) (rnd : Nat → Nat) : Bool :=
  match mode with
  | 0 => decide (b < 2 * r) || (decide (2 * r = b) && decide (t % 2 = 1))
  | 1 => false
  | 2 => !neg && decide (r ≠ 0)
  | 3 => neg && decide (r ≠ 0)
  | _ => let D := r * 2 ^ 16 / b; decide (2 ^ 16 ≤ D + rnd D)

/-- The unit in the last place exponent of a magnitude n / d in a float format. -/
def ulpExp (f : Fmt) (n d : Nat) : Int := max (flog2 n d) (1 - f.bias) - f.man

/-- The magnitude pattern of `k` units of 2^u, the exponent unbounded. -/
def packMag (f : Fmt) (k : Nat) (u : Int) : Nat := (u + f.man + f.bias - 1).toNat * 2 ^ f.man + k

/-- The pattern with its sign. -/
def withSign (f : Fmt) (neg : Bool) (mg : Nat) : Nat := if neg then mg + 2 ^ (f.width - 1) else mg

/-- The result at the edge of the range, for an overflow or an infinity (R117). -/
def edge (f : Fmt) (sat neg : Bool) : Nat :=
  match f.infBits with
  | some i => withSign f neg (if sat then f.maxBits else i)
  | none => if f = .e4m3 ∧ !sat then f.nanBits else withSign f neg f.maxBits

/-- A positive or negative fraction rounded once into a float format (R114, R117). -/
def roundFrac (f : Fmt) (mode : Nat) (sat neg : Bool) (n d : Nat) (rnd : Nat → Nat → Nat) : Nat :=
  if n = 0 then withSign f neg 0 else
  let u := ulpExp f n d
  let (t, r, b) := scale n d u
  let tBits := withSign f neg (min (packMag f t u) f.maxBits)
  let k := if roundsUp mode neg t r b (rnd tBits) then t + 1 else t
  let mg := packMag f k u
  if mg ≤ f.maxBits then withSign f neg mg
  else if mode = 1 ∨ (mode = 2 ∧ neg) ∨ (mode = 3 ∧ !neg) then withSign f neg f.maxBits
  else edge f sat neg

/-- The range of an integer format. -/
def Fmt.lo (f : Fmt) : Int := if f.signed then -((2 ^ (f.width - 1) : Nat) : Int) else 0
/-- The top of the range of an integer format. -/
def Fmt.hi (f : Fmt) : Int := if f.signed then ((2 ^ (f.width - 1) : Nat) : Int) - 1 else ((2 ^ f.width : Nat) : Int) - 1

/-- Clamps an integer to a format's range. -/
def clamp (f : Fmt) (i : Int) : Int := max f.lo (min f.hi i)

/-- A fraction rounded to an integer and clamped to the type (R114, R117, R118). -/
def roundInt (f : Fmt) (mode : Nat) (neg : Bool) (n d : Nat) (rnd : Nat → Nat → Nat) : Nat :=
  let (t, r, b) := (n / d, n % d, d)
  let sgn (k : Nat) : Int := if neg then -(k : Int) else k
  let k := if roundsUp mode neg t r b (rnd (wrap (min f.width 32) (sgn t))) then t + 1 else t
  wrap f.width (clamp f (sgn k))

/-- No random source: every mode but 4 ignores it. -/
def noRnd : Nat → Nat → Nat := fun _ _ => 0

/-- A value rounded into a format under mode and SAT (R114 to R118). -/
def encode (f : Fmt) (mode : Nat) (sat : Bool) (rnd : Nat → Nat → Nat) : Val → Nat
  | .nan => f.nanBits
  | .inf neg => if f.isFloat then edge f sat neg else wrap f.width (if neg then f.lo else f.hi)
  | .fin neg m e =>
    let (n, d) := frac m e
    if f.isFloat then roundFrac f mode sat neg n d rnd else roundInt f mode neg n d rnd

/-- Rounded to nearest even, SAT = 0. -/
def encodeRN (f : Fmt) (v : Val) : Nat := encode f 0 false noRnd v

/-- An integer converted to an integer type: clamped or wrapped, as R118 says of narrower types; at the same or a greater width too (log 66). -/
def intToInt (dst : Fmt) (sat : Bool) (i : Int) : Nat := wrap dst.width (if sat then clamp dst i else i)

/-- The integer a pattern holds. -/
def intOf (f : Fmt) (v : Nat) : Int := if f.signed then sext f.width v else (v % 2 ^ f.width : Nat)

/-- cvt of one element (R77, R114, R117, R118). -/
def convert (src dst : Fmt) (mode : Nat) (sat : Bool) (rnd : Nat → Nat → Nat) (v : Nat) : Nat :=
  if src = dst ∧ !src.isFloat then v % 2 ^ src.width
  else if !src.isFloat ∧ !dst.isFloat then intToInt dst sat (intOf src v)
  else encode dst mode sat rnd (decode src v)

/-! ## Stochastic rounding (R115) -/

/-- mix of R115. -/
def mix (z : W64) : W64 :=
  let z := z ^^^ (z >>> 30)
  let z := z * 0xBF58476D1CE4E5B9#64
  let z := z ^^^ (z >>> 27)
  let z := z * 0x94D049BB133111EB#64
  z ^^^ (z >>> 31)

/-- What random16 takes besides the element and the value (R115). -/
structure Seed where
  seed : Nat
  inst : Nat
  ofs  : Nat
  blk  : Nat
  grp  : Nat
deriving DecidableEq, Repr

/-- random16 of R115. -/
def random16 (s : Seed) (lane elem t D : Nat) : Nat :=
  let z := mix (BitVec.ofNat 64 (s.seed % 2 ^ 32 * 2 ^ 32) ||| BitVec.ofNat 64 (s.inst % 2 ^ 32))
  let z := mix (z ^^^ BitVec.ofNat 64 (s.ofs * 2 ^ 24) ^^^ BitVec.ofNat 64 (s.blk % 2 ^ 16 * 2 ^ 10)
    ^^^ BitVec.ofNat 64 (s.grp * 2 ^ 5) ^^^ BitVec.ofNat 64 lane)
  let z := mix (z ^^^ BitVec.ofNat 64 (elem * 2 ^ 48) ^^^ BitVec.ofNat 64 (t % 2 ^ 32 * 2 ^ 16) ^^^ BitVec.ofNat 64 D)
  (z >>> 48).toNat

/-! ## Vector float operations -/

/-- fma on one element with a single rounding (R76, R120). -/
def fma (f : Fmt) (mode : Nat) (sat : Bool) (rnd : Nat → Nat → Nat) (a b c : Val) : Nat :=
  encode f mode sat rnd (add mode (mul a b) c)

/-- Whether a < b, both not NaN; `zlt` makes −0 less than +0 (R121). -/
def less (zlt : Bool) : Val → Val → Bool
  | .inf true, .inf true => false
  | .inf true, .nan => false
  | .inf true, _ => true
  | .inf false, _ => false
  | .fin .., .inf n => !n
  | .fin a m x, .fin b n y =>
    if m = 0 ∧ n = 0 then zlt && a && !b
    else let e := min x y; decide (Val.at e (.fin a m x) < Val.at e (.fin b n y))
  | _, _ => false

/-- min (R121). -/
def fmin (a b : Val) : Val := if a.isNan then b else if b.isNan then a else if less true b a then b else a
/-- max (R121). -/
def fmax (a b : Val) : Val := if a.isNan then b else if b.isNan then a else if less true a b then b else a

/-- The conditions of float setp (R73, R121). -/
def fcond (cc : Nat) (a b : Val) : Bool :=
  let un := a.isNan || b.isNan
  let lt := less false a b
  let gt := less false b a
  match cc with
  | 0 => !un && !lt && !gt
  | 1 => un || lt || gt
  | 2 => !un && lt
  | 3 => !un && !gt
  | 4 => !un && gt
  | 5 => !un && !lt
  | 6 => un
  | _ => !un

/-! ## The approximated operations (R76, R122) -/

/-- rcp, rsq, sqrt, ex2, lg2. -/
inductive Approx where | rcp | rsq | sqrt | ex2 | lg2
deriving DecidableEq, Repr

/-- Number of the operation as the free choice names it. -/
def Approx.num : Approx → Nat | .rcp => 0 | .rsq => 1 | .sqrt => 2 | .ex2 => 3 | .lg2 => 4

/-- Integer square root by bisection over `k` bits. -/
def isqrtGo (n : Nat) : Nat → Nat → Nat
  | 0, r => r
  | k + 1, r => let c := r + 2 ^ k; isqrtGo n k (if c * c ≤ n then c else r)
/-- floor of the square root. -/
def isqrt (n : Nat) : Nat := isqrtGo n (Nat.log2 n / 2 + 1) 0

/-- Fraction bits kept by the fixed-point expansions below. -/
def fx : Nat := 128

/-- 2^f in fixed point, f = Σ bit_i 2^(−i): multiplies by the successive square roots of 2. -/
def pow2Go (f c acc : Nat) : Nat → Nat
  | 0 => acc
  | k + 1 =>
    let c := isqrt (c * 2 ^ fx)
    let top := f * 2 / 2 ^ fx
    pow2Go (f * 2 % 2 ^ fx) c (if top = 1 then acc * c / 2 ^ fx else acc) k
/-- 2^(f / 2^fx), in units of 2^(−fx), for f below 2^fx. -/
def pow2Fx (f : Nat) : Nat := pow2Go f (2 * 2 ^ fx) (2 ^ fx) 100

/-- log2 of m / 2^fx in [1, 2) in units of 2^(−fx), by repeated squaring. -/
def log2Go (m acc w : Nat) : Nat → Nat
  | 0 => acc
  | k + 1 =>
    let q := m * m / 2 ^ fx
    if 2 * 2 ^ fx ≤ q then log2Go (q / 2) (acc + w) (w / 2) k else log2Go q acc (w / 2) k
/-- log2 of m / 2^fx. -/
def log2Fx (m : Nat) : Nat := log2Go m 0 (2 ^ (fx - 1)) 100

/-- One of the candidates `lo .. lo + n − 1`, chosen freely. -/
def pick (choice lo n : Nat) : Nat := lo + choice % (max n 1)

/-- The greatest pattern whose value is at most k × 2^u, and whether it is equal to it. -/
def patDown (f : Fmt) (k : Nat) (u : Int) : Nat × Bool :=
  if k = 0 then (0, true) else
  let (n, d) := frac k u
  let w := ulpExp f n d
  let (t, r, _) := scale n d w
  (packMag f t w, decide (r = 0))

/-- A pattern within `lim` units in the last place 2^u of a value that has floor k in units of 2^u and ceiling h in half units,
freely chosen (R76). -/
def withinUlps (f : Fmt) (lim k h : Nat) (u : Int) (choice : Nat) : Nat :=
  let hi := (patDown f (k + lim) u).1
  let lo := if h ≤ 2 * lim then 0 else match patDown f (h - 2 * lim) (u - 1) with | (m, exact) => if exact then m else m + 1
  pick choice lo (hi + 1 - lo)

/-- Positive fraction n / d: a magnitude pattern within 1 unit in the last place, freely chosen (R76). `root` takes
the square root of the fraction first. -/
def within1 (f : Fmt) (root : Bool) (n d choice : Nat) : Nat :=
  if n = 0 then 0 else
  let e := if root then (flog2 n d) / 2 else flog2 n d
  let u := max e (1 - f.bias) - f.man
  let floor (v : Int) : Nat × Bool :=
    if root then
      let (q, r, _) := scale n d (2 * v)
      (isqrt q, decide (isqrt q * isqrt q = q) && decide (r = 0))
    else let (q, r, _) := scale n d v; (q, decide (r = 0))
  let (h, exact) := floor (u - 1)
  withinUlps f 1 (floor u).1 (if exact then h else h + 1) u choice

/-- A magnitude pattern within 2 units in the last place of a fixed-point approximation, freely chosen (R76). -/
def within2 (f : Fmt) (n d choice : Nat) : Nat :=
  let u := if n = 0 then 1 - f.bias - f.man else ulpExp f n d
  let (h, r, _) := scale n d (u - 1)
  withinUlps f 2 (h / 2) (if r = 0 then h else h + 1) u choice

/-- A magnitude pattern, an overflow where it passes the largest finite (R117). -/
def capMag (f : Fmt) (sat neg : Bool) (mg : Nat) : Nat :=
  if mg ≤ f.maxBits then withSign f neg mg else edge f sat neg

/-- 2^x for a finite x other than 0; above a whole exponent it is more than a power of 2, however close. -/
def ex2Fin (f : Fmt) (sat neg : Bool) (m : Nat) (e : Int) (choice : Nat) : Nat :=
  let (n, d) := frac m e
  let i : Int := if neg then -(((n + d - 1) / d : Nat) : Int) else ((n / d : Nat) : Int)
  if i > 4096 then edge f sat false
  else if i < -4096 then capMag f sat false (within2 f 0 1 choice)
  else
    let fr : Nat := if neg then (i.natAbs * d - n) * 2 ^ fx / d else n % d * 2 ^ fx / d
    let p := pow2Fx fr + (if fr = 0 ∧ n % d ≠ 0 then 1 else 0)
    let (a, b) := if 0 ≤ i then (p * 2 ^ i.toNat, 2 ^ fx) else (p, 2 ^ (fx + (-i).toNat))
    capMag f sat false (within2 f a b choice)

/-- log2 of a finite positive x. -/
def lg2Fin (f : Fmt) (sat : Bool) (m : Nat) (e : Int) (choice : Nat) : Nat :=
  let l := Nat.log2 m
  let ip : Int := e + l
  let mant := m * 2 ^ fx / 2 ^ l
  let v : Int := ip * ((2 ^ fx : Nat) : Int) + (log2Fx mant : Nat)
  if v = 0 then withSign f (decide (choice / 8 % 2 = 1)) (within2 f 0 1 choice) else capMag f sat (decide (v < 0)) (within2 f v.natAbs (2 ^ fx) choice)

/-- The approximated operations with the special results of R122; a reciprocal that overflows is an infinity of its sign with SAT 0 (R117;
log 66), and lg2 of 1 is open within its bound (log 10). -/
def approx (op : Approx) (f : Fmt) (sat : Bool) (x : Val) : Nat :=
  let enc := encode f 0 sat noRnd
  let ch (m : Nat) (e : Int) (neg : Bool) := Config.ulpChoice op.num f.width (encodeRN f (.fin neg m e))
  match op, x with
  | _, .nan => f.nanBits
  | .rcp, .inf n => enc (.fin n 0 0)
  | .rsq, .inf n => if n then f.nanBits else enc (.fin false 0 0)
  | .sqrt, .inf n => if n then f.nanBits else enc (.inf false)
  | .ex2, .inf n => if n then enc (.fin false 0 0) else enc (.inf false)
  | .lg2, .inf n => if n then f.nanBits else enc (.inf false)
  | .rcp, .fin n m e => if m = 0 then enc (.inf n) else
      let (a, b) := frac m e
      capMag f sat n (within1 f false b a (ch m e n))
  | .rsq, .fin n m e => if m = 0 then enc (.inf n) else if n then f.nanBits else
      let (a, b) := frac m e
      capMag f sat false (within1 f true b a (ch m e n))
  | .sqrt, .fin n m e => if m = 0 then enc (.fin n 0 0) else if n then f.nanBits else
      let (a, b) := frac m e
      capMag f sat false (within1 f true a b (ch m e n))
  | .ex2, .fin n m e => if m = 0 then enc (.fin false 1 0) else ex2Fin f sat n m e (ch m e n)
  | .lg2, .fin n m e => if m = 0 then enc (.inf true) else if n then f.nanBits else lg2Fin f sat m e (ch m e n)

/-! ## Exact block dot products (R124 to R126) -/

/-- The least exponent among finite values. -/
def minExp : List Val → Int → Int
  | [], e => e
  | .fin _ _ x :: r, e => minExp r (min x e)
  | _ :: r, e => minExp r e

/-- c_old plus the exact sum of products, rounded once to nearest even into F32 (R124, R125). -/
def blockSum (cOld : Nat) (prods : List Val) : Nat :=
  let vs := decode .f32 cOld :: prods
  if vs.any Val.isNan then Fmt.nanBits .f32 else
  let hasP := vs.any fun v => v == .inf false
  let hasN := vs.any fun v => v == .inf true
  if hasP && hasN then Fmt.nanBits .f32
  else if hasP then encodeRN .f32 (.inf false)
  else if hasN then encodeRN .f32 (.inf true)
  else
    let e := minExp vs 0
    let s := (vs.map (Val.at e)).foldl (· + ·) 0
    let allNegZero := vs.all fun v => match v with | .fin n m _ => n && m == 0 | _ => false
    if s = 0 then encodeRN .f32 (.fin allNegZero 0 0) else encodeRN .f32 (.fin (decide (s < 0)) s.natAbs e)

/-- The INT32 accumulation (R126). -/
def blockSumInt (cOld : Nat) (prods : List Int) : Nat :=
  wrap 32 (sext 32 cOld + prods.foldl (· + ·) 0)

/-! ## Block formats (R108 to R112, R127 to R129) -/

/-- Decodes an element of a scaled block: 2^(s − 127) × x, with NaN where the scale is NaN (R108, R109). -/
def scaled (s : Nat) (x : Val) : Val :=
  if s = 0xFF then .nan else match x with | .fin n m e => .fin n m (e + (s : Int) - 127) | v => v

/-- Decodes a DB4 element: G × 2^(s − 127) × x; a NaN or infinite G makes it NaN (R110). -/
def scaledSeg (g s : Nat) (x : Val) : Val :=
  match decode .f16 g with
  | .fin n m e => mul (.fin n m e) (scaled s x)
  | _ => .nan

/-- The larger of two magnitudes among finite values, none of them giving 0. -/
def maxMag : List Val → Val
  | [] => .fin false 0 0
  | v :: r => let b := maxMag r; match v with | .fin _ m e => if less false b (.fin false m e) then .fin false m e else b | _ => b

/-- floor(log2) of a positive finite value; 0 for zero. -/
def vlog2 : Val → Int
  | .fin _ m e => if m = 0 then 0 else (Nat.log2 m : Int) + e
  | _ => 0

/-- x divided by 2^k. -/
def unscale (k : Int) : Val → Val
  | .fin n m e => .fin n m (e - k)
  | v => v

/-- The element formats of DB8 and DB6 by their largest exponent e_max (R127). -/
def eMax : Fmt → Int | .e4m3 => 8 | .e5m2 => 15 | .e3m2 => 4 | _ => 2

/-- A DB8 or DB6 block from its source values: scale and elements (R127, R129). `rnd i` serves element i. -/
def toBlock (f : Fmt) (mode : Nat) (rnd : Nat → Nat → Nat → Nat) (xs : List Val) : Nat × List Nat :=
  let bad := xs.any fun v => match v with | .nan => true | .inf _ => f != .e5m2 | _ => false
  if bad then (0xFF, xs.map fun _ => 0) else
  let a := maxMag xs
  let s : Int := if a.isZero then 127 else max 0 (min 254 (vlog2 a - eMax f + 127))
  (s.toNat, xs.zipIdx.map fun p => match p.1 with
    | .inf n => withSign f n ((f.infBits).getD 0)
    | v => encode f mode true (rnd p.2) (unscale (s - 127) v))

/-- The segment scale of R128 step 2 from the largest magnitude. -/
def segScale (a : Val) : Nat :=
  match a with
  | .fin _ m e =>
    if m = 0 then 0x3C00 else
    let (n, d) := frac m e
    let g := roundFrac .f16 0 true false n (6 * d) noRnd
    if g = 0 then 1 else g
  | _ => 0x3C00

/-- Quotient of two finite values as a fraction. -/
def quot : Val → Val → Nat × Nat
  | .fin _ m e, .fin _ n f => let (a, b) := frac m e; let (c, d) := frac n f; (a * d, b * c)
  | _, _ => (0, 1)

/-- A DB4 sub-block of up to 16 elements under segment scale g: scale and elements (R128). -/
def toSub (g mode : Nat) (rnd : Nat → Nat → Nat → Nat) (base : Nat) (xs : List Val) : Nat × List Nat :=
  let G := decode .f16 g
  let b := maxMag xs
  let s : Int := if b.isZero then 127 else let (n, d) := quot b G; max 0 (min 254 (flog2 n d - 2 + 127))
  (s.toNat, xs.zipIdx.map fun p => match p.1 with
    | .fin ng m e => let (n, d) := quot (.fin ng m e) (unscale (127 - s) G); roundFrac .e2m1 mode true ng n d (rnd (base + p.2))
    | _ => 0)

/-- Consecutive pieces of `n` elements. -/
def chunks {α : Type} (n : Nat) : Nat → List α → List (List α)
  | 0, _ => []
  | k + 1, l => if l.isEmpty then [] else l.take n :: chunks n k (l.drop n)

/-- A DB4 segment: segment scale, sub-block scales and elements (R128, R129). -/
def toSegment (mode : Nat) (rnd : Nat → Nat → Nat → Nat) (base : Nat) (xs : List Val) : Nat × List Nat × List Nat :=
  let subs := chunks 16 (xs.length / 16 + 1) xs
  if xs.any (fun v => !v.isFin) then (0x7E00, subs.map (fun _ => 0xFF), xs.map fun _ => 0) else
  let g := segScale (maxMag xs)
  let r := subs.zipIdx.map fun p => toSub g mode rnd (base + 16 * p.2) p.1
  (g, r.map (·.1), (r.map (·.2)).flatten)

/-! ## Correctly rounded F32 helpers for the engines (R169, R171) -/

/-- Exact sum rounded to nearest even into F32. -/
def addF32 (a b : Nat) : Nat := encodeRN .f32 (add 0 (decode .f32 a) (decode .f32 b))

/-- Quotient rounded to nearest even into F32 (R171). -/
def divF32 (a b : Nat) : Nat :=
  match decode .f32 a, decode .f32 b with
  | .fin n m e, .fin n' m' e' =>
    if m' = 0 then (if m = 0 then Fmt.nanBits .f32 else edge .f32 false (n != n'))
    else let (p, q) := quot (.fin n m e) (.fin n' m' e'); roundFrac .f32 0 false (n != n') p q noRnd
  | .inf n, .fin n' .. => edge .f32 false (n != n')
  | .fin n .., .inf n' => withSign .f32 (n != n') 0
  | _, _ => Fmt.nanBits .f32

/-- log2 e in units of 2^(−fx). -/
def log2e : Nat := 490923683258796565746369346286093237521

/-- exp(x) within 2 units in the last place, one fixed function of its input (R171). -/
def expF32 (x : Nat) : Nat :=
  match decode .f32 x with
  | .nan => Fmt.nanBits .f32
  | .inf n => if n then 0 else edge .f32 false false
  | .fin n m e =>
    if m = 0 then 0x3F800000
    else let (a, b) := frac m e
         if a > 2000 * b then (if n then capMag .f32 false false (within2 .f32 0 1 (Config.expChoice x)) else edge .f32 false false)
         else
           let y := a * log2e / b
           let i : Int := if n then -((cdiv y (2 ^ fx) : Nat) : Int) else ((y / 2 ^ fx : Nat) : Int)
           let fr := if n then i.natAbs * 2 ^ fx - y else y % 2 ^ fx
           let p := pow2Fx fr
           let (c, d) := if 0 ≤ i then (p * 2 ^ i.toNat, 2 ^ fx) else (p, 2 ^ (fx + (-i).toNat))
           capMag .f32 false false (within2 .f32 c d (Config.expChoice x))

end Sys2Proof.Num
end

