-- ==== Sys2Proof/Machine/Flags.lean ====
section
/-! DEFINITION. The comparisons that predicates and branches are computed from (R69, R73, R74, R79, R121). -/

namespace Sys2Proof.Machine

/-- Integer conditions: 0 eq, 1 ne, 2 lt, 3 le, 4 gt, 5 ge (R73). -/
def intCond (cc : Nat) (a b : Int) : Bool :=
  match cc with
  | 0 => a == b
  | 1 => a != b
  | 2 => decide (a < b)
  | 3 => decide (a ≤ b)
  | 4 => decide (b < a)
  | _ => decide (b ≤ a)

/-- A register value under a signedness. -/
def asInt (sg : Bool) (w v : Nat) : Int := if sg then sext w v else ((v % 2 ^ w : Nat) : Int)

end Sys2Proof.Machine
end

