-- ==== Sys2Proof/Machine/RegTable.lean ====
section
/-! DEFINITION. The registers of manager BAR0 (spec 21 and the field maps of each chapter): address, fields, access codes,
reset values and reserved encodings. -/

namespace Sys2Proof.Machine

/-- Access codes (R7). -/
inductive Acc where | rw | ro | wo | w1c | rc | st
deriving DecidableEq, Repr

/-- A field: low bit, width, access code, reset value, and for a field with reserved encodings the range of the others. -/
structure Field where
  lo : Nat
  w : Nat
  acc : Acc
  reset : Nat := 0
  min : Nat := 0
  max : Nat := 2 ^ w - 1
deriving DecidableEq, Repr

/-- Repeats a field at a pitch. -/
def Field.every (n pitch : Nat) (f : Field) : List Field :=
  (List.range n).map fun i => { f with lo := f.lo + pitch * i }

/-- W1C bits from 0. -/
def flags (n : Nat) : List Field := (List.range n).map fun i => { lo := i, w := 1, acc := .w1c }

/-- A whole read-only register. -/
def roWord : List Field := [{ lo := 0, w := 64, acc := .ro }]

/-- A whole staged register. -/
def stWord : List Field := [{ lo := 0, w := 64, acc := .st }]

/-- CFG block (spec 15, 19, 20). -/
def cfgReg (o : Nat) : List Field :=
  if o = 0x0 then [⟨0, 16, .ro, 0xD320, 0, 0xFFFF⟩, { lo := 16, w := 8, acc := .ro }, { lo := 24, w := 40, acc := .ro }]
  else if o = 0x8 then [{ lo := 0, w := 4, acc := .ro, reset := 12 }, { lo := 4, w := 1, acc := .ro }, { lo := 8, w := 4, acc := .ro }, { lo := 16, w := 32, acc := .ro }]
  else if o = 0x10 then [{ lo := 0, w := 1, acc := .wo }, { lo := 1, w := 1, acc := .wo }]
  else if o = 0x18 then roWord
  else if o = 0x20 then roWord
  else if o = 0x28 then flags 2
  else if o = 0x100 then [{ lo := 0, w := 6, acc := .ro }, { lo := 6, w := 1, acc := .ro, reset := 1 }, { lo := 7, w := 2, acc := .ro, reset := 3 }, { lo := 9, w := 1, acc := .ro }, { lo := 10, w := 8, acc := .ro }]
  else if o = 0x108 then flags 5
  else if o = 0x110 then [{ lo := 0, w := 32, acc := .rc }, { lo := 32, w := 16, acc := .rc }]
  else if o = 0x10000 ∨ o = 0x10100 then [{ lo := 0, w := 19, acc := .ro }]
  else if o = 0x10008 ∨ o = 0x10108 then flags 8
  else if o = 0x10010 ∨ o = 0x10110 then [{ lo := 0, w := 32, acc := .rc }, { lo := 32, w := 16, acc := .rc }, { lo := 48, w := 16, acc := .rc }]
  else if o = 0x10200 then [{ lo := 0, w := 21, acc := .ro }]
  else if 0x10400 ≤ o ∧ o < 0x10600 then [{ lo := 0, w := 15, acc := .rw }, { lo := 15, w := 1, acc := .rw }]
  else []

/-- MGT block (spec 19): a mailbox per host port. -/
def mgtReg (o : Nat) : List Field :=
  if 0x2000 ≤ o then [] else
  let r := o % 0x1000
  if r < 0x40 then [{ lo := 0, w := 64, acc := .rw }]
  else if r = 0x40 then [{ lo := 0, w := 8, acc := .wo }, { lo := 8, w := 8, acc := .wo }]
  else if r = 0x48 then [{ lo := 0, w := 1, acc := .ro }, { lo := 1, w := 1, acc := .w1c }, { lo := 8, w := 8, acc := .ro }, { lo := 16, w := 8, acc := .ro }]
  else if 0x80 ≤ r ∧ r < 0xC0 then roWord
  else if r = 0xC0 then [{ lo := 0, w := 64, acc := .rc }]
  else []

/-- SLC block (spec 16). -/
def slcReg (o : Nat) : List Field :=
  if o < 0x40000 then
    let r := o % 0x1000
    if r = 0 then [{ lo := 0, w := 1, acc := .st }, { lo := 1, w := 1, acc := .st }, { lo := 2, w := 20, acc := .st }, { lo := 22, w := 8, acc := .st, reset := 16, min := 1 }, { lo := 30, w := 8, acc := .st, reset := 16, min := 1 }, { lo := 38, w := 8, acc := .st }, { lo := 46, w := 1, acc := .st }, { lo := 47, w := 9, acc := .st }]
    else if r = 8 then [{ lo := 0, w := 24, acc := .st }, { lo := 24, w := 1, acc := .st }]
    else if 0x10 ≤ r ∧ r < 0x30 then stWord
    else if r = 0x30 then [{ lo := 0, w := 24, acc := .st }, { lo := 24, w := 24, acc := .st }]
    else if r = 0x38 then [{ lo := 0, w := 32, acc := .st }, { lo := 32, w := 16, acc := .st }]
    else if r = 0x40 then [{ lo := 0, w := 18, acc := .ro }, { lo := 24, w := 17, acc := .ro }]
    else if r = 0x48 then [{ lo := 0, w := 1, acc := .wo }, { lo := 1, w := 1, acc := .wo }]
    else if r = 0x50 then roWord
    else if 0x400 ≤ r ∧ r < 0x800 then
      Field.every 4 16 { lo := 0, w := 6, acc := .st } ++ Field.every 4 16 { lo := 6, w := 5, acc := .st } ++ Field.every 4 16 { lo := 15, w := 1, acc := .st }
    else []
  else if o = 0x40000 then [{ lo := 0, w := 17, acc := .st, reset := 1000 }, { lo := 17, w := 1, acc := .st }, { lo := 18, w := 8, acc := .st, reset := 20 }]
  else if o = 0x40008 then [{ lo := 0, w := 16, acc := .rw, reset := 1000, min := 10 }, { lo := 16, w := 16, acc := .rw, reset := 200 }]
  else if o = 0x40010 then [{ lo := 0, w := 32, acc := .ro }, { lo := 32, w := 16, acc := .rc }]
  else if 0x40100 ≤ o ∧ o < 0x40500 then
    if o % 16 = 0 then [{ lo := 0, w := 1, acc := .st }, { lo := 1, w := 6, acc := .st }, { lo := 7, w := 17, acc := .st }, { lo := 24, w := 17, acc := .st }]
    else [{ lo := 0, w := 32, acc := .st }, { lo := 32, w := 8, acc := .st }]
  else []

/-- SEC block (spec 17). -/
def secReg (o : Nat) : List Field :=
  if o = 0 then [{ lo := 0, w := 3, acc := .ro }, { lo := 3, w := 3, acc := .ro, reset := 7 }, { lo := 6, w := 1, acc := .ro }, { lo := 8, w := 16, acc := .ro }]
  else if o = 8 then roWord
  else if o = 0x10 then flags 5
  else if o = 0x18 then Field.every 3 16 { lo := 0, w := 16, acc := .rc }
  else if o = 0x20 then [{ lo := 0, w := 1, acc := .st }, { lo := 1, w := 1, acc := .st }]
  else if 0x100 ≤ o ∧ o < 0x300 then roWord
  else if 0x300 ≤ o ∧ o < 0x400 then stWord
  else if 0x400 ≤ o ∧ o < 0x600 then [{ lo := 0, w := 1, acc := .st }, { lo := 1, w := 9, acc := .st }]
  else []

/-- PWR block (spec 18). -/
def pwrReg (o : Nat) : List Field :=
  if o = 0 then [{ lo := 0, w := 1, acc := .st }, { lo := 1, w := 11, acc := .st, reset := 2000 }, { lo := 12, w := 6, acc := .st, reset := 40, min := 10 }]
  else if o = 8 then [{ lo := 0, w := 14, acc := .rw, reset := 12000, min := 4000, max := 12000 }]
  else if o = 0x10 then [{ lo := 0, w := 11, acc := .st, reset := 1000 }]
  else if o = 0x18 then [{ lo := 0, w := 8, acc := .rw, reset := 95, min := 70, max := 100 }]
  else if o = 0x20 then [{ lo := 0, w := 14, acc := .ro, reset := 12000 }, { lo := 14, w := 8, acc := .ro, reset := 0xFF }, { lo := 22, w := 2, acc := .ro }, { lo := 24, w := 16, acc := .ro }]
  else if o = 0x28 then flags 6
  else if 0x100 ≤ o ∧ o < 0x300 then [{ lo := 0, w := 1, acc := .st }]
  else if 0x300 ≤ o ∧ o < 0x500 then [{ lo := 0, w := 11, acc := .ro, reset := 1800 }, { lo := 11, w := 3, acc := .ro }, { lo := 14, w := 11, acc := .ro, reset := 2000 }, { lo := 25, w := 12, acc := .ro }, { lo := 37, w := 8, acc := .ro }, { lo := 45, w := 1, acc := .ro }]
  else []

/-- CQ block (spec 13). -/
def cqReg (o : Nat) : List Field :=
  if o < 0x8000 then
    let r := o % 0x40
    if r = 0 then [{ lo := 0, w := 1, acc := .st }, { lo := 1, w := 6, acc := .st }, { lo := 7, w := 7, acc := .st, max := 67 }, { lo := 14, w := 1, acc := .st }, { lo := 15, w := 1, acc := .st }, { lo := 16, w := 2, acc := .st }, { lo := 18, w := 6, acc := .st }, { lo := 24, w := 1, acc := .st }]
    else if r = 8 then [{ lo := 0, w := 48, acc := .st }]
    else if r = 0x10 then [{ lo := 0, w := 24, acc := .st }]
    else if r = 0x18 then [{ lo := 0, w := 25, acc := .st, reset := 32 }, { lo := 25, w := 25, acc := .st, reset := 16 }]
    else if r = 0x20 then [{ lo := 0, w := 3, acc := .ro }, { lo := 4, w := 25, acc := .ro }]
    else if r = 0x28 then [{ lo := 0, w := 32, acc := .rc }, { lo := 32, w := 16, acc := .rc }]
    else []
  else if o < 0x8040 then [{ lo := 0, w := 1, acc := .st }, { lo := 1, w := 9, acc := .st }, { lo := 10, w := 1, acc := .st }, { lo := 11, w := 9, acc := .st }]
  else if o = 0x8040 then [{ lo := 0, w := 14, acc := .rw, reset := 1000, min := 1, max := 10000 }]
  else if o = 0x8048 then [{ lo := 0, w := 16, acc := .ro }] ++ Field.every 8 1 { lo := 16, w := 1, acc := .w1c }
  else if o = 0x8050 then flags 4
  else if o = 0x8058 then [{ lo := 0, w := 32, acc := .rc }]
  else []

/-- LNK block (spec 14). -/
def lnkReg (o : Nat) : List Field :=
  if o = 0 then Field.every 6 5 { lo := 0, w := 5, acc := .st }
  else if o = 8 then [{ lo := 0, w := 7, acc := .rw, reset := 5, min := 1, max := 100 }]
  else if o = 0x10 then flags 7
  else if o = 0x18 then [{ lo := 0, w := 1, acc := .rw, reset := 1 }, { lo := 1, w := 1, acc := .rw }, { lo := 2, w := 11, acc := .rw, reset := 600 }, { lo := 13, w := 11, acc := .rw, reset := 1800 }, { lo := 24, w := 15, acc := .rw }, { lo := 39, w := 1, acc := .rw }]
  else if o = 0x20 then [{ lo := 0, w := 37, acc := .ro }]
  else if o = 0x28 then [{ lo := 0, w := 1, acc := .st, reset := 1 }, { lo := 1, w := 4, acc := .st }, { lo := 5, w := 4, acc := .st }, { lo := 9, w := 1, acc := .st }]
  else if o = 0x30 then [{ lo := 0, w := 6, acc := .ro }, { lo := 8, w := 22, acc := .ro }]
  else if 0x100 ≤ o ∧ o < 0x300 then
    let r := o % 0x20
    if r = 0 then [{ lo := 0, w := 1, acc := .st, reset := 1 }, { lo := 1, w := 2, acc := .st, max := 2 }, { lo := 3, w := 1, acc := .wo }]
    else if r = 8 then [{ lo := 0, w := 25, acc := .ro }]
    else if r = 0x10 then [{ lo := 0, w := 24, acc := .rc }, { lo := 24, w := 16, acc := .rc }, { lo := 40, w := 16, acc := .rc }, { lo := 56, w := 8, acc := .rc }]
    else []
  else if 0x400 ≤ o ∧ o < 0x600 then [{ lo := 0, w := 1, acc := .st }, { lo := 1, w := 2, acc := .st }, { lo := 3, w := 9, acc := .st }]
  else []

/-- NET block (spec 11, 12): globals, die windows 0 to 55, coherence windows of nodes 0 to 17. -/
def netReg (o : Nat) : List Field :=
  if o = 0 then [{ lo := 0, w := 2, acc := .ro }, { lo := 32, w := 32, acc := .ro }]
  else if o = 8 then [{ lo := 0, w := 32, acc := .rc }]
  else if o = 0x10 then [{ lo := 0, w := 13, acc := .ro }, { lo := 63, w := 1, acc := .w1c }]
  else if o = 0x18 then [{ lo := 0, w := 8, acc := .ro }]
  else if o = 0x20 then flags 6
  else if o = 0x28 then [{ lo := 0, w := 32, acc := .rc }, { lo := 32, w := 16, acc := .rc }, { lo := 48, w := 16, acc := .rc }]
  else if 0x10000 ≤ o ∧ o < 0x48000 then
    let r := o % 0x1000
    if r = 0 then [{ lo := 0, w := 2, acc := .ro, reset := 1 }, { lo := 2, w := 4, acc := .ro }]
    else if 8 ≤ r ∧ r < 0x28 then Field.every 8 8 { lo := 0, w := 2, acc := .ro, reset := 2 } ++ Field.every 8 8 { lo := 2, w := 3, acc := .ro }
    else if r = 0x28 then Field.every 4 8 { lo := 0, w := 8, acc := .wo }
    else if 0x30 ≤ r ∧ r < 0x50 then Field.every 8 8 { lo := 0, w := 8, acc := .rc }
    else []
  else if 0x80000 ≤ o ∧ o < 0x92000 then
    let r := o % 0x1000
    if r = 0 then [{ lo := 0, w := 2, acc := .ro }]
    else if r = 8 then [{ lo := 0, w := 2, acc := .rw, max := 2 }, { lo := 2, w := 1, acc := .wo }]
    else if r = 0x10 then [{ lo := 0, w := 23, acc := .ro }]
    else if r = 0x18 ∨ r = 0x20 ∨ r = 0x28 ∨ r = 0x30 ∨ r = 0x38 then roWord
    else if r = 0x40 then flags 4
    else if r = 0x48 then [{ lo := 0, w := 32, acc := .rc }, { lo := 32, w := 16, acc := .rc }, { lo := 48, w := 16, acc := .rc }]
    else if o = 0x80050 then [{ lo := 0, w := 64, acc := .ro, reset := 0xFFFFFFFFFFFFFFFF }]
    else []
  else []

/-- MEM block (spec 10): nodes 0 to 17. -/
def memReg (o : Nat) : List Field :=
  if 0x120000 ≤ o then [] else
  let r := o % 0x10000
  if r = 0 then [{ lo := 0, w := 1, acc := .st }]
  else if r = 8 then [{ lo := 0, w := 2, acc := .ro, reset := 1 }, { lo := 2, w := 3, acc := .ro }, { lo := 8, w := 8, acc := .ro }]
  else if o = 0x10 then [{ lo := 0, w := 6, acc := .st, reset := 24 }, { lo := 8, w := 18, acc := .st, reset := 0x3FFFF }]
  else if r = 0x18 then [{ lo := 0, w := 8, acc := .rw, reset := 12, min := 1, max := 168 }]
  else if r = 0x20 then [{ lo := 0, w := 32, acc := .ro }]
  else if r = 0x28 then flags 6
  else if r = 0x30 then [{ lo := 0, w := 32, acc := .rc }, { lo := 32, w := 16, acc := .rc }, { lo := 48, w := 16, acc := .rc }]
  else if r = 0x38 then [{ lo := 0, w := 44, acc := .ro }, { lo := 63, w := 1, acc := .w1c }]
  else if r = 0x40 ∨ r = 0x48 ∨ r = 0x50 then roWord
  else if 0x100 ≤ r ∧ r < 0x280 then Field.every 4 1 { lo := 0, w := 1, acc := .st }
  else []

/-- LLM block (spec 9): halves 0 to 63. -/
def llmReg (o : Nat) : List Field :=
  if 0x100000 ≤ o then [] else
  let r := o % 0x4000
  if r = 0 then [{ lo := 0, w := 1, acc := .st, reset := 1 }]
  else if r = 8 then [{ lo := 0, w := 5, acc := .st, max := 24 }]
  else if r = 0x10 then [{ lo := 0, w := 5, acc := .st, reset := 24, max := 24 }]
  else if r = 0x18 then [{ lo := 0, w := 2, acc := .ro, reset := 1 }, { lo := 2, w := 5, acc := .ro }, { lo := 7, w := 1, acc := .ro }]
  else if r = 0x20 then [{ lo := 0, w := 1, acc := .wo }]
  else if r = 0x28 then [{ lo := 0, w := 1, acc := .rw, reset := 1 }, { lo := 1, w := 5, acc := .rw, reset := 16, max := 24 }, { lo := 8, w := 8, acc := .rw, reset := 0x78 }, { lo := 16, w := 7, acc := .rw, reset := 10, min := 1, max := 100 }, { lo := 24, w := 16, acc := .rw, reset := 4096 }, { lo := 40, w := 4, acc := .rw, reset := 8, min := 1 }]
  else if r = 0x30 then Field.every 8 8 { lo := 0, w := 8, acc := .rw, reset := 0x40 }
  else if r = 0x38 then [{ lo := 0, w := 8, acc := .ro }, { lo := 16, w := 32, acc := .ro }]
  else if r = 0x40 then [{ lo := 0, w := 64, acc := .ro, reset := 0xFFFFFFFFFFFFFFFF }]
  else if r = 0x48 then flags 5
  else if r = 0x50 then [{ lo := 0, w := 32, acc := .rc }, { lo := 32, w := 16, acc := .rc }, { lo := 48, w := 16, acc := .rc }]
  else if r = 0x58 then [{ lo := 0, w := 32, acc := .rc }]
  else if r = 0x60 then [{ lo := 0, w := 12, acc := .ro, reset := 1800 }]
  else if r = 0x68 then [{ lo := 0, w := 6, acc := .ro }]
  else if 0x100 ≤ r ∧ r < 0x180 then roWord
  else if 0x400 ≤ r ∧ r < 0xC00 then roWord
  else if 0x2000 ≤ o ∧ o < 0x2400 then
    (List.range 8).map fun j => { lo := 8 * j, w := 6, acc := .st, reset := ((o - 0x2000) + j) % 64 }
  else []

/-- CDC block (spec 6): the Vetch registers of each half of dies 0 to 31. -/
def cdcReg (o : Nat) : List Field :=
  if 0x800000 ≤ o then [] else
  let r := o % 0x40000
  if r = 0x38000 ∨ r = 0x38100 then [{ lo := 0, w := 1, acc := .st }, { lo := 1, w := 6, acc := .st }, { lo := 7, w := 9, acc := .st }]
  else if r = 0x38008 ∨ r = 0x38108 then [{ lo := 0, w := 2, acc := .ro }]
  else if r = 0x38010 ∨ r = 0x38110 then flags 3
  else []

/-- TEL block (spec 18, 20). -/
def telReg (o : Nat) : List Field :=
  if o = 0 then [{ lo := 0, w := 10, acc := .ro }, { lo := 16, w := 14, acc := .ro }]
  else if 0x100 ≤ o ∧ o < 0x2E0 then [{ lo := 0, w := 32, acc := .ro }]
  else if o = 0x300 then [{ lo := 0, w := 16, acc := .ro }, { lo := 16, w := 1, acc := .w1c }]
  else []

/-- ERR block (spec 19). -/
def errReg (o : Nat) : List Field :=
  if o = 0 then [{ lo := 0, w := 1, acc := .w1c }, { lo := 1, w := 1, acc := .ro }]
  else if o = 8 then [{ lo := 0, w := 32, acc := .ro }]
  else if o = 0x10 then [{ lo := 0, w := 33, acc := .rw }, { lo := 63, w := 1, acc := .ro }]
  else if 0x40 ≤ o ∧ o < 0x80 then roWord
  else []

/-- The fields of the register at an aligned BAR0 address; none where no chapter lists one (R574). -/
def regFields (a : Nat) : List Field :=
  if a % 8 ≠ 0 then []
  else if a < 0x100000 then cfgReg a
  else if a < 0x200000 then mgtReg (a - 0x100000)
  else if a < 0x300000 then slcReg (a - 0x200000)
  else if a < 0x400000 then secReg (a - 0x300000)
  else if a < 0x500000 then pwrReg (a - 0x400000)
  else if a < 0x600000 then cqReg (a - 0x500000)
  else if a < 0x700000 then lnkReg (a - 0x600000)
  else if a < 0x800000 then netReg (a - 0x700000)
  else if a < 0xC00000 then memReg (a - 0x800000)
  else if a < 0x1000000 then llmReg (a - 0xC00000)
  else if a < 0x2000000 then cdcReg (a - 0x1000000)
  else if a < 0x2100000 then telReg (a - 0x2000000)
  else if a < 0x2200000 then errReg (a - 0x2100000)
  else []

/-- The reset value of a register (R9). -/
def regReset (a : Nat) : Nat := (regFields a).foldl (fun v f => v + f.reset % 2 ^ f.w * 2 ^ f.lo) 0

/-- The bits of a register that lie in fields with the given access code. -/
def accMask (a : Nat) (c : Acc) : Nat := (regFields a).foldl (fun v f => if f.acc = c then v + (2 ^ f.w - 1) * 2 ^ f.lo else v) 0

end Sys2Proof.Machine
end

