-- ==== Sys2Proof/Machine/State.lean ====
section
/-! DEFINITION. The state of the module as plain data, and the state at DEV_READY (the reset values of the spec, R9). -/

namespace Sys2Proof.Machine

/-- Why a failed token failed: the unit's code, the Campion code, the failing row's address and number (R232). -/
structure TokErr where
  code : Nat
  campion : Nat
  addr : Nat
  row : Nat
deriving DecidableEq, Repr

/-- An async token (R60). -/
inductive Token where
  | complete
  | pending
  | failed (e : TokErr)
deriving DecidableEq, Repr

/-- What a path waits for (R44). -/
inductive Wait where
  /-- Current or suspended: it can run. -/
  | run
  | barrier (n : Nat)
  | tokens (m : BitVec 16)
  /-- A queue operation, by operation number. -/
  | queue (op : Nat)
  /-- An atomic whose return value is pending, by operation number. -/
  | atomic (op : Nat)
deriving DecidableEq, Repr

/-- An issued fence whose conditions may not hold yet (R193): the writes it waits for. -/
structure Fence where
  scope : Nat
  stores : List Nat
  ext : List Nat
deriving DecidableEq, Repr

/-- A path: program counter, active mask, wait, runnable age, innermost open reconvergence point (R37 to R45). -/
structure Path where
  pc : Nat
  mask : W32
  wait : Wait
  since : Nat
  point : Option Nat
  fence : Option Fence
deriving DecidableEq, Repr

/-- An open reconvergence point: address, waiting mask, lanes of the divergence that have not exited, next outer point, and the
fence conditions that arrived lanes still wait for (R193). -/
structure Point where
  addr : Nat
  waiting : W32
  lanes : W32
  outer : Option Nat
  fence : Option Fence
deriving DecidableEq, Repr

/-- One of the 32 entries of a path table (R39). -/
inductive Ent where
  | path (p : Path)
  | point (p : Point)
deriving DecidableEq, Repr

/-- What an outstanding operation writes when it returns. -/
inductive OpDst where
  /-- Vector registers from `dst`: access bytes, sign extension. -/
  | vec (dst size : Nat) (sx : Bool)
  /-- A uniform register: access bytes. -/
  | uni (dst size : Nat)
  /-- The old values of an atomic: registers from `dst`, element bytes; or nothing. -/
  | old (dst size : Nat)
  | none
deriving DecidableEq, Repr

/-- An outstanding load or atomic of a group (R63, R99). -/
structure LoadOp where
  id : Nat
  dst : OpDst
  /-- Lane, physical address, slice-virtual address. -/
  lanes : List (Nat × Nat × Nat)
  /-- Sectors (physical address / 32) or, for atomics, element addresses not yet returned. -/
  wait : List Nat
  /-- Bytes returned or taken from the store buffer, by physical address. -/
  got : Mem
  /-- Bytes that the core's store buffer supplied. -/
  own : List Nat
  /-- Old values of an atomic by lane. -/
  rets : NMap Nat
  /-- Sectors that returned poisoned, and sectors whose read a host refused (R439). -/
  poison : List Nat
  refused : List Nat
  /-- By sector, the object of the read-only page through which it was read; 65536 where the page is on a slice's own unit (R296). -/
  objs : NMap Nat
  /-- Address of the instruction. -/
  pc : Nat
  /-- The lines that it reads through the near read-only cache (R87, R215). -/
  near : List Nat
  /-- Whether it goes through the fine path (R289). -/
  fine : Bool
deriving DecidableEq, Repr

/-- A group (R60): registers, path table, turn, outstanding operations. -/
structure Group where
  block : Nat
  index : Nat
  u : NMap W64
  q : NMap W32
  d : NMap W256
  k : NMap Token
  /-- Register r of lane l at key 32 r + l. -/
  v : NMap W32
  ents : NMap Ent
  cur : Nat
  turn : Nat
  loop : Bool
  clock : Nat
  exited : W32
  ops : List LoadOp
deriving DecidableEq, Repr

/-- A resident block (R30): identity, declaration, storage, barrier arrivals by 32 × barrier + group. -/
structure Block where
  slice : Nat
  gen : Nat
  stream : Nat
  task : Nat
  taskNo : W64
  index : Nat
  count : Nat
  g : Nat
  v : Nat
  l : Nat
  code : Nat
  args : Nat
  seed : W32
  loc : Mem
  acc : Mem
  arrive : NMap W32
  /-- Issued asynchronous operations not yet completed (R50). -/
  async : Nat
  saving : Bool
  /-- The core cycle up to which its engine time has been charged (R470). -/
  charged : Nat
deriving DecidableEq, Repr

/-- A sector entry of a core's store buffer (R185). -/
structure StoreEnt where
  id : Nat
  /-- The slot of the block whose store it is (R50, R194). -/
  block : Nat
  /-- Whether it holds a contribution to a line, `sector` then being 4 × line (R205, R262). -/
  red : Bool
  slice : Nat
  /-- Physical sector: address / 32. -/
  sector : Nat
  bytes : List (Nat × Byte)
  scratch : Bool
  cls : Nat
  hint : Nat
  policy : Nat
deriving DecidableEq, Repr

/-- A line of the near read-only cache (R215): set, line address / 128, slice, data. -/
structure NearLine where
  line : Nat
  data : Mem
  age : Nat
deriving DecidableEq, Repr

/-- An operation of the matrix unit: copied descriptors, K offset or scale, token, issuing group (R148). -/
structure MxOp where
  block : Nat
  slot : Nat
  k : Nat
  d : W256
  d2 : W256
  u : W64
  /-- Whether it is an mxa. -/
  mxa : Bool
  ofs : Nat
  grp : Nat
deriving DecidableEq, Repr

/-- A running matrix operation and the bytes it writes when its token completes. -/
structure MxRun where
  op : MxOp
  acc : List (Nat × List Byte)
  loc : List (Nat × List Byte)
deriving DecidableEq, Repr

/-- A tensor-mover operation: copied descriptors and addend, token, issuing group (R217, R219). -/
structure MvOp where
  block : Nat
  slot : Nat
  k : Nat
  d : W256
  d2 : W256
  u : W64
  ofs : Nat
  blk : Nat
  grp : Nat
  pc : Nat
  /-- Items of a queue transfer already moved (R234). -/
  moved : Nat
  /-- The store-buffer entries of the core and the outstanding loads of the group at issue, which happen before it (R194). -/
  stores : List Nat
  loads : List Nat
deriving DecidableEq, Repr

/-- A started mover operation: the local bytes and the tags that it writes when its token completes; the error that stopped it
(poison, code, Campion code or object, address, row); requests that it awaits, bytes that have arrived by key, and the ranges of
keys whose read ended with poison (code 8) or a mover code. -/
structure MvRun where
  op : MvOp
  loc : List (Nat × List Byte)
  tag : List (Nat × Byte)
  err : Option (Bool × Nat × Nat × Nat × Nat)
  waits : List Nat
  got : Mem
  bad : List (Nat × Nat × Nat)
  /-- Whether the source has been read and every write has been sent, its last request (R236). -/
  ready : Bool
deriving DecidableEq, Repr

/-- A mover: queue of up to 8, the started operations in order (R217, R236), operations abandoned at a restartable point (R234). -/
structure Mover where
  queue : List MvOp
  run : List MvRun
  kept : List MvRun
deriving DecidableEq, Repr

/-- A core (R25, R30). -/
structure Core where
  blocks : NMap Block
  groups : NMap Group
  sb : List StoreEnt
  near : List NearLine
  mxq : List MxOp
  mxaRun : List MxRun
  mxwRun : List MxRun
  mv0 : Mover
  mv1 : Mover
  /-- The slice whose blocks the core last ran (R216). -/
  last : Option Nat
deriving DecidableEq, Repr

/-- What a page of a slice is mapped onto (R459): module physical address of its first byte, on a slice's own unit or a
unit of a numbered object; or a host port and host address. -/
inductive Target where
  | own (pa : Nat)
  | obj (n pa : Nat)
  | host (port addr : Nat)
deriving DecidableEq, Repr

/-- A page mapping, kept at its slice-virtual address (R459). -/
structure Page where
  size : Nat
  tgt : Target
  ro : Bool
  policy : Nat
  cls : Nat
deriving DecidableEq, Repr

/-- State of a task (R468, R163). -/
inductive TaskState where | waiting | running | done | skipped | failed
deriving DecidableEq, Repr

/-- A task of a running kernel: its header (R467), number, progress. -/
structure Task where
  hdr : BitVec 512
  inputs : List Nat
  st : TaskState
  no : W64
  started : Nat
  retired : List Nat
  /-- Time base when the first block started, and whether any side effect outside the recovery guarantee occurred (R548). -/
  begun : Option Nat
  effect : Bool
  deferred : Bool
  /-- Dies whose dispatchers have received the task (R366, R469). -/
  dies : List Nat
  /-- The object whose reload the task waits for (R479). -/
  lost : Option Nat
deriving DecidableEq, Repr

/-- A running kernel of a launch stream (R466). -/
structure Kernel where
  stream : Nat
  graph : Nat
  hdr : BitVec 512
  tasks : List Task
  swapped : Bool
deriving DecidableEq, Repr

/-- A block saved mid-task, with where its context lies (R475, R476). -/
structure Saved where
  block : Block
  groups : List Group
  ofs : Nat
  size : Nat
  /-- Abandoned mover operations with the number of their mover. -/
  movers : List (Nat × MvRun)
deriving DecidableEq, Repr

/-- The dynamic state of a slice (R452 to R482); its registers are kept with the other registers. -/
structure Slice where
  pages : NMap Page
  taskCtr : W64
  /-- Doorbell values not yet at the coordinator (R435), and launch values there by stream, oldest first. -/
  bells : List (Nat × W64)
  launch : List (Nat × W64)
  kernels : List Kernel
  saved : List Saved
  /-- Current model: number, image, write-back length (R478). -/
  model : Option (Nat × Nat × Nat)
  /-- Energy in pJ not yet counted as a whole µJ, by counter (R531). -/
  energy : NMap Nat
  qenergy : NMap Nat
  /-- Engine time charged, in 1/6144 core cycles: since the job started, and in the current 100 ms window. -/
  charge : Nat
  charged : Nat
  landed : Nat
  /-- Its place in the order in which the security engine last served the slices (R497). -/
  secTurn : Nat
deriving DecidableEq, Repr

/-- State of a line in a half (R311); I is absence. -/
inductive LSt where | s | e | m
deriving DecidableEq, Repr

/-- A cached line (R237, R245, R258): way, state, hold, sectors, marks, the region's slice, policy and class, age. -/
structure Line where
  way : Nat
  st : LSt
  hold : Bool
  heldAt : Nat
  sec : List (Option W256)
  dirty : BitVec 4
  poison : BitVec 4
  pf : Bool
  slice : Nat
  ro : Bool
  policy : Nat
  cls : Nat
  age : Int
  /-- The tag of the request that made the half owner (R316). -/
  tag : Nat
deriving DecidableEq, Repr

/-- What an outstanding request of a half asked (R312). -/
inductive MissKind where | rds | rdx | rdxn | rdna | wrna (bytes : List (Nat × Byte)) | atom
deriving DecidableEq, Repr

/-- A miss entry (R255, R311, R319, R321): entry number, tag, kind, joined requests, grant, acks. -/
structure Miss where
  entry : Nat
  tag : Nat
  line : Nat
  kind : MissKind
  reqs : List LlmReq
  contribs : List Contrib
  hold : Bool
  slice : Nat
  ro : Bool
  policy : Nat
  cls : Nat
  pf : Bool
  got : Option (Granted × LineData)
  acks : Nat
  ackcnt : Option Nat
  /-- Whether an Inv overtook the fill. -/
  dropped : Bool
deriving DecidableEq, Repr

/-- A line given up in M, kept until the home's completion (R318). -/
structure WbBuf where
  line : Nat
  tag : Nat
  data : LineData
  dead : Bool
  stale : Bool
  /-- Whether it has served the forward that ended its ownership. -/
  given : Bool
deriving DecidableEq, Repr

/-- A pending ordered contribution, in arrival order (R206, R263). -/
structure Pend where
  arrival : Nat
  c : Contrib
deriving DecidableEq, Repr

/-- A stream prefetcher (R227, R228, R257): stream, next line to fetch, highest line a demand touched. -/
structure Prefetch where
  slice : Nat
  sid : Nat
  base : Nat
  stride : Int
  count : Nat
  ahead : Nat
  cls : Nat
  next : Nat
  touched : Option Nat
  trained : Nat
  inflight : List Nat
deriving DecidableEq, Repr

/-- A traffic class in a half's thrash detector (R269, R270). -/
structure Thrash where
  acc : Nat
  hit : Nat
  na : Bool
  left : Nat
  hold : Nat
  probe : Bool
  rate : Nat
deriving DecidableEq, Repr

/-- An LLM half (spec 9, R311). -/
structure Half where
  lines : NMap Line
  miss : List Miss
  /-- The 10-bit use count of each miss entry, at cache slice × 64 + entry (R316). -/
  tags : NMap Nat
  /-- When each count of a miss entry was last used, at 1024 × (cache slice × 64 + entry) + count (R316). -/
  used : NMap Nat
  wb : List WbBuf
  pend : List Pend
  arrivals : Nat
  tomb : List (Nat × Nat)
  /-- Open combine windows and the reads that joined them (R256). -/
  windows : List (Nat × List LlmReq)
  /-- Parked forwards by line (R321). -/
  parked : List (Nat × Fwd × FwdKind)
  pfs : NMap Prefetch
  classes : NMap Thrash
  switches : Nat
  /-- Units and returned ways still to be zeroed, in order (R253). -/
  zeroing : List Nat
  /-- Accesses and hits of the current 100 ms window, at 16 × class + cache slice (R268). -/
  accs : NMap Nat
  hits : NMap Nat
  age : Nat
deriving DecidableEq, Repr

/-- A directory entry (R309); U is absence. OUT is the number of open transactions that name the owner in `out`. -/
inductive DirEnt where
  | s (ptrs : List Nat)
  | b
  | x (owner tag : Nat) (hold : Bool)
  | h (last : Nat)
deriving DecidableEq, Repr

/-- What the home does when the acks and the data that a transaction awaits have come (R312, R326): nothing more, a write to
memory answered by Cmp, a far atomic, or the freeing of an entry. -/
inductive HomeNext where
  | nothing
  | write (bytes : List (Nat × Byte))
  | far (a : AtomReq)
  | free
deriving DecidableEq, Repr

/-- A granted transaction that has not completed (R309, R319, R322): line, requester, its tag; the owner in whose OUT it
counts; acks and owner data that the home awaits; what follows; whether the requester's Done is awaited. -/
structure Txn where
  line : Nat
  src : Party
  tag : Nat
  out : Option Nat
  acks : Nat
  data : Bool
  next : HomeNext
  done : Bool
deriving DecidableEq, Repr

/-- A memory node and its Yarrow directory (spec 10, 11). -/
structure Node where
  dir : NMap DirEnt
  /-- Order of the last grant of each line, for the choice of a victim (R310). -/
  granted : NMap Nat
  txns : List Txn
  /-- Wait lists of blocking mode, in arrival order (R322). -/
  waits : List Instr
  pred : NMap Nat
  /-- Lines in the far-atomic buffer, least recently used first; their data stand in memory. -/
  far : List Nat
  /-- Completions withheld until OUT is 0: line, owner, message. -/
  held : List (Nat × Nat × Instr)
  /-- The regime that a switch leads to (R323). -/
  next : Nat
  /-- Halves being scanned out (R324). -/
  lost : List Nat
  /-- Refreshes issued by bank, and counts of the current 100 ms window (R268). -/
  refreshes : NMap Nat
  counts : NMap Nat
  clock : Nat
  /-- Frame sides being rewritten: frame, south (R305). -/
  rewriting : List (Nat × Bool)
deriving DecidableEq, Repr

/-- Where a queue keeps an item (R374, R577). -/
inductive QLoc where | head | tail | mid (slot : Nat)
deriving DecidableEq, Repr

/-- An item of a queue (R378): its words, which lie in memory while it is in the middle, priority, push number, read
position where it is read, place, poison. -/
structure QItem where
  w : Item
  pri : Nat
  no : Nat
  read : Option Nat
  at_ : QLoc
  poison : Bool
deriving DecidableEq, Repr

/-- Who waits on a queue (R388, R390, R413). -/
inductive QWho where
  /-- A path of a group with the registers of its instruction: data, status, lanes of the path, address. -/
  | path (core slot op data qs : Nat) (mask : W32) (pc : Nat)
  | mover (core m : Nat)
  /-- A push of another module: where its status is sent, the packet fields that it echoes. -/
  | remote (src job gen opid vc : Nat)
  /-- An engine that pushes a completion item. -/
  | engine
deriving DecidableEq, Repr

/-- A waiting operation of a queue: items to push with their priority, or a number of items to pop. -/
structure QWait where
  who : QWho
  slice : Nat
  push : List Item
  pri : Nat
  pop : Nat
deriving DecidableEq, Repr

/-- A Campion queue (spec 13): items in push order, next push number, read position, marks, waiting operations. -/
structure Queue where
  items : List QItem
  pushes : Nat
  pos : Nat
  marks : List (Option Nat)
  fc : Bool
  waits : List QWait
deriving DecidableEq, Repr

/-- Which remote operation is outstanding (R413, R416). -/
inductive RemoteKind where
  /-- A path that waits for the status of its push. -/
  | push (core slot : Nat)
  /-- A packet of a put, and a request of a get with its offset in the slice's scratch there. -/
  | put (core m : Nat)
  | get (core m ofs len : Nat)
  /-- A packet of the link engine for a slice's command. -/
  | engine (slice : Nat)
deriving DecidableEq, Repr

/-- An outstanding remote operation (R412 to R414): issue time, target module, operation number, its packet; whether its wait was
abandoned, and what arrived since: status and bytes (R476). -/
structure Remote where
  id : Nat
  kind : RemoteKind
  slice : Nat
  gen : Nat
  dst : Nat
  opid : Nat
  since : Nat
  pkt : Packet
  kept : Bool
  answer : Option (Nat × List Byte)
deriving DecidableEq, Repr

/-- A link port (R403 to R406, R423): next sequence numbers, packets kept for replay, replays of one number, good lanes,
recent tag failures, packet counter, when the session opened, its number and the old key slot; whether training has completed. -/
structure Port where
  tx : Nat
  rx : Nat
  sent : List Packet
  replays : Nat × Nat
  lanes : BitVec 8
  fails : List Nat
  counter : Nat
  opened : Nat
  session : Option Nat
  oldSlot : Option Nat
  trained : Bool
deriving DecidableEq, Repr

/-- A slice as its link engine keeps it (R416 to R419): expected SEQ; the command in progress with its stage, its status so far,
whether a line was resolved early; bytes arrived by 4 × stage + SEQ mod 4; commands done and bytes reduced since STAT cleared
them; its place in the order in which the engine last served its slices. -/
structure LinkEngine where
  seq : Nat
  cmd : Option (Item × Nat)
  early : Bool
  failed : Nat
  arrived : NMap Nat
  done : Nat
  bytes : Nat
  turn : Nat
deriving DecidableEq, Repr

/-- A Vetch engine (R165 to R177): the completion item that waits to be pushed, with its queue; counts since EN or CLR; the
number of experts of the ROUTE that last wrote each list region, by LIST (log 30). -/
structure Vetch where
  done : Option (Nat × Item)
  kept : Nat
  dropped : Nat
  rerouted : Nat
  nonfin : Nat
  degen : Nat
  cmds : Nat
  lists : NMap Nat
deriving DecidableEq, Repr

/-- Where the module stands in its power-on sequence (R511, R512, R529, R537, R538, R566): no power, waiting for the 100 ms
of R512, running, held after step 3, stopped with FAIL set, stopped after a trip, or past DEV_READY. -/
inductive Phase where | off | delayed | running | held | stopped | tripped | ready
deriving DecidableEq, Repr

/-- Filtered levels of the inputs, and whether the 72 V input is within range (R557, R563, R564). -/
structure Pins where
  pwrEn : Bool
  resetN : Bool
  slow : Bool
  input : Bool
deriving DecidableEq, Repr

/-- What the in-service sections of the manufacturing record add to the factory ones (R535): retired nodes, sites marked
failed, substitutions as logical number and site, newest first, trims as half, clock step and 2.5 mV units, counts of boots and unlocks. -/
structure RecordLog where
  retired : List Nat
  failed : List Nat
  subs : List (Nat × Nat)
  trims : List (Nat × Nat × Nat)
  boots : Nat
  unlocks : Nat
deriving DecidableEq, Repr

/-- A bridge link (R334, R354 to R357): mode 0 down, 1 half, 2 full, 3 retraining; the mode before a retrain; spares in use, good
lanes, replays of the last ms. -/
structure BLink where
  mode : Nat
  was : Nat
  spares : Nat
  lanes : BitVec 72
  replays : List Nat
deriving DecidableEq, Repr

/-- The panel networks (spec 12), by physical die d in the order of R490: links by 8 × (4d + edge) + link at the end of the lower
die; link assignment tables by 4d + edge of the sending die; edges whose entries await the exchange of flit numbers; exits
that differ from the default by 64d + destination; primary and alternate Bugle exits likewise; Bugle links that are down;
dies that have reported drained; requests held by quiesced interfaces; skew of a die's time base in ns. -/
structure Mesh where
  links : NMap BLink
  tables : NMap (List Nat)
  moving : List Nat
  routes : NMap Nat
  bugle : NMap (Nat × Nat)
  bugleDown : List Nat
  drained : List Nat
  held : List Instr
  skew : NMap Int
deriving DecidableEq, Repr

/-- A half's clock limits (R515 to R520, R527): thermal clock and the time of its last rise; budget clock and whether the budget
rather than another limit fixes it; since when the clock is stretched; stretched cycles of the budget period; core cycles at
its start. -/
structure HalfPower where
  thermal : Nat
  raised : Nat
  budget : Nat
  binds : Bool
  stretch : Option Nat
  stretched : Nat
  start : Nat
deriving DecidableEq, Repr

/-- A compute die's budget (R518, R524 to R526): watts in 0.25 W, period, CAP, forced slow, periods missed, loans, last loan given. -/
structure DiePower where
  watts : Nat
  period : Nat
  capped : Bool
  slow : Bool
  missed : Nat
  loans : Nat
  lent : Option Nat
deriving DecidableEq, Repr

/-- The power manager (spec 18): halves, dies, measured power and demand by die in 0.25 W (R518), measured module input, whether an
episode of R522 lasts, samples of the 100 ms window with their sums by die (60 is the input), coolant hot since. -/
structure Power where
  halves : NMap HalfPower
  dies : NMap DiePower
  telem : NMap (Nat × Nat)
  input : Nat
  above : Bool
  samples : Nat
  sums : NMap Nat
deriving DecidableEq, Repr

/-- What a commit applies at its instant (R540, R543): epoch, instant; a repair commit with the logical numbers that it moves to sites and
the broadcast mask that it sets; mesh routes that it loads; whether COMMIT has been sent. -/
structure Commit where
  epoch : Nat
  instant : Nat
  repair : Bool
  routes : Option MeshRoutes
  moves : List (Nat × Nat)
  mask : Option Nat
  sent : Bool
deriving DecidableEq, Repr

/-- A module cluster (R453, R470, R472): current slice and when it got it; virtual times by slice in 1/6144 core cycles; whether the
dispatcher has stopped starting its current slice's blocks, or those of every slice but a window's. -/
structure Cluster where
  cur : Option Nat
  since : Nat
  vt : NMap Nat
  stopped : Bool
  guard : Option Nat
deriving DecidableEq, Repr

/-- Reserved windows (R471, R472): the table in force as pairs of SLC_WIN_A and SLC_WIN_B, the cycle length, begin of the cycle,
open windows with the time they close. -/
structure Windows where
  table : List (Nat × Nat)
  cycus : Nat
  origin : Nat
  opened : NMap Nat
deriving DecidableEq, Repr

/-- An SPDM session of a port (R442, R496): its number, secret, whether FINISH has come, key updates. -/
structure Session where
  id : Nat
  secret : List Byte
  open_ : Bool
  updates : Nat
deriving DecidableEq, Repr

/-- A host port (spec 15): BAR values at 8 × function + BAR and words of the MSI-X tables at 0x10000 × (1 + function) + offset that its
host wrote; writes that the outstanding zero-length read covers, and later ones; ATS invalidations with the reads they wait for;
since when LINK reads 0; IDE streams (0 the link stream, 1 to 4) with their state (1 Secure, 2 Insecure) and whether they carry PF1,
their keys; tunnelled reads by operation number, with module, time, and the packet while it waits to be sent; SPDM negotiation step, messages since, sessions, next session. -/
structure HostPort where
  cfg : NMap W64
  covered : List Nat
  waiting : List Nat
  invals : List (Nat × List (Nat × Nat))
  down : Nat
  streams : NMap (Nat × Bool)
  keys : NMap (BitVec 288)
  tunnels : List (Nat × Nat × Nat × Option Packet)
  spdm : Nat
  told : List Byte
  sessions : List Session
  nextSession : Nat
deriving DecidableEq, Repr

/-- What holds an HBM unit (R459, R460). -/
inductive UnitUse where | slice (n : Nat) | object (n : Nat)
deriving DecidableEq, Repr

/-- What the slice manager and the mailboxes keep (R459 to R461, R544, R545, R551, R552): the holder of each granted unit by its 16-bit
value; the units of an object in order; the HBMGRANT, OBJLOAD, MIGRATE and FWUPDATE in progress with the port of each; paused
slices, each with what pauses it (0 MIGRATE, 1 a transition); requests for a quote that wait, with port and SEQ; the verified image
of each target class; parts of a transition that have not ended: 1 a handover, 100 + die a substitution, 200 + node a retirement; dies
whose RECAL runs; since when a new acting die is on probation; the HBMFREE whose unit still has accesses, with port and SEQ. -/
structure Manager where
  grants : NMap UnitUse
  objects : NMap (List Nat)
  grant : Option (Nat × UnitUse × Nat)
  load : Option (Nat × Nat × Nat × Nat)
  move : Option (Nat × Nat × Nat × Nat)
  update : Option (Nat × Nat)
  paused : List (Nat × Nat)
  waiting : List (Nat × Nat)
  images : NMap (BitVec 256)
  changes : List Nat
  recal : List Nat
  probation : Option Nat
  freeing : Option (Nat × Nat × Nat)
deriving DecidableEq, Repr

/-- The security engine (spec 17): tenant keys by 4 × slice + handle, with the next IV counter; the attestation key by number, the
spare of each management die, and the number of the next key; stable slots that differ from those of a first power-on; slots that a
transition changes; digests of loaded objects; the challenge with its time; the configuration record in flash. -/
structure Security where
  handles : NMap (BitVec 288 × Nat)
  akey : Option Nat
  spares : NMap Nat
  nextKey : Nat
  meas : NMap (BitVec 256)
  pend : NMap (BitVec 256)
  objects : NMap (BitVec 256)
  challenge : Option (List Byte × Nat)
  record : List Byte
deriving DecidableEq, Repr

/-- The target of the I3C bus (R567): its dynamic address, none before it is assigned; the selected item. -/
structure I3c where
  addr : Option Nat
  index : Nat
deriving DecidableEq, Repr

/-- An outstanding host-memory read (R438 to R440): who reads, the slice and its generation, port, host address, bytes. -/
structure HostRead where
  id : Nat
  agent : Agent
  slice : Nat
  gen : Nat
  port : Nat
  addr : Nat
  len : Nat
deriving DecidableEq, Repr

/-- What the module sends out or reports: posted writes, interrupts, management events, packets. -/
inductive Out where
  /-- An MSI-X vector of a function (0 PF0, 1 PF1) of a port, with its data word (R437, R463). -/
  | msix (port fn vec data : Nat)
  /-- A host-memory write of a slice (R438). -/
  | hostWrite (port slice addr : Nat) (bytes : List Byte)
  /-- A management event to the owner (R463, R479). -/
  | event (port : Nat) (what : Nat) (args : List Nat)
  /-- A packet on a link port. -/
  | link (port : Nat) (p : Packet)
  /-- The zero-length read of a host port (R441), the end of an invalidation (R439), the readiness message (R447). -/
  | zeroRead (port : Nat)
  | atsDone (port tag : Nat)
  /-- A read of PF1 BAR2 that completes with Unsupported Request (R434, R444), and one that returns a value. -/
  | unsupported (port : Nat)
  | tenantAnswer (port : Nat) (pasid : Option Nat) (value : Nat)
  | ready (port : Nat)
  /-- What a read returns to its host: 0 and 1 the manager functions, 2 the pod owner, 3 the sideband bus (R5, R429, R448, R567). -/
  | answer (host : Nat) (value : Nat)
  /-- The bytes that a mailbox command returns beside its response words (R490, R503). -/
  | response (port : Nat) (bytes : List Byte)
  /-- An SPDM response of a port (R442). -/
  | spdm (port : Nat) (code : Nat) (bytes : List Byte)
deriving DecidableEq, Repr

/-- Messages, requests and results on their way: every command that carries one of these removes it. -/
structure Flight where
  llm : List LlmReq
  scr : List ScrReq
  contrib : List (Nat × Contrib)
  /-- Coherence and other messages sent and not yet taken. -/
  net : List Instr
deriving DecidableEq, Repr

/-- The state of the module. -/
structure State where
  /-- The commands that are waiting, first in first out. -/
  pending : List Instr
  /-- The time base (R4). -/
  time : W64
  /-- Nanoseconds since the origin of the power-on sequence, while it runs (R537). -/
  bootTime : Nat
  /-- The model's own counter of the free values it has taken (log 11); no register of the module. -/
  free : Nat
  /-- The model's own numbering of operations, store entries and arrivals. -/
  ids : Nat
  /-- Registers of BAR0 by address where they differ from reset, and the staging copy (R7, R9). -/
  regs : NMap W64
  staged : NMap W64
  /-- Registers of the slice windows, at 0x1_0000 × slice + offset (R434). -/
  swin : NMap W64
  /-- HBM and scratch by module physical address (R250, R283, R284), and the poisoned sectors (R295). -/
  mem : Mem
  poison : NMap Bool
  cores : NMap Core
  slices : NMap Slice
  halves : NMap Half
  nodes : NMap Node
  flight : Flight
  out : List Out
  /-- Writes of paths to hosts and other modules not yet acknowledged (R193, R441). -/
  unacked : List Nat
  /-- Per half: core cycles delivered up to the last change of its clock, and the time of that change (R56, R57). -/
  cycBase : NMap (Nat × Nat)
  hostReads : List HostRead
  /-- Tags T[7:0] of tagged bursts, by sector (R292). -/
  tags : NMap Nat
  /-- The queues (spec 13), and the filtered state and begin of assertion of each QFC_IN. -/
  queues : NMap Queue
  qfcIn : NMap Nat
  /-- Links (spec 14): outstanding remote operations, ports, next operation number by module, route entries that differ
  from R408, link engines by slice, operations seen by source module with their times, pace notices held. -/
  remotes : List Remote
  ports : NMap Port
  opids : NMap Nat
  routes : NMap (Nat × Nat)
  engines : NMap LinkEngine
  seen : List (Nat × Nat × Nat)
  notices : NMap (Nat × Nat)
  vetch : NMap Vetch
  /-- Management: error records newest first, those saved in flash, completion events waiting in MGT_EVT of each port. -/
  errlog : List (List Nat)
  errSaved : List (List Nat)
  events : NMap (List Nat)
  /-- Sites that hold the logical dies, and reserve sites left (R13, R19, R21). -/
  sites : List Nat
  reserves : List Nat
  /-- Power-on phase, inputs, dies that have tripped, the in-service record (spec 18, 19, 20). -/
  phase : Phase
  pins : Pins
  trips : List Nat
  rlog : RecordLog
  /-- Consecutive time-sync exchanges within 2 ns, up to 16 (R422). -/
  syncs : Nat
  /-- The panel networks and the power manager (spec 12, 18). -/
  mesh : Mesh
  power : Power
  /-- The commit between its check and its instant, repair commits that wait, staged route images (R540, R543, R544). -/
  commit : Option Commit
  repairs : List Commit
  stagedMesh : Option MeshRoutes
  stagedLink : Option (List (Nat × Nat × Nat × Nat))
  /-- State and generation of each physical die (R490, R491). -/
  dieState : NMap Nat
  dieGen : NMap Nat
  /-- Scheduling (spec 16): module clusters, reserved windows. -/
  clusters : NMap Cluster
  windows : Windows
  /-- The host ports. -/
  hosts : NMap HostPort
  /-- The slice manager with the mailboxes, and the security engine. -/
  mgr : Manager
  sec : Security
  /-- The management bus (R567). -/
  i3c : I3c
deriving DecidableEq, Repr

/-- Why the machine stops with a fault: never. Every error that the spec describes is an effect on the state, and a command for
something that is not there changes nothing (log 7). -/
inductive Fault
deriving DecidableEq, Repr

/-- Why a command has no meaning. -/
inductive Refusal where
  /-- Raised by the dispatch alone, for a row whose meaning is not written yet. Safe. -/
  | notModelled (mnemonic : String)
deriving DecidableEq, Repr

/-- A link that has trained at full width; a half and a die that no power limit binds (log 41). -/
def BLink.init : BLink := { mode := 2, was := 2, spares := 0, lanes := BitVec.allOnes 72, replays := [] }
def HalfPower.init : HalfPower := { thermal := 2000, raised := 0, budget := 2000, binds := false, stretch := none, stretched := 0, start := 0 }
def DiePower.init : DiePower := { watts := 4095, period := 0, capped := false, slow := false, missed := 0, loans := 0, lent := none }

/-- An empty core. -/
def Core.init : Core :=
  { blocks := [], groups := [], sb := [], near := [], mxq := [], mxaRun := [], mxwRun := [],
    mv0 := { queue := [], run := [], kept := [] }, mv1 := { queue := [], run := [], kept := [] }, last := none }

/-- A queue that holds nothing (R391). -/
def Queue.init : Queue := { items := [], pushes := 0, pos := 0, marks := [none, none, none, none], fc := false, waits := [] }

/-- An idle link engine and an idle Vetch engine. -/
def LinkEngine.init : LinkEngine := { seq := 0, cmd := none, early := false, failed := 0, arrived := [], done := 0, bytes := 0, turn := 0 }
def Vetch.init : Vetch := { done := none, kept := 0, dropped := 0, rerouted := 0, nonfin := 0, degen := 0, cmds := 0, lists := [] }
def HostPort.init : HostPort :=
  { cfg := [], covered := [], waiting := [], invals := [], down := 0, streams := [], keys := [], tunnels := [], spdm := 0, told := [], sessions := [], nextSession := 0 }
def Port.init : Port :=
  { tx := 0, rx := 0, sent := [], replays := (0, 0), lanes := 255, fails := [], counter := 0, opened := 0, session := none, oldSlot := none, trained := false }

/-- A slice that holds nothing. -/
def Slice.init : Slice :=
  { pages := [], taskCtr := 0, bells := [], launch := [], kernels := [], saved := [], model := none, energy := [], qenergy := [],
    charge := 0, charged := 0, landed := 0, secTurn := 0 }

/-- A traffic class at DEV_READY (R269, R270). -/
def Thrash.init : Thrash := { acc := 0, hit := 0, na := false, left := 0, hold := 8, probe := false, rate := 255 }

/-- An LLM half with every line invalid. -/
def Half.init : Half :=
  { lines := [], miss := [], tags := [], used := [], wb := [], pend := [], arrivals := 0, tomb := [], windows := [], parked := [],
    pfs := [], classes := [], switches := 0, zeroing := [], accs := [], hits := [], age := 0 }

/-- A memory node whose directory holds no entry, in normal service. -/
def Node.init : Node :=
  { dir := [], granted := [], txns := [], waits := [], pred := [], far := [], held := [], next := 0, lost := [],
    refreshes := [], counts := [], clock := 0, rewriting := [] }

/-- The module as DEV_READY rises: every register at the value of its map, the log without a record yet (R9, R538, R539, R546; log 60). -/
def State.reset : State :=
  { pending := [], time := 0, bootTime := 0, free := 0, ids := 0, regs := [], staged := [], swin := [], mem := [], poison := [],
    cores := [], slices := [], halves := [], nodes := [],
    flight := { llm := [], scr := [], contrib := [], net := [] }, out := [], unacked := [], cycBase := [], hostReads := [], tags := [],
    queues := [], qfcIn := [],
    remotes := [], ports := [], opids := [], routes := [], engines := [], seen := [], notices := [],
    vetch := [], errlog := [], errSaved := [], events := [],
    sites := List.range 32, reserves := [32, 33, 34, 35],
    phase := .ready, pins := { pwrEn := true, resetN := false, slow := false, input := true }, trips := [], rlog := { retired := [], failed := [], subs := [], trims := [], boots := 0, unlocks := 0 },
    syncs := 0,
    mesh := { links := [], tables := [], moving := [], routes := [], bugle := [], bugleDown := [], drained := [], held := [], skew := [] },
    power := { halves := [], dies := [], telem := [], input := 0, above := false, samples := 0, sums := [] },
    commit := none, repairs := [], stagedMesh := none, stagedLink := none,
    dieState := [(32, 1), (33, 1), (34, 1), (35, 1)], dieGen := [],
    clusters := [], windows := { table := [], cycus := 1000, origin := 0, opened := [] },
    hosts := [],
    mgr := { grants := [], objects := [], grant := none, load := none, move := none, update := none, paused := [], waiting := [], images := [], changes := [],
             recal := [], probation := none, freeing := none },
    sec := { handles := [], akey := some 0, spares := [(1, 1)], nextKey := 2, meas := [], pend := [], objects := [], challenge := none, record := [] },
    i3c := { addr := none, index := 0 } }
end Sys2Proof.Machine
end

