-- ==== Sys2Proof/Machine/Regs.lean ====
section
/-! DEFINITION. The register store: values in effect, the staging copy, and the shared operations over status fields. -/

namespace Sys2Proof.Machine

/-- The value in effect of a BAR0 register. -/
def State.reg (s : State) (a : Nat) : Nat := ((NMap.find? s.regs a).getD (BitVec.ofNat 64 (regReset a))).toNat

/-- Sets the value in effect. -/
def State.setReg (s : State) (a v : Nat) : State := { s with regs := NMap.put s.regs a (BitVec.ofNat 64 v) }

/-- Field `[lo + w - 1 : lo]` of a register in effect. -/
def State.fld (s : State) (a lo w : Nat) : Nat := bits (s.reg a) lo w

/-- Writes one field of the value in effect. -/
def State.setFld (s : State) (a lo w x : Nat) : State := s.setReg a (setBits (s.reg a) lo w x)

/-- Sets an error or status bit. -/
def State.flag (s : State) (a i : Nat) : State := s.setFld a i 1 1

/-- Increments a saturating count field. -/
def State.satInc (s : State) (a lo w : Nat) : State := s.setFld a lo w (min (s.fld a lo w + 1) (2 ^ w - 1))

/-- A staged register: its staged value, or the value in effect where nothing was staged (R7, R9). -/
def State.stagedReg (s : State) (a : Nat) : Nat := ((NMap.find? s.staged a).map BitVec.toNat).getD (s.reg a)

/-- A register of a slice window. -/
def State.sreg (s : State) (sl o : Nat) : Nat := (NMap.get 0 s.swin (sl * 0x10000 + o)).toNat

/-- Sets a register of a slice window. -/
def State.setSreg (s : State) (sl o v : Nat) : State :=
  { s with swin := NMap.set 0 s.swin (sl * 0x10000 + o) (BitVec.ofNat 64 v) }

/-- Increments a 64-bit counter of a slice window, wrapping (R482). -/
def State.incSreg (s : State) (sl o : Nat) : State := s.setSreg sl o (s.sreg sl o + 1)

/-- Addresses of registers that several families read or set. -/
def aCfgBoot : Nat := 0x8
def aCommitStatus : Nat := 0x18
def aHpStatus (p : Nat) : Nat := 0x10000 + 0x100 * p
def aHpErr (p : Nat) : Nat := 0x10008 + 0x100 * p
def aHpCnt (p : Nat) : Nat := 0x10010 + 0x100 * p
def aOwner : Nat := 0x10200
def aSlc (sl o : Nat) : Nat := 0x200000 + 0x1000 * sl + o
def aSec (o : Nat) : Nat := 0x300000 + o
def aPwr (o : Nat) : Nat := 0x400000 + o
def aPwrHalf (h : Nat) : Nat := 0x400300 + 8 * h
def aCq (q o : Nat) : Nat := 0x500000 + 0x40 * q + o
def aCqG (o : Nat) : Nat := 0x508000 + o
def aLnk (o : Nat) : Nat := 0x600000 + o
def aPort (p o : Nat) : Nat := 0x600100 + 0x20 * p + o
def aNet (o : Nat) : Nat := 0x700000 + o
def aDie (w o : Nat) : Nat := 0x710000 + 0x1000 * w + o
def aCoh (n o : Nat) : Nat := 0x780000 + 0x1000 * n + o
def aMem (n o : Nat) : Nat := 0x800000 + 0x10000 * n + o
def aLlm (h o : Nat) : Nat := 0xC00000 + 0x4000 * h + o
def aVetch (h o : Nat) : Nat := 0x1038000 + 0x40000 * (h / 2) + 0x100 * (h % 2) + o
def aTel (o : Nat) : Nat := 0x2000000 + o
def aErr (o : Nat) : Nat := 0x2100000 + o

/-- Generation, job state, and existence of a slice (R481). -/
def State.gen (s : State) (sl : Nat) : Nat := s.fld (aSlc sl 0x40) 0 16
def State.jobOf (s : State) (sl : Nat) : Nat := s.fld (aSlc sl 0x40) 16 2
def State.exists? (s : State) (sl : Nat) : Bool := s.fld (aSlc sl 0) 0 1 == 1
def State.portOf (s : State) (sl : Nat) : Nat := s.fld (aSlc sl 0) 1 1

/-- Components by number; those that nothing has touched are in their initial state. -/
def State.core (s : State) (c : Nat) : Core := (NMap.find? s.cores c).getD Core.init
def State.putCore (s : State) (n : Nat) (c : Core) : State := { s with cores := NMap.put s.cores n c }
def State.slice (s : State) (n : Nat) : Slice := (NMap.find? s.slices n).getD Slice.init
def State.putSlice (s : State) (n : Nat) (x : Slice) : State := { s with slices := NMap.put s.slices n x }
def State.half (s : State) (h : Nat) : Half := (NMap.find? s.halves h).getD Half.init
def State.putHalf (s : State) (h : Nat) (x : Half) : State := { s with halves := NMap.put s.halves h x }
def State.node (s : State) (n : Nat) : Node := (NMap.find? s.nodes n).getD Node.init
def State.putNode (s : State) (n : Nat) (x : Node) : State := { s with nodes := NMap.put s.nodes n x }
def State.emit (s : State) (o : Out) : State := { s with out := s.out ++ [o] }
/-- The virtual channels of the mesh by what they carry (R343); the halves P0 and P1 of a pair differ only in the order of service (R344,
R345; log 71). -/
inductive Chan where | req | fwd | rsp | cmp
deriving DecidableEq, Repr

/-- The channel of a message of the mesh; none for what does not travel there (R313, R343, R352). -/
def chanOf : Instr → Option Chan
  | .rds _ | .rdx .. | .rdxn _ | .rdna _ | .rdfine .. | .wrna .. | .putm .. | .dropm _ | .holdend _ | .atomRequest .. => some .req
  | .inv .. | .fwds _ | .fwdx _ | .fwdrd _ | .recall _ | .fwdop .. => some .fwd
  | .dataMsg _ | .grant .. | .ack .. | .nodata .. | .wbdata .. | .atomret .. => some .rsp
  | .doneMsg .. | .cmp .. | .conversionNotice .. => some .cmp
  | _ => none

/-- Whether a message travels on REQ.P0 or REQ.P1, which a quiesced interface does not inject (R342, R343). -/
def isReq (i : Instr) : Bool := chanOf i == some .req
def State.send (s : State) (i : Instr) : State :=
  if isReq i && s.fld 0x700000 0 2 != 0 then { s with mesh := { s.mesh with held := s.mesh.held ++ [i] } }
  else { s with flight := { s.flight with net := s.flight.net ++ [i] } }
/-- Takes a message off the network where it is one that the module sent. -/
def State.take (s : State) (i : Instr) : State := { s with flight := { s.flight with net := s.flight.net.erase i } }
/-- The core that a request comes from. -/
def agentCore : Agent → Option Nat
  | .load c _ _ | .store c _ | .mover c _ _ => some c
  | _ => none

/-- An end of a message: a memory node, or a party with the half that it lies in. -/
inductive MsgEnd where
  | node (n : Nat)
  | half (h : Nat) (p : Party)
  | away (p : Party)
deriving DecidableEq, Repr
def partyEnd (p : Party) : MsgEnd :=
  match p with
  | .half h => .half h p
  | .fine c _ _ => .half (c / 32) p
  | .agent a => match agentCore a with | some c => .half (c / 32) p | none => .away p

/-- Class, sender and receiver of a forward, response or completion: 1, 2, 3 (R313). AtomRet comes from a home or an owner, which it does
not say; requests wait in the lanes of their home, each behind those of its sender for its line. -/
def msgEnds : Instr → Option (Nat × MsgEnd × MsgEnd)
  | .inv h _ n _ => some (1, .node n, partyEnd (.half h))
  | .fwds f | .fwdx f | .fwdrd f | .recall f | .fwdop f _ => some (1, .node f.node, partyEnd (.half f.half))
  | .dataMsg m => some (2, (match m.owner with | some h => partyEnd (.half h) | none => .node m.node), partyEnd m.dst)
  | .grant d _ n _ _ => some (2, .node n, partyEnd d)
  | .ack h _ n d => some (2, partyEnd (.half h), match d with | some p => partyEnd p | none => .node n)
  | .nodata f _ | .wbdata f _ _ => some (2, partyEnd (.half f.half), .node f.node)
  | .doneMsg p n _ => some (3, partyEnd p, .node n)
  | .cmp d _ n _ _ => some (3, .node n, partyEnd d)
  | _ => none

/-- A message is on its way and no earlier one of its class from its sender to its receiver is (R273, R315). -/
def State.arrives (s : State) (i : Instr) : Bool :=
  s.flight.net.contains i && ((msgEnds i).isNone || !(s.flight.net.takeWhile fun j => j != i).any fun j => msgEnds j == msgEnds i)

/-- A message is taken by its receiver when it arrives. -/
def State.onNet (s : State) (i : Instr) (f : State → State) : State := if s.arrives i then f (s.take i) else s
/-- A fresh number. -/
def State.fresh (s : State) : Nat × State := (s.ids, { s with ids := s.ids + 1 })
/-- A fresh free value of choice point `k` (log 11). -/
def State.freely (s : State) (k : Nat) : Nat × State := (Config.freeValue k s.free, { s with free := s.free + 1 })

/-- Whether a slice names a module cluster (R453). -/
def State.names (s : State) (sl k : Nat) : Bool := bit (s.reg (aSlc sl 0x10 + 8 * (k / 64))) (k % 64)
/-- A window's slice, and whether it covers a module cluster (R471, R481). -/
def State.winSlice (s : State) (w : Nat) : Nat := bits (s.windows.table.getD w (0, 0)).1 1 6
def State.winHas (s : State) (w k : Nat) : Bool :=
  let b := (s.windows.table.getD w (0, 0)).2
  bit b (k / 8) && bit b (32 + k % 8)

/-- Whether a cluster is a slice's: one that it names, or that a reserved window gives it (R453). -/
def State.usesCluster (s : State) (sl k : Nat) : Bool :=
  s.names sl k || (List.range s.windows.table.length).any fun w => bit (s.windows.table.getD w (0, 0)).1 0 && s.winSlice w == sl && s.winHas w k
/-- Position of a core among the cores of a slice in ascending module core number; those of clusters that only a window gives it are among
them (R27, R453; log 67). -/
def State.coreRank (s : State) (sl core : Nat) : Nat := 8 * ((List.range (core / 8)).filter (s.usesCluster sl)).length + core % 8
def State.halfPower (s : State) (h : Nat) : HalfPower := (NMap.find? s.power.halves h).getD HalfPower.init
def State.putHalfPower (s : State) (h : Nat) (x : HalfPower) : State := { s with power := { s.power with halves := NMap.put s.power.halves h x } }
def State.diePower (s : State) (d : Nat) : DiePower := (NMap.find? s.power.dies d).getD DiePower.init
def State.putDiePower (s : State) (d : Nat) (x : DiePower) : State := { s with power := { s.power with dies := NMap.put s.power.dies d x } }

/-- Core cycles of a half (R57): those counted up to the last change of its clock, and since then at its clock, halved while
stretched (R527). -/
def State.halfCycles (s : State) (h : Nat) : Nat :=
  let b := NMap.get (0, 0) s.cycBase h
  let f := if s.fld (aPwrHalf h) 45 1 = 1 then 0 else s.fld (aPwrHalf h) 0 11
  let d := if (s.halfPower h).stretch.isSome then 2000 else 1000
  (b.1 + (s.time.toNat - b.2) * f / d) % 2 ^ 64
/-- The core cycle counter (R57). -/
def State.cycles (s : State) (core : Nat) : Nat := s.halfCycles (core / 32)
/-- The cycles of a half up to now, before its clock changes. -/
def State.syncCycles (s : State) (h : Nat) : State := { s with cycBase := NMap.put s.cycBase h (s.halfCycles h, s.time.toNat) }

/-- A task performs an effect after which it is not replayed (R548). -/
def State.markTask (s : State) (sl : Nat) (no : W64) : State :=
  let x := s.slice sl
  if x.kernels.isEmpty then s else
  s.putSlice sl { x with kernels := x.kernels.map fun k => { k with tasks := k.tasks.map fun t => if t.no = no && t.st = .running then { t with effect := true } else t } }

/-- Queue registers' addresses and the queue itself. -/
def State.queue (s : State) (q : Nat) : Queue := (NMap.find? s.queues q).getD Queue.init
def State.putQueue (s : State) (q : Nat) (x : Queue) : State := { s with queues := NMap.put s.queues q x }
def State.vetchOf (s : State) (h : Nat) : Vetch := (NMap.find? s.vetch h).getD Vetch.init
def State.putVetch (s : State) (h : Nat) (x : Vetch) : State := { s with vetch := NMap.put s.vetch h x }
def State.engineOf (s : State) (sl : Nat) : LinkEngine := (NMap.find? s.engines sl).getD LinkEngine.init
def State.putEngine (s : State) (sl : Nat) (x : LinkEngine) : State := { s with engines := NMap.put s.engines sl x }
def State.portSt (s : State) (p : Nat) : Port := (NMap.find? s.ports p).getD Port.init
def State.putPort (s : State) (p : Nat) (x : Port) : State := { s with ports := NMap.put s.ports p x }

def State.host (s : State) (p : Nat) : HostPort := (NMap.find? s.hosts p).getD HostPort.init
def State.putHost (s : State) (p : Nat) (x : HostPort) : State := { s with hosts := NMap.put s.hosts p x }

/-- A write to host memory leaves on its port; a zero-length read behind it will acknowledge it, the next one where one is
outstanding (R438, R441). Gives the write's number. -/
def State.hostWrite (s : State) (port slice addr : Nat) (bs : List Byte) : State × Nat :=
  let (id, s) := s.fresh
  let x := s.host port
  let s : State := { s.emit (.hostWrite port slice addr bs) with unacked := s.unacked ++ [id] }
  if x.covered.isEmpty then ((s.emit (.zeroRead port)).putHost port { x with covered := [id] }, id)
  else (s.putHost port { x with waiting := x.waiting ++ [id] }, id)

end Sys2Proof.Machine
end

