-- ==== Sys2Proof/Machine/LineOps.lean ====
section
/-! DEFINITION. Lines and sectors: physical addresses, the bytes of a cached or scratch line, poison, atomics and add-to-line
on one line, and the resolution of pending ordered contributions (spec 7, 9, 10). -/

namespace Sys2Proof.Machine

/-- First address of the scratch window (R250). -/
def scratchBase : Nat := 0xF0000000000

/-- Whether a line number lies in the scratch window. -/
def isScratch (line : Nat) : Bool := scratchBase / 128 ≤ line && line < (scratchBase + 0x200000000) / 128

/-- The half, unit and byte that a scratch-window address names (R250). -/
def scratchHalf (pa : Nat) : Nat := (pa - scratchBase) / 2 ^ 27
def scratchUnit (pa : Nat) : Nat := (pa - scratchBase) / 2 ^ 22 % 32
def scratchAddr (h u b : Nat) : Nat := scratchBase + h * 2 ^ 27 + u * 2 ^ 22 + b

/-- The entry of the slice scratch map that holds 4 MiB unit `i` of a slice's scratch: half and unit (R454, R481). -/
def State.scrmap (s : State) (sl i : Nat) : Option (Nat × Nat) :=
  let v := bits (s.reg (aSlc sl 0x400 + 8 * (i / 4))) (16 * (i % 4)) 16
  if i < 512 ∧ bit v 15 then some (bits v 0 6, bits v 6 5) else none

/-- The physical address of a scratch offset of a slice (R249, R454). -/
def State.scratchPa (s : State) (sl ofs : Nat) : Option Nat :=
  (s.scrmap sl (ofs / 2 ^ 22)).map fun hu => scratchAddr hu.1 hu.2 (ofs % 2 ^ 22)

/-- The slice that owns a scratch unit under the slice scratch maps (R251). -/
def State.unitOwner (s : State) (h u : Nat) : Option Nat :=
  (List.range 64).find? fun sl => (List.range 512).any fun i => s.scrmap sl i == some (h, u)

/-- Cache slice and set of a line (R238). -/
def cacheSlice (line : Nat) : Nat := (bits line 0 4) ^^^ (bits line 16 4) ^^^ (bits line 24 4)
/-- The cache slice that serves a line: a scratch line n of a unit lies in cache slice n mod 16 (R249). -/
def sliceOf (line : Nat) : Nat := if isScratch line then line % 16 else cacheSlice line
def cacheSet (line : Nat) : Nat := bits line 4 12

/-- Home-map index of a line and its home half (R243), an absent half served by the next powered one (R247). -/
def homeIndex (line : Nat) : Nat := (bits line 5 10) ^^^ (bits line 15 10) ^^^ (bits line 25 10) ^^^ (bits line 35 2)
def State.homeEntry (s : State) (i : Nat) : Nat := bits (s.reg (aLlm 0 0x2000 + 8 * (i / 8))) (8 * (i % 8)) 6
def State.powered (s : State) (h : Nat) : Bool := decide (s.sites.getD (h / 2) 99 < 36) && s.fld (aLlm h 0x18) 0 2 != 0
def State.nextPowered (s : State) (h : Nat) : Nat :=
  (((List.range 64).map fun i => (h + i) % 64).find? s.powered).getD h
def State.homeHalf (s : State) (line : Nat) : Nat := s.nextPowered (s.homeEntry (homeIndex line))

/-- The half where contributions to a line are applied (R244). -/
def State.reductionPoint (s : State) (line : Nat) : Nat :=
  if isScratch line then scratchHalf (line * 128) else s.homeHalf line

/-- Nodes of the hash interleave, ascending (R283). -/
def State.hashNodes (s : State) : List Nat := (List.range 18).filter fun n => bit (s.fld (aMem 0 0x10) 8 18) n
def State.hframes (s : State) : Nat := s.fld (aMem 0 0x10) 0 6

/-- Where a byte is stored (R281): node, channel, slot, and the byte within the slot. -/
structure Stored where
  node : Nat
  channel : Nat
  slot : Nat
  byte : Nat
deriving DecidableEq, Repr

/-- The pseudo-channel: bytes 0 to 127 of a granule lie on 0, the others on 1 (R283). -/
def Stored.pseudo (x : Stored) : Nat := x.byte / 128 % 2
/-- The side of the node: false north, true south (R281). -/
def Stored.south (x : Stored) : Bool := decide (16 ≤ x.channel)

/-- Where a physical address is stored (R283, R284); none where MEM_PLACE does not back it (R285). -/
def State.stored (s : State) (pa : Nat) : Option Stored :=
  if pa < 0x20000000000 then
    let st := pa / 2 ^ 35
    let o := pa % 2 ^ 35
    let n := s.hashNodes.length
    if st < s.hframes ∧ o < n * 2 ^ 30 then
      let g := o / 256
      let c := (g % (32 * n) + g / (32 * n) * 167) % (32 * n)
      some ⟨s.hashNodes.getD (c / 32) 0, c % 32, st, g / (32 * n) * 256 + o % 256⟩
    else none
  else
    let x := pa - 0x20000000000
    let n := x / 2 ^ 36
    let d := x / 2 ^ 35 % 2
    let u := x / 2 ^ 30 % 32
    let g := x % 2 ^ 30 / 256
    let r := g / 16
    if n < 18 ∧ u < (48 - s.hframes) / 2 then
      some ⟨n, 16 * d + ((g % 16) ^^^ (r % 16)), s.hframes + 2 * u + r / 131072, r % 131072 * 256 + x % 256⟩
    else none

/-- The node, channel and slot of a physical address. -/
def State.place (s : State) (pa : Nat) : Option (Nat × Nat × Nat) := (s.stored pa).map fun x => (x.node, x.channel, x.slot)

/-- The home node of a line (R308). -/
def State.homeNode (s : State) (line : Nat) : Option Nat := (s.place (line * 128)).map (·.1)

/-- Poison of a sector: address / 32 (R295). -/
def State.poisoned (s : State) (sec : Nat) : Bool := NMap.get false s.poison sec
def State.setPoison (s : State) (sec : Nat) (b : Bool) : State := { s with poison := NMap.set false s.poison sec b }

/-- One sector of memory. -/
def State.memSector (s : State) (sec : Nat) : W256 := BitVec.ofNat 256 (s.mem.readLE (sec * 32) 32)
def State.putSector (s : State) (sec : Nat) (v : W256) : State := { s with mem := s.mem.writeLE (sec * 32) 32 v.toNat }

/-- `n` bytes at an offset of a line held as sectors. -/
def secRead (sec : List (Option W256)) (ofs n : Nat) : Nat :=
  bits (((sec.getD (ofs / 32) none).getD 0).toNat) (8 * (ofs % 32)) (8 * n)

/-- Writes `n` bytes within one sector of a line. -/
def secWrite (sec : List (Option W256)) (ofs n v : Nat) : List (Option W256) :=
  sec.set (ofs / 32) (some (BitVec.ofNat 256 (setBits (((sec.getD (ofs / 32) none).getD 0).toNat) (8 * (ofs % 32)) (8 * n) v)))

/-- A line's sectors with the invalid ones taken from memory, which is current for them (R254). -/
def State.filled (s : State) (line : Nat) (sec : List (Option W256)) : List (Option W256) :=
  (List.range 4).map fun i => some ((sec.getD i none).getD (s.memSector (4 * line + i)))

/-- Reads `n` bytes of a line at the half that holds it; a scratch line lies in memory. -/
def State.lineRead (s : State) (h line ofs n : Nat) : Nat :=
  if isScratch line then s.mem.readLE (line * 128 + ofs) n
  else match NMap.find? (s.half h).lines line with
    | some l => secRead (s.filled line l.sec) ofs n
    | none => s.mem.readLE (line * 128 + ofs) n

/-- Changes a cached line of a half. -/
def State.updLine (s : State) (h line : Nat) (f : Line → Line) : State :=
  let x := s.half h
  match NMap.find? x.lines line with
  | some l => s.putHalf h { x with lines := NMap.put x.lines line (f l) }
  | none => s

/-- Writes `n` bytes of a line within one sector at the half that holds it: the line becomes M, the sector dirty (R311). -/
def State.lineWrite (s : State) (h line ofs n v : Nat) : State :=
  if isScratch line then { s with mem := s.mem.writeLE (line * 128 + ofs) n v }
  else s.updLine h line fun l =>
    { l with st := .m, sec := secWrite (l.sec.set (ofs / 32) ((s.filled line l.sec).getD (ofs / 32) none)) ofs n v, dirty := l.dirty ||| (1#4 <<< (ofs / 32)) }

/-- Bytes of an atomic or reduction element (R69, R88). -/
def atyBytes : Nat → Nat
  | 0 | 1 | 2 => 4
  | 3 | 4 => 8
  | _ => 2

/-- The number format of an element type; none for an unsigned or signed integer. -/
def atyFloat : Nat → Option Num.Fmt
  | 2 => some .f32
  | 5 => some .bf16
  | 6 => some .f16
  | _ => none

/-- One lane's operation on an old value (R88, R123). `y` is the new value of cas. -/
def atomOp (aop aty old x y : Nat) : Nat :=
  let w := 8 * atyBytes aty
  let sg (v : Nat) : Int := if aty = 1 ∨ aty = 4 then sext w v else (v : Int)
  match aop, atyFloat aty with
  | 0, some f => Num.encodeRN f (Num.add 0 (Num.decode f old) (Num.decode f x))
  | 1, some f => Num.encodeRN f (Num.fmin (Num.decode f old) (Num.decode f x))
  | 2, some f => Num.encodeRN f (Num.fmax (Num.decode f old) (Num.decode f x))
  | 0, none => (old + x) % 2 ^ w
  | 1, none => if sg x < sg old then x else old
  | 2, none => if sg old < sg x then x else old
  | 3, _ => old &&& x
  | 4, _ => old ||| x
  | 5, _ => old ^^^ x
  | 6, _ => x
  | _, _ => if old = x then y else old

/-- Lanes applied one after another, each returning the value it found (R201). -/
def atomLanes (aop aty : Nat) : Nat → List (Nat × Nat × Nat) → Nat × List (Nat × Nat)
  | old, [] => (old, [])
  | old, (l, x, y) :: r =>
    let t := atomLanes aop aty (atomOp aop aty old x y) r
    (t.1, (l, old) :: t.2)

/-- Applies one contribution to its line, lanes in ascending order (R205). -/
def State.applyContrib (s : State) (h : Nat) (c : Contrib) : State :=
  c.lanes.foldl (fun s lv =>
    let n := atyBytes c.aty
    s.lineWrite h c.line lv.1 n (atomOp 0 c.aty (s.lineRead h c.line lv.1 n) lv.2 0)) s

/-- Ascending key order, equal keys by arrival (R206, R207). -/
def keyOf (p : Pend) : Nat := (p.c.key.getD 0).toNat
def insertPend (p : Pend) : List Pend → List Pend
  | [] => [p]
  | q :: r => if keyOf p < keyOf q then p :: q :: r else q :: insertPend p r
def sortPend (l : List Pend) : List Pend := l.foldl (fun acc p => insertPend p acc) []

/-- Whether two neighbours of a sorted list carry one key. -/
def equalKeys : List Pend → Bool
  | p :: q :: r => keyOf p == keyOf q || equalKeys (q :: r)
  | _ => false

/-- Resolves a line: its pending contributions are applied in key order (R206); equal keys are flagged and counted (R207). -/
def State.resolveLine (s : State) (h line : Nat) : State :=
  let x := s.half h
  let mine := sortPend (x.pend.filter fun p => p.c.line == line)
  match mine with
  | [] => s
  | p :: _ =>
    let s := s.putHalf h { x with pend := x.pend.filter fun p => !(p.c.line == line) }
    let s := mine.foldl (fun s q => (s.applyContrib h q.c).markTask q.c.slice (BitVec.ofNat 64 q.c.no)) s
    if equalKeys mine then
      (s.setSreg p.c.slice 0xC080 (s.sreg p.c.slice 0xC080 ||| 2)).incSreg p.c.slice 0xC090
    else s

/-- An early resolution: flagged and counted for the line's slice (R208). -/
def State.resolveEarly (s : State) (h line : Nat) : State :=
  match (s.half h).pend.find? fun p => p.c.line == line with
  | some p =>
    let t := s.resolveLine h line
    (t.setSreg p.c.slice 0xC080 (t.sreg p.c.slice 0xC080 ||| 4)).incSreg p.c.slice 0xC098
  | none => s

/-- Resolves every line of a half with contributions of a slice pending (R210). -/
def State.resolveSlice (s : State) (h sl : Nat) : State :=
  (((s.half h).pend.filter fun p => p.c.slice == sl).map fun p => p.c.line).foldl (fun s l => s.resolveLine h l) s

end Sys2Proof.Machine
end

