-- ==== Sys2Proof/Machine/Trans.lean ====
section
/-! DEFINITION. Slice-virtual addresses, the coherent view that engines read and write through, and store buffers
(R83, R84, R178, R184, R185, R459). -/

namespace Sys2Proof.Machine

/-- First physical address of an HBM unit named by its 16-bit value (R283, R284, R459). -/
def unitBase (u : Nat) : Nat :=
  if bit u 15 then bits u 8 6 * 2 ^ 35 + bits u 0 5 * 2 ^ 30
  else 0x20000000000 + bits u 10 5 * 2 ^ 36 + bits u 9 1 * 2 ^ 35 + bits u 0 5 * 2 ^ 30

/-- The page of a slice that holds a slice-virtual address, with its base (R459: 64 KiB, 2 MiB and 1 GiB). -/
def State.page (s : State) (sl va : Nat) : Option (Nat × Page) :=
  let try_ (k : Nat) : Option (Nat × Page) :=
    match NMap.find? (s.slice sl).pages (va / k * k) with
    | some p => if p.size = k then some (va / k * k, p) else none
    | none => none
  (try_ 0x10000).orElse fun _ => (try_ 0x200000).orElse fun _ => try_ 0x40000000

/-- Where a slice-virtual address leads. -/
inductive Hit where
  | mem (pa : Nat) (p : Page)
  | host (port addr : Nat) (p : Page)
deriving DecidableEq, Repr

/-- Translation of a 48-bit slice-virtual address (R84); none where no page maps it. -/
def State.translate (s : State) (sl va : Nat) : Option Hit :=
  (s.page sl va).map fun bp =>
    match bp.2.tgt with
    | .own pa | .obj _ pa => .mem (pa + (va - bp.1)) bp.2
    | .host port a => .host port (a + (va - bp.1)) bp.2

/-- The shared object of a page. -/
def Page.object (p : Page) : Option Nat := match p.tgt with | .obj n _ => some n | _ => none

/-- Halves that hold a line in E or M, or whose write-back buffer holds it. -/
def State.ownerHalf (s : State) (line : Nat) : Option Nat :=
  (List.find? (fun (hx : Nat × Half) =>
    match NMap.find? hx.2.lines line with
    | some l => decide (l.st ≠ LSt.s)
    | none => false) s.halves).map (·.1)

/-- The line that a message in flight carries from an owner: Data granted M, and WbData (R313). -/
def carried (line : Nat) : Instr → Option LineData
  | .dataMsg m => if m.line = line ∧ m.grant = .m then some m.data else none
  | .wbdata f _ d => if f.line = line then some d else none
  | _ => none

/-- Sectors of a line on their way between owner, home and requester, newest first (R313, R318). -/
def State.inTransit (s : State) (line : Nat) : List LineData :=
  s.flight.net.filterMap (carried line) ++
  NMap.foldV s.halves [] (fun l _ x => l ++ (x.miss.filterMap fun m => if m.line = line then m.got.bind fun g => if g.1 = .m then some g.2 else none else none)) ++
  NMap.foldV s.halves [] (fun l _ x => l ++ (x.wb.filterMap fun b => if b.line = line ∧ !b.dead ∧ !b.given then some b.data else none))

/-- The current value of one sector wherever it is held: owner, on its way, memory (R184, R187). -/
def State.cohSector (s : State) (sec : Nat) : W256 × Bool :=
  let line := sec / 4
  let i := sec % 4
  let own := (s.ownerHalf line).bind fun h => NMap.find? (s.half h).lines line
  match own.bind fun l => (l.sec.getD i none).map fun v => (v, l.poison.getLsbD i) with
  | some r => r
  | none =>
    match (s.inTransit line).findSome? fun d => if d.dirty.getLsbD i then (d.sec.getD i none).map fun v => (v, d.poison.getLsbD i) else none with
    | some r => r
    | none => (s.memSector sec, s.poisoned sec)

/-- Before a line is read or written its pending contributions are applied at its reduction point (R206). -/
def State.settle (s : State) (line : Nat) : State := s.resolveLine (s.reductionPoint line) line

/-- One coherent byte. -/
def State.cohByte (s : State) (pa : Nat) : Byte :=
  (((s.cohSector (pa / 32)).1) >>> (8 * (pa % 32))).truncate 8

/-- `n` coherent bytes. -/
def State.cohBytes (s : State) (pa : Nat) : Nat → List Byte
  | 0 => []
  | n + 1 => s.cohByte pa :: s.cohBytes (pa + 1) n

/-- Whether any sector of a range is poisoned. -/
def State.cohPoison (s : State) (pa n : Nat) : Bool :=
  n ≠ 0 && (List.range ((pa + n - 1) / 32 - pa / 32 + 1)).any fun i => (s.cohSector (pa / 32 + i)).2

/-- Clean copies of a line are invalidated before a write that does not go through them (R312, WrNA). -/
def State.dropShared (s : State) (line : Nat) : State :=
  { s with halves := List.map (fun (hx : Nat × Half) =>
      match NMap.find? hx.2.lines line with
      | some l => if l.st = LSt.s then (hx.1, { hx.2 with lines := NMap.del hx.2.lines line }) else hx
      | none => hx) s.halves }

/-- A byte written into carried sectors. -/
def patchLine (d : LineData) (ofs : Nat) (v : Byte) : LineData :=
  if (d.sec.getD (ofs / 32) none).isSome then { d with sec := secWrite d.sec ofs 1 v.toNat } else d

/-- The same in a message. -/
def patchMsg (line ofs : Nat) (v : Byte) : Instr → Instr
  | .dataMsg m => if m.line = line then .dataMsg { m with data := patchLine m.data ofs v } else .dataMsg m
  | .wbdata f k d => if f.line = line then .wbdata f k (patchLine d ofs v) else .wbdata f k d
  | .putm q d => if q.line = line then .putm q (patchLine d ofs v) else .putm q d
  | i => i

/-- A byte write reaches every copy of its line that is on its way, so that it is ordered before their arrival. -/
def State.patchTransit (s : State) (line ofs : Nat) (v : Byte) : State :=
  { s with flight := { s.flight with net := s.flight.net.map (patchMsg line ofs v) }
           halves := NMap.mapV s.halves fun x =>
             { x with miss := x.miss.map (fun m => if m.line = line then { m with got := m.got.map fun g => (g.1, patchLine g.2 ofs v) } else m)
                      wb := x.wb.map fun b => if b.line = line then { b with data := patchLine b.data ofs v } else b } }

/-- One coherent byte write: at the owner of the line, else in memory and in what is on its way, with the shared copies
invalidated. -/
def State.cohWriteByte (s : State) (pa : Nat) (v : Byte) : State :=
  let line := pa / 128
  if isScratch line then { s with mem := s.mem.write pa v }
  else match s.ownerHalf line with
    | some h => s.lineWrite h line (pa % 128) 1 v.toNat
    | none => let s := (s.dropShared line).patchTransit line (pa % 128) v
              { s with mem := s.mem.write pa v }

/-- Coherent bytes from `pa` upward. A sector wholly written loses its poison (R266). -/
def State.cohWrite (s : State) (pa : Nat) : List Byte → State
  | [] => s
  | b :: r => (s.cohWriteByte pa b).cohWrite (pa + 1) r

/-- Clears the poison of the sectors that lie wholly in a written range (R266, R296). -/
def State.cleanse (s : State) (pa n : Nat) : State :=
  (List.range (n / 32 + 1)).foldl (fun s i =>
    let sec := cdiv pa 32 + i
    if sec * 32 + 32 ≤ pa + n then s.setPoison sec false else s) s

/-- A coherent write of an engine. -/
def State.engineWrite (s : State) (pa : Nat) (bs : List Byte) : State :=
  ((List.range ((pa % 128 + bs.length + 127) / 128)).foldl (fun s i => s.settle (pa / 128 + i)) s
    |>.cohWrite pa bs).cleanse pa bs.length

/-- A coherent read of an engine: pending contributions first (R206), then the bytes and whether any was poisoned. -/
def State.engineRead (s : State) (pa n : Nat) : State × List Byte × Bool :=
  let s := (List.range ((pa % 128 + n + 127) / 128)).foldl (fun s i => s.settle (pa / 128 + i)) s
  (s, s.cohBytes pa n, s.cohPoison pa n)

end Sys2Proof.Machine
end

