-- ==== Sys2Proof/Machine/Mgmt.lean ====
section
/-! DEFINITION. Management reports: error records, ALERT_N, PF0 vectors and completion events (R544, R546, R576). -/

namespace Sys2Proof.Machine

/-- The port whose manager function owns the module; none for a pod owner (R430). -/
def State.ownerPort (s : State) : Option Nat := if s.fld aOwner 19 2 < 2 then some (s.fld aOwner 19 2) else none

/-- Sends a PF0 vector to the owner's port; to both ports where the pod owns the module (log 20). -/
def State.pf0 (s : State) (vec : Nat) : State :=
  match s.ownerPort with
  | some p => s.emit (.msix p 0 vec 0)
  | none => (s.emit (.msix 0 0 vec 0)).emit (.msix 1 0 vec 0)

/-- Sets ERR_STATUS.ALERT, which asserts ALERT_N (R546). -/
def State.alert (s : State) : State := s.flag (aErr 0) 0

/-- What an error record holds (R546). -/
structure Rec where
  sev : Nat
  block : Nat
  code : Nat
  die : Nat := 0
  unit : Nat := 0
  slice : Option Nat := none
  pa : Option Nat := none
  detail : Nat := 0
deriving DecidableEq, Repr

/-- The eight words of a record. -/
def State.recWords (s : State) (r : Rec) : List Nat :=
  [s.time.toNat, s.fld aCommitStatus 32 32 + r.sev * 2 ^ 32 + r.block * 2 ^ 40 + r.code * 2 ^ 48,
   r.die % 256 + r.unit % 256 * 2 ^ 8 + (match r.slice with | some x => x * 2 ^ 16 + 2 ^ 22 | none => 0),
   (match r.pa with | some a => a % 2 ^ 44 + 2 ^ 63 | none => 0), 1 + r.detail % 2 ^ 32 * 2 ^ 32, 0, 0, 0]

/-- Writes an error record: the log keeps 4,096, ERR_HEAD counts, severities 1 to 5 send vector 2, 4 and 5 set ALERT; a
record of severity 4 goes to flash with the 63 before it (R546). -/
def State.record (s : State) (r : Rec) : State :=
  let s := { s with errlog := (s.recWords r :: s.errlog).take 4096 }
  let s := s.setReg (aErr 8) ((s.reg (aErr 8) + 1) % 2 ^ 32)
  let s := if 1 ≤ r.sev && r.sev ≤ 5 then s.pf0 2 else s
  let s := if r.sev = 4 then ({ s with errSaved := (s.errlog.take 64 ++ s.errSaved).take 512 }).setFld (aErr 0) 1 1 1 else s
  if r.sev = 4 || r.sev = 5 then s.alert else s

/-- Physical die numbers in the order of R490: of a half, a node, a queue engine, the acting management die. -/
def State.dieOfHalf (s : State) (h : Nat) : Nat := s.sites.getD (h / 2) 0
def dieOfNode (n : Nat) : Nat := 36 + n
def State.dieOfEngine (s : State) (e : Nat) : Nat := if e < 64 then s.dieOfHalf e else 54 + (e - 64)
def State.actDie (s : State) : Nat := 58 + s.fld (aSec 0) 2 1

/-- The node whose window an address would fall in; MN0 for the hash window. -/
def nodeOfPa (pa : Nat) : Nat := if pa < 0x20000000000 then 0 else min 17 ((pa - 0x20000000000) / 2 ^ 36)

/-- MEM_ERR_ADDR takes an address (R285, R295, R296). -/
def State.memErrAddr (s : State) (n pa : Nat) : State := s.setReg (aMem n 0x38) (pa % 2 ^ 44 + 2 ^ 63)

/-- A burst is poisoned in memory after an uncorrectable error, a CRC mismatch or a poisoned write-back: flag, count, address,
record (R295, R547). -/
def State.poisonBurst (s : State) (sec : Nat) (crc : Bool) : State :=
  match s.place (sec * 32) with
  | none => s
  | some (n, c, _) =>
    let s := ((s.setPoison sec true).flag (aMem n 0x28) 1).satInc (aMem n 0x30) 32 16
    let s := if crc then s.satInc (aMem n 0x30) 48 16 else s
    (s.memErrAddr n (sec * 32)).record { sev := 6, block := 8, code := 1, die := dieOfNode n, unit := c, pa := some (sec * 32) }

/-- A home poisons a whole line in memory and keeps its address; the record is its caller's (R295, R324, R331). -/
def State.poisonLine (s : State) (n line : Nat) : State :=
  ((List.range 4).foldl (fun s i => s.setPoison (4 * line + i) true) s).memErrAddr n (128 * line)

/-- Counts of a node in the current window: bytes read and written, fine bursts, broadcasts, stale answers, freed entries, atoms
placed near and far, promotions (R306, R332). -/
def State.nodeCount (s : State) (n k by_ : Nat) : State :=
  let x := s.node n
  s.putNode n { x with counts := NMap.set 0 x.counts k (NMap.get 0 x.counts k + by_) }

/-- Poisoned bursts of a line are read from memory (R296). -/
def State.poisonRead (s : State) (line : Nat) (m : BitVec 4) : State :=
  match (List.range 4).find? fun i => m.getLsbD i && s.poisoned (4 * line + i), s.homeNode line with
  | some i, some n => (s.flag (aMem n 0x28) 2).memErrAddr n (128 * line + 32 * i)
  | _, _ => s

/-- A request named an address that no node backs (R285). -/
def State.unbackedAt (s : State) (pa : Nat) : State := (s.flag (aMem (nodeOfPa pa) 0x28) 4).memErrAddr (nodeOfPa pa) pa

/-- Queues a completion event of the mailbox: command, status, argument; PF0 vector 1 is sent (R544). -/
def State.mgtEvent (s : State) (port op status arg : Nat) : State :=
  ({ s with events := NMap.put s.events port ((NMap.get [] s.events port) ++ [op + status * 2 ^ 8 + arg % 2 ^ 48 * 2 ^ 16]) }).emit (.msix port 0 1 0)

end Sys2Proof.Machine
end

