-- ==== Sys2Proof/Machine/Job.lean ====
section
/-! DEFINITION. Program faults, the end of a job, and the replay of a task (R98 to R100, R463, R479, R480, R548). -/

namespace Sys2Proof.Machine

/-- What a program fault reports (R100): the code, the lanes, the address, the unit error or trap code, the row of a failed indexed
transfer (R232), an address that no node backs (R285). For code 0x09, `unit` is the object. -/
structure FaultInfo where
  code : Nat
  lanes : W32 := 0
  addr : Nat := 0
  unit : Nat := 0
  row : Nat := 0
  unbacked : Option Nat := none
deriving DecidableEq, Repr

/-- The movers of a core. -/
def Core.mover (c : Core) (m : Nat) : Mover := if m = 0 then c.mv0 else c.mv1
def Core.putMover (c : Core) (m : Nat) (v : Mover) : Core := if m = 0 then { c with mv0 := v } else { c with mv1 := v }

/-- A mover without the operations that `p` names by block. -/
def Mover.without (v : Mover) (p : Nat → Bool) : Mover :=
  { queue := v.queue.filter fun o => !p o.block, run := v.run.filter fun r => !p r.op.block, kept := v.kept.filter fun r => !p r.op.block }

/-- Occupancy share of a block in units of 1/6144 (R33). -/
def Block.share (b : Block) : Nat := max (max (b.g * 128) 384) (max (b.v * b.g * 3) (b.l * 24))

/-- Enabled slices that name a cluster (R453). -/
def State.namers (s : State) (k : Nat) : List Nat := (List.range 64).filter fun sl => s.exists? sl && s.names sl k

def Cluster.init : Cluster := { cur := none, since := 0, vt := [], stopped := false, guard := none }
def State.cluster (s : State) (k : Nat) : Cluster := (NMap.find? s.clusters k).getD Cluster.init
def State.putCluster (s : State) (k : Nat) (c : Cluster) : State := { s with clusters := NMap.put s.clusters k c }

/-- Replaces a block. -/
def State.putBlock (s : State) (core bs : Nat) (b : Block) : State :=
  let c := s.core core
  s.putCore core { c with blocks := NMap.put c.blocks bs b }

/-- Engine time of a block up to now goes to its slice, and on a shared cluster to its virtual time (R470). -/
def State.chargeBlock (s : State) (core slot : Nat) (b : Block) : State :=
  let now := s.cycles core
  let c := (now - b.charged) * b.share
  if c = 0 then s else
  let s := s.putBlock core slot { b with charged := now }
  let x := s.slice b.slice
  let s := (s.putSlice b.slice { x with charge := x.charge + c, charged := x.charged + c }).setSreg b.slice 0xD008 ((x.charge + c) / 6144)
  let k := core / 8
  if (s.namers k).length < 2 then s else
  let share := s.fld (aSlc b.slice 0) 22 8
  let y := s.cluster k
  s.putCluster k { y with vt := NMap.upd 0 y.vt b.slice (· + c * 256 / max share 1) }

/-- A core without the blocks that `p` names: their groups and asynchronous operations are gone. -/
def Core.dropBlocks (c : Core) (p : Block → Bool) : Core :=
  let gone := (List.filter (fun (b : Nat × Block) => p b.2) c.blocks).map (·.1)
  let mx (l : List MxOp) := l.filter fun o => !gone.contains o.block
  { c with blocks := List.filter (fun (b : Nat × Block) => !gone.contains b.1) c.blocks, groups := NMap.keepV c.groups fun g => !gone.contains g.block, mxq := mx c.mxq,
           mxaRun := c.mxaRun.filter fun r => !gone.contains r.op.block, mxwRun := c.mxwRun.filter fun r => !gone.contains r.op.block,
           mv0 := c.mv0.without gone.contains, mv1 := c.mv1.without gone.contains }

/-- Whether the path or mover that waits on a queue is still there. -/
def State.waiterLives (s : State) (w : QWait) : Bool :=
  match w.who with
  | .path c g op _ _ _ _ => match NMap.find? (s.core c).groups g with
    | some x => (List.range 32).any fun e => match NMap.find? x.ents e with | some (.path p) => p.wait == .queue op | _ => false
    | none => false
  | .mover c m => ((s.core c).mover m).run.any fun r => r.op.moved < 2 ^ 20
  | .remote .. | .engine => true

/-- Drops blocks from every core, charged up to now (R33), with the waits of their paths on queues. -/
def State.dropBlocks (s : State) (p : Block → Bool) : State :=
  let s := NMap.foldV s.cores s fun s core c => NMap.foldV c.blocks s fun s slot b => if p b then s.chargeBlock core slot b else s
  let s := { s with cores := NMap.mapV s.cores fun c => c.dropBlocks p }
  { s with queues := NMap.mapV s.queues fun q => { q with waits := q.waits.filter s.waiterLives } }

/-- The flow-control state after the occupancy changed, and the pins that follow it (R393, R394). -/
def State.flow (s : State) (q : Nat) : State :=
  let x := s.queue q
  let occ := x.items.length
  let fc := if s.fld (aCq q 0x18) 0 25 ≤ occ then true else if occ ≤ s.fld (aCq q 0x18) 25 25 then false else x.fc
  let s := s.putQueue q { x with fc := fc }
  (List.range 8).foldl (fun s i =>
    if s.fld (aCqG (8 * i)) 0 1 = 1 ∧ s.fld (aCqG (8 * i)) 1 9 = q then s.setFld (aCqG 0x48) i 1 fc.toNat else s) s

/-- A queue is emptied and its marks are cleared; its owner's waiting operations are gone (R391). -/
def State.emptyQueue (s : State) (q sl : Nat) : State :=
  let x := s.queue q
  (s.putQueue q { x with items := [], marks := Queue.init.marks, waits := x.waits.filter fun w => w.slice != sl }).flow q

/-- The Vetch engines that a slice owns when its job ends (R168). -/
def State.vetchLost (s : State) (sl : Nat) : State :=
  (List.range 64).foldl (fun s h =>
    if s.fld (aVetch h 0) 0 1 = 1 ∧ s.fld (aVetch h 0) 1 6 = sl ∧ (s.vetchOf h).done.isSome then
      ((s.putVetch h { s.vetchOf h with done := none }).flag (aVetch h 0x10) 2).setFld (aVetch h 8) 0 2 1
    else s) s

/-- The end of a job (R463): nothing further starts, contexts are discarded, the generation advances, reductions, engines
and queues end, the port and the manager are told. A second cause leaves the first reason (R463). -/
def State.jobEnd (s : State) (sl reason fcode : Nat) : State :=
  if s.jobOf sl ≠ 1 then s else
  let gen := (s.gen sl + 1) % 2 ^ 16
  let s := NMap.foldV s.halves s fun s h _ => s.resolveSlice h sl
  let s := { s with halves := NMap.mapV s.halves fun h => { h with pfs := NMap.keepV h.pfs fun p => p.slice != sl } }
  let s := s.vetchLost sl
  let s := NMap.foldV s.queues s fun s q _ => if s.fld (aCq q 0) 1 6 = sl then s.emptyQueue q sl else s
  let s := { s with engines := NMap.del s.engines sl }
  let s := s.dropBlocks fun b => b.slice == sl
  let s := s.putSlice sl { s.slice sl with bells := [], launch := [], kernels := [], saved := [], landed := 0 }
  let s := (s.setFld (aSlc sl 0x40) 0 16 gen).setFld (aSlc sl 0x40) 16 2 2
  let s := (s.setFld (aSlc sl 0x40) 24 8 reason).setFld (aSlc sl 0x40) 32 8 fcode
  (s.emit (.msix (s.portOf sl) 1 (4 * sl + 3) gen)).emit (.event (s.portOf sl) 0x463 [sl, reason])

/-- Writes the words of a fault record (R100, R480). -/
def State.faultWords (s : State) (sl : Nat) (w : List Nat) : State := (w.zipIdx).foldl (fun s p => s.setSreg sl (0xD040 + 8 * p.2) p.1) s

/-- Writes the primary fault record and ends the job (R100, R479, R480). -/
def State.faultRecord (s : State) (die sl : Nat) (w : List Nat) (code : Nat) : State :=
  if s.jobOf sl ≠ 1 then s else
  let (v, s) := s.freely 20
  let s := (s.record { sev := 3, block := 2, code := v % 2 ^ 16, die := die, slice := some sl, detail := code }).jobEnd sl 1 code
  s.faultWords sl w

/-- A fault raised outside any group: SRC 1 the dispatcher, 2 a Vetch engine, 3 a queue engine (R164, R177, R392, R480). -/
def State.engineFault (s : State) (sl src code no unit addr : Nat) : State :=
  s.faultRecord (if src = 1 then s.sites.getD unit 0 else s.dieOfEngine (if src = 3 then s.fld (aCq unit 0) 7 7 else unit)) sl [code, no, 0, unit * 2 ^ 32 + src * 2 ^ 48, addr] code

/-- A task's attempt is discarded: its blocks, and its pending contributions (R548). -/
def State.dropAttempt (s : State) (sl : Nat) (no : W64) : State :=
  let s := s.dropBlocks fun b => b.slice == sl && b.taskNo == no
  { s with halves := NMap.mapV s.halves fun h => { h with pend := h.pend.filter fun p => !(p.c.slice == sl && p.c.no == no.toNat) } }

/-- Changes the running tasks of an instance number. -/
def State.updTask (s : State) (sl : Nat) (no : W64) (f : Task → Task) : State :=
  let x := s.slice sl
  s.putSlice sl { x with saved := x.saved, kernels := x.kernels.map fun k => { k with tasks := k.tasks.map fun t => if t.no = no && t.st = .running then f t else t } }

/-- A task goes back to its start, keeping its number and seed (R548); it waits for the object where one was lost (R479). -/
def State.replay (s : State) (sl : Nat) (no : W64) (lost : Option Nat) : State :=
  let s := s.dropAttempt sl no
  let s := s.putSlice sl { s.slice sl with saved := (s.slice sl).saved.filter fun v => !(v.block.taskNo == no) }
  s.updTask sl no fun t => { t with started := 0, retired := [], begun := none, effect := false, lost := lost }

/-- A group raises a program fault at an address (R99, R100, R479): it writes its record, and the job ends, or for 0x09 the task waits
for the object (log 66). -/
def State.programFaultAt (s : State) (core slot pc : Nat) (f : FaultInfo) : State :=
  match NMap.find? (s.core core).groups slot with
  | none => s
  | some g =>
    match NMap.find? (s.core core).blocks g.block with
    | none => s
    | some b =>
      let s := match f.unbacked with | some pa => s.unbackedAt pa | none => s
      let w := [f.code + g.index * 2 ^ 8 + b.index % 2 ^ 16 * 2 ^ 13 + f.row % 2 ^ 32 * 2 ^ 32, b.taskNo.toNat, pc,
        f.lanes.toNat + (if f.code = 0x0E ∨ f.code = 0x11 then f.unit % 2 ^ 16 * 2 ^ 32 else 0), f.addr]
      if f.code = 0x09 then
        let s := if s.jobOf b.slice = 1 then s.faultWords b.slice w else s
        let (v, s) := (s.emit (.event (s.portOf b.slice) 0x479 [f.unit, f.addr])).freely 20
        let s := s.record { sev := 2, block := 2, code := v % 2 ^ 16, die := s.dieOfHalf (core / 32), slice := some b.slice, detail := f.unit }
        s.replay b.slice b.taskNo (if f.unit < 65536 then some f.unit else none)
      else
        s.faultRecord (s.dieOfHalf (core / 32)) b.slice w f.code

/-- The same at the address of the group's current path. -/
def State.programFault (s : State) (core slot : Nat) (f : FaultInfo) : State :=
  s.programFaultAt core slot (((NMap.find? (s.core core).groups slot).bind fun g => match NMap.find? g.ents g.cur with | some (.path p) => some p.pc | _ => none).getD 0) f

end Sys2Proof.Machine
end

