-- ==== Sys2Proof/Machine/Ops.lean ====
section
/-! DEFINITION. The named operations of groups: registers, paths, reconvergence, waits, and the issue of one instruction
(spec 2, 3). -/

namespace Sys2Proof.Machine

/-- All 32 lanes. -/
def allLanes : W32 := 0xFFFFFFFF

/-- Vector register r of lane l (R60). -/
def Group.vreg (g : Group) (r l : Nat) : W32 := NMap.get 0 g.v (32 * r + l)
def Group.setV (g : Group) (r l : Nat) (x : W32) : Group := { g with v := NMap.set 0 g.v (32 * r + l) x }
/-- A register pair, low half in the lower register (R61). -/
def Group.vpair (g : Group) (r l : Nat) : W64 := (g.vreg (r + 1) l) ++ (g.vreg r l)
def Group.setPair (g : Group) (r l : Nat) (x : W64) : Group :=
  (g.setV r l (x.truncate 32)).setV (r + 1) l ((x >>> 32).truncate 32)
/-- Uniform registers, predicates, descriptors, tokens. -/
def Group.ureg (g : Group) (r : Nat) : W64 := NMap.get 0 g.u r
def Group.setU (g : Group) (r : Nat) (x : W64) : Group := { g with u := NMap.set 0 g.u r x }
def Group.pred (g : Group) (r : Nat) : W32 := NMap.get allLanes g.q r
/-- Writes a predicate in the lanes of a mask and in no other. -/
def Group.setPred (g : Group) (r : Nat) (m x : W32) : Group :=
  { g with q := NMap.set allLanes g.q r ((g.pred r &&& ~~~m) ||| (x &&& m)) }
def Group.desc (g : Group) (r : Nat) : W256 := NMap.get 0 g.d r
def Group.setDesc (g : Group) (r : Nat) (x : W256) : Group := { g with d := NMap.set 0 g.d r x }
def Group.token (g : Group) (r : Nat) : Token := NMap.get .complete g.k r
def Group.setToken (g : Group) (r : Nat) (x : Token) : Group := { g with k := NMap.set .complete g.k r x }

/-- Writes `f l` into vector register r of every lane of a mask. -/
def Group.mapV (g : Group) (r : Nat) (m : W32) (f : Nat → W32) : Group :=
  (lanes.filter (inMask m)).foldl (fun g l => g.setV r l (f l)) g
/-- The same for pairs. -/
def Group.mapPair (g : Group) (r : Nat) (m : W32) (f : Nat → W64) : Group :=
  (lanes.filter (inMask m)).foldl (fun g l => g.setPair r l (f l)) g

/-- The path of an entry. -/
def Group.path? (g : Group) (e : Nat) : Option Path :=
  match NMap.find? g.ents e with | some (.path p) => some p | _ => none
/-- The reconvergence point of an entry. -/
def Group.point? (g : Group) (e : Nat) : Option Point :=
  match NMap.find? g.ents e with | some (.point p) => some p | _ => none
def Group.putPath (g : Group) (e : Nat) (p : Path) : Group := { g with ents := NMap.put g.ents e (.path p) }
def Group.putPoint (g : Group) (e : Nat) (p : Point) : Group := { g with ents := NMap.put g.ents e (.point p) }
def Group.delEnt (g : Group) (e : Nat) : Group := { g with ents := NMap.del g.ents e }
/-- The lowest free entries of the path table (R39). -/
def Group.freeEnts (g : Group) : List Nat := (List.range 32).filter fun e => (NMap.find? g.ents e).isNone

/-- Runnable paths other than the current one: entry and age (R43). -/
def Group.others (g : Group) : List (Nat × Path) :=
  (List.range 32).filterMap fun e =>
    if e = g.cur then none else (g.path? e).bind fun (p : Path) => if p.wait = Wait.run then some (e, p) else none

/-- The oldest of some paths, ties to the lowest entry (R45). -/
def oldest : List (Nat × Path) → Option Nat
  | [] => none
  | [(e, _)] => some e
  | (e, p) :: (f, q) :: r => if q.since < p.since then oldest ((f, q) :: r) else oldest ((e, p) :: r)

/-- Makes the path that has been runnable longest current; 32 when there is none (R43, R45). An outgoing path that is still
runnable becomes the newest. -/
def Group.switch (g : Group) : Group :=
  let nx := (oldest g.others)
  match nx with
  | none =>
    match g.path? g.cur with
    | some p => if p.wait = Wait.run then g else { g with cur := 32, turn := 0, loop := false }
    | none => { g with cur := 32, turn := 0, loop := false }
  | some e =>
    let g := match g.path? g.cur with
      | some p => if p.wait = Wait.run then { g.putPath g.cur { p with since := g.clock } with clock := g.clock + 1 } else g
      | none => g
    { g with cur := e, turn := 0, loop := false }

/-- Chooses a current path where the group has none. -/
def Group.wakeCur (g : Group) : Group := if g.cur = 32 then g.switch else g

/-- The lanes of a completed point become one path in the lowest free entry, at the point's address under its outer point. -/
def Group.merge (g : Group) (k : Nat) (pt : Point) (current : Bool) : Group × Nat :=
  let g := g.delEnt k
  let e := g.freeEnts.headD 0
  let g := g.putPath e { pc := pt.addr, mask := pt.lanes, wait := .run, since := g.clock, point := pt.outer, fence := pt.fence }
  ({ g with clock := g.clock + 1, cur := if current then e else g.cur, turn := if current then 0 else g.turn,
            loop := if current then false else g.loop }, e)

/-- The conditions of two fences: a wider fence includes those of a narrower one (R193). -/
def joinFences : Option Fence → Option Fence → Option Fence
  | none, f | f, none => f
  | some a, some b => some ⟨max a.scope b.scope, a.stores ++ b.stores, a.ext ++ b.ext⟩

/-- A path whose program counter is the address of its innermost open point joins the point's waiting mask (R40). -/
def Group.arrive : Nat → Group → Nat → Group
  | 0, g, _ => g
  | n + 1, g, e =>
    match g.path? e with
    | none => g
    | some p =>
      match p.point with
      | none => g
      | some k =>
        match g.point? k with
        | none => g
        | some pt =>
          if p.pc ≠ pt.addr then g else
          let pt := { pt with waiting := pt.waiting ||| p.mask, fence := joinFences pt.fence p.fence }
          let g' := (g.delEnt e).putPoint k pt
          if pt.waiting = pt.lanes then
            let m := g'.merge k pt (g.cur == e)
            Group.arrive n m.1 m.2
          else if g.cur = e then g'.switch else g'

/-- Completes points whose remaining lanes have all arrived, and frees those with no lane left (R41). -/
def Group.complete : Nat → Group → Group
  | 0, g => g
  | n + 1, g =>
    match (List.range 32).find? fun e => match g.point? e with | some pt => pt.waiting == pt.lanes | none => false with
    | none => g
    | some k =>
      match g.point? k with
      | none => g
      | some pt =>
        if pt.lanes = 0 then Group.complete n (g.delEnt k)
        else
          let m := g.merge k pt false
          Group.complete n (Group.arrive 32 m.1 m.2)

/-- Lanes leave every active and waiting mask of the group (R41). Where the current path has gone with them, the path that has been
runnable longest becomes current, a path that a point formed on the way being the newest (R43, R45). -/
def Group.exitLanes (g : Group) (m : W32) : Group :=
  let ents := g.ents.filterMap fun kv =>
    match kv.2 with
    | .path p => if p.mask &&& ~~~m = 0 then none else some (kv.1, Ent.path { p with mask := p.mask &&& ~~~m })
    | .point p => some (kv.1, Ent.point { p with waiting := p.waiting &&& ~~~m, lanes := p.lanes &&& ~~~m })
  let here := ents.any fun kv => kv.1 == g.cur
  let g := Group.complete 33 { g with ents := ents, exited := g.exited ||| m, cur := if here then g.cur else 32 }
  if here then g else g.switch

/-- The divergence of a path into `n` new suspended paths and an existing or new point: the entries it takes, or none on
overflow (R39). -/
def Group.diverge (g : Group) (p : Path) (rcv : Nat) (n : Nat) : Option (Nat × List Nat) :=
  let same := match p.point.bind g.point? with | some pt => pt.addr == rcv | none => false
  let free := g.freeEnts
  match p.point with
  | some k => if same then (if n ≤ free.length then some (k, free.take n) else none)
              else (if n + 1 ≤ free.length then some (free.headD 0, (free.drop 1).take n) else none)
  | none => if n + 1 ≤ free.length then some (free.headD 0, (free.drop 1).take n) else none

/-- Splits the current path: `stay` keeps the first target, each further target becomes a suspended path in order (R37, R38). -/
def Group.split (g : Group) (rcv : Nat) (stay : Nat × W32) (rest : List (Nat × W32)) : Option Group :=
  match g.path? g.cur with
  | none => none
  | some p =>
    match g.diverge p rcv rest.length with
    | none => none
    | some (k, es) =>
      let g := if (g.point? k).isSome then g
               else g.putPoint k { addr := rcv, waiting := 0, lanes := p.mask, outer := p.point, fence := none }
      let g := g.putPath g.cur { p with pc := stay.1, mask := stay.2, point := some k }
      let g := (es.zip rest).foldl (fun g x =>
        { g.putPath x.1 { pc := x.2.1, mask := x.2.2, wait := .run, since := g.clock, point := some k, fence := none } with clock := g.clock + 1 }) g
      some ((es.zip rest).foldl (fun g x => Group.arrive 32 g x.1) (Group.arrive 32 g g.cur))

/-- What an issuing instruction sees: its core, block, group and current path. -/
structure Ctx where
  core : Nat
  slot : Nat
  c : Core
  b : Block
  g : Group
  p : Path
deriving DecidableEq, Repr

/-- The context at a place; none where no group is resident there or it has no current path. -/
def State.ctx? (s : State) (x : Site) : Option Ctx :=
  let c := s.core x.core
  match NMap.find? c.groups x.slot with
  | none => none
  | some g =>
    match NMap.find? c.blocks g.block, g.path? g.cur with
    | some b, some p => some { core := x.core, slot := x.slot, c := c, b := b, g := g, p := p }
    | _, _ => none

/-- Replaces a group. -/
def State.putGroup (s : State) (core slot : Nat) (g : Group) : State :=
  let c := s.core core
  s.putCore core { c with groups := NMap.put c.groups slot g }

/-- Changes a group where one is resident. -/
def State.updGroup (s : State) (core slot : Nat) (f : Group → Group) : State :=
  match NMap.find? (s.core core).groups slot with
  | some g => s.putGroup core slot (f g)
  | none => s

/-- Whether the switch of R43 is due before the group's next instruction. -/
def Group.switchDue (g : Group) : Bool := g.loop && decide (64 ≤ g.turn) && !g.others.isEmpty

/-- Vector registers that an outstanding operation will write. -/
def LoadOp.vregs (o : LoadOp) : List Nat :=
  match o.dst with
  | .vec d n _ | .old d n => (List.range (max 1 (n / 4))).map (d + ·)
  | _ => []
/-- Uniform registers that an outstanding operation will write. -/
def LoadOp.uregs (o : LoadOp) : List Nat := match o.dst with | .uni d _ => [d] | _ => []

/-- Whether the registers are all free of results still to be written (R63). -/
def Group.regsFree (g : Group) (vs us : List Nat) : Bool :=
  g.ops.all fun o => (o.vregs.all fun r => !vs.contains r) && (o.uregs.all fun r => !us.contains r)

/-- Whether the path's fence holds (R193): its stores accepted, its host writes acknowledged, its loads returned. -/
def Ctx.fenced (x : Ctx) (s : State) : Bool :=
  match x.p.fence with
  | none => true
  | some f =>
    (f.scope == 0) ||
    (x.g.ops.isEmpty && (f.stores.all fun i => !(x.c.sb.any fun e => e.id == i)) && (f.ext.all fun i => !s.unacked.contains i))

/-- The vector register that a waiting pop of a group will write (R63, R379). -/
def State.heldV (s : State) (core slot : Nat) : List Nat :=
  NMap.foldV s.queues [] fun l _ q => l ++ q.waits.filterMap fun w => match w.who with
    | .path c g _ data _ _ _ => if c = core ∧ g = slot ∧ w.pop ≠ 0 then some data else none
    | _ => none
/-- The status registers that waiting queue operations of a group and its remote pushes will write (R63, R94, R413). -/
def State.heldU (s : State) (core slot : Nat) : List Nat :=
  (NMap.foldV s.queues [] fun l _ q => l ++ q.waits.filterMap fun w => match w.who with
    | .path c g _ _ qs _ _ => if c = core ∧ g = slot then some qs else none
    | _ => none) ++
  s.remotes.filterMap fun r => match r.kind with
    | .push c g => if c = core ∧ g = slot then some (r.pkt.key / 8) else none
    | _ => none

/-- Whether an operation still reads host memory, which may refuse it: fault 0x06 is precise, so the group issues nothing meanwhile
(R99, R439). -/
def LoadOp.onHost (o : LoadOp) : Bool := o.wait.any fun x => decide (2 ^ 55 ≤ x)

/-- Whether the group can issue an instruction that names these registers (R35, R43, R63). -/
def Ctx.ready (x : Ctx) (s : State) (vs us : List Nat) : Bool :=
  !x.b.saving && decide (x.p.wait = Wait.run) && !x.g.switchDue && x.fenced s && x.g.regsFree vs us &&
  !(x.g.ops.any LoadOp.onHost) &&
  ((s.heldV x.core x.slot).all fun r => !vs.contains r) && (s.heldU x.core x.slot).all fun r => !us.contains r

/-- Outcome of the effect of an instruction: done with the path moving on, done with the paths already set, not ready, or a
program fault. -/
inductive Eff where
  | go (s : State)
  | jump (s : State)
  | stall
  | fault (f : FaultInfo)
deriving DecidableEq, Repr

/-- After an instruction that does not set the program counter: the current path moves to the next word, and joins its point where it
has reached it (R40). -/
def Group.advance (g : Group) : Group :=
  match g.path? g.cur with
  | some p => Group.arrive 32 (g.putPath g.cur { p with pc := (p.pc + 8) % 2 ^ 48 }) g.cur
  | none => g

/-- The lanes of the current path in which the guard is true (R68). -/
def Ctx.guarded (x : Ctx) (h : Hdr) : W32 :=
  if h.pg then (if h.pn then ~~~(x.g.pred h.pq.toNat) else x.g.pred h.pq.toNat) &&& x.p.mask else x.p.mask

/-- Issues one instruction at a place (R35, R52, R63, R64, R67): `legal` judges the word, `vs` and `us` are the vector and uniform
registers it names. Where no group is resident or none of its paths is current, nothing issues. The instruction counts in the turn
of the path that issues it, before a switch that it causes (R43). An illegal word raises 0x01 before its registers are held against
V, and the faults of a whole word, 0x01 and 0x10, name every active lane (log 66). -/
def issue (x : Site) (legal : Bool) (vs us : List Nat) (h : Hdr) (eff : Ctx → State → Eff) (s : State) :
    Host.Outcome State Fault Refusal :=
  match s.ctx? x with
  | none => .next s
  | some c =>
    if !c.ready s vs us then .next s
    else if (s.translate c.b.slice c.p.pc).isNone then .next (s.programFault c.core c.slot { code := 0x10, lanes := c.p.mask })
    else if !legal then .next (s.programFault c.core c.slot { code := 0x01, lanes := c.p.mask })
    else if (vs.any fun r => decide (c.b.v ≤ r)) && c.guarded h != 0 then
      .next (s.programFault c.core c.slot { code := 0x02, lanes := c.guarded h })
    else
    let g := { c.g.putPath c.g.cur { c.p with fence := none } with turn := c.g.turn + 1 }
    match eff { c with g := g, p := { c.p with fence := none } } (s.putGroup c.core c.slot g) with
      | .go s => .next (s.updGroup c.core c.slot Group.advance)
      | .jump s => .next s
      | .stall => .next s
      | .fault f => .next (s.programFault c.core c.slot f)

/-- An instruction that changes only its own group. -/
def groupEff (f : Ctx → Group) (c : Ctx) (s : State) : Eff := .go (s.putGroup c.core c.slot (f c))

end Sys2Proof.Machine
end

