-- ==== Sys2Proof/Machine/Operands.lean ====
section
/-! DEFINITION. Operand forms of the vector formats: types, register names, operand b, element access, legality (R61, R62,
R67, R69, R71, R72, R76, R119). -/

namespace Sys2Proof

open Machine

/-- A word is legal in its header: reserved bits 0, and PN and PQ 0 where the guard is not enabled (R67). -/
def Hdr.ok (h : Hdr) : Bool := h.res == 0 && (h.pg || (!h.pn && h.pq == 0))
/-- A word that must have PG = 0 (R68). -/
def Hdr.unguarded (h : Hdr) : Bool := h.res == 0 && !h.pg && !h.pn && h.pq == 0

/-- Vector types (R71): integer, 64-bit, signed. -/
def tyInt (t : Nat) : Bool := t == 0 || t == 1 || t == 12 || t == 13
def tyWide (t : Nat) : Bool := t == 12 || t == 13
def tySigned (t : Nat) : Bool := t == 1 || t == 13
def tyBits (t : Nat) : Nat := if tyWide t then 64 else 32

/-- The element format of a type and its elements per lane; none where reserved (R71). -/
def tyElem : Nat → Option (Num.Fmt × Nat)
  | 0 => some (.u32, 1) | 1 => some (.s32, 1) | 2 => some (.f32, 1) | 3 => some (.bf16, 2) | 4 => some (.f16, 2)
  | 5 => some (.e4m3, 4) | 6 => some (.e5m2, 4) | 7 => some (.e3m2, 4) | 8 => some (.e2m3, 4) | 9 => some (.e2m1, 8)
  | 10 => some (.s8, 4) | 11 => some (.s4, 8) | 12 => some (.u64, 1) | 13 => some (.s64, 1)
  | _ => none

/-- Bits that one element takes in a lane: e3m2x4 and e2m3x4 hold each element in a byte (R71). -/
def slotBits (n w : Nat) : Nat := if n = 1 then w else 32 / n

/-- Registers that a register name covers under a type (R61). -/
def regsOf (t r : Nat) : List Nat := if tyWide t then [r, r + 1] else [r]
/-- Alignment of a pair (R61). -/
def pairOk (t r : Nat) : Bool := !tyWide t || r % 2 == 0

/-- One lane's value of a register or pair. -/
def Machine.Group.lane (g : Group) (t r l : Nat) : Nat := if tyWide t then (g.vpair r l).toNat else (g.vreg r l).toNat
/-- Writes one lane's value. -/
def Machine.Group.putLane (g : Group) (t r l x : Nat) : Group :=
  if tyWide t then g.setPair r l (BitVec.ofNat 64 x) else g.setV r l (BitVec.ofNat 32 x)
/-- Writes the lanes of a mask. -/
def Machine.Group.mapLane (g : Group) (t r : Nat) (m : W32) (f : Nat → Nat) : Group :=
  (lanes.filter (inMask m)).foldl (fun g l => g.putLane t r l (f l)) g

/-- Operand b of a VV word in a lane: a vector register, or a uniform register's low bits (R62). -/
def VV.bLane (w : VV) (g : Group) (l : Nat) : Nat :=
  if w.ub then (g.ureg (w.b.toNat % 64)).toNat % 2 ^ tyBits w.ty.toNat else g.lane w.ty.toNat w.b.toNat l

/-- The immediate of a VI word: sign-extended for integers, the upper 24 bits of an F32 otherwise (R69). -/
def VI.immVal (w : VI) : Nat :=
  if w.ty.toNat = 2 then w.imm.toNat * 256 else wrap (tyBits w.ty.toNat) w.imm.toInt

/-- Which operands an operation uses. -/
structure Uses where
  b : Bool := true
  c : Bool := false
  sat : Bool := false
  vi : Bool := false
deriving DecidableEq, Repr

/-- Vector registers a VV word names. -/
def VV.regs (w : VV) (u : Uses) (dst : Bool) : List Nat :=
  let t := w.ty.toNat
  (if dst then regsOf t w.dst.toNat else []) ++ regsOf t w.a.toNat ++ (if u.b && !w.ub then regsOf t w.b.toNat else []) ++
  (if u.c then regsOf t w.c.toNat else [])
/-- Uniform registers a VV word names. -/
def VV.uregs (w : VV) : List Nat := if w.ub then [w.b.toNat] else []

/-- Legality of operand b (R67, R69). -/
def VV.bOk (w : VV) (u : Uses) : Bool :=
  if u.b then (if w.ub then decide (w.b.toNat < 64) else pairOk w.ty.toNat w.b.toNat) else w.b == 0 && !w.ub

/-- Legality of an integer VV word (R67, R72, R73, R76, R119). `dst` says the destination is a vector register. -/
def VV.intOk (w : VV) (u : Uses) (dst : Bool) : Bool :=
  w.h.ok && tyInt w.ty.toNat && w.rnd == 0 && !w.na && !w.nc && !w.aa && (u.sat || !w.sat) && w.bOk u &&
  pairOk w.ty.toNat w.a.toNat && (!dst || pairOk w.ty.toNat w.dst.toNat) && (!u.c || pairOk w.ty.toNat w.c.toNat)

/-- Legality of an integer VI word (R67, R70). -/
def VI.intOk (w : VI) (u : Uses) (dst : Bool) : Bool :=
  u.vi && w.h.ok && tyInt w.ty.toNat && pairOk w.ty.toNat w.a.toNat && (!dst || pairOk w.ty.toNat w.dst.toNat)

/-- Registers of a VI word. -/
def VI.regs (w : VI) (dst : Bool) : List Nat :=
  (if dst then regsOf w.ty.toNat w.dst.toNat else []) ++ regsOf w.ty.toNat w.a.toNat

/-- An integer operation on lanes: `f` takes the width, signedness, SAT, and operands a, b, c (R73). -/
def intOp (u : Uses) (f : Nat → Bool → Bool → Nat → Nat → Nat → Nat) (x : Site) (w : VForm) (s : State) :
    Host.Outcome State Fault Refusal :=
  match w with
  | .vv w =>
    let t := w.ty.toNat
    issue x (w.intOk u true && (u.c || w.c == 0)) (w.regs u true) w.uregs w.h (groupEff fun c =>
      c.g.mapLane t w.dst.toNat (c.guarded w.h) fun l =>
        f (tyBits t) (tySigned t) w.sat (c.g.lane t w.a.toNat l) (if u.b then w.bLane c.g l else 0) (if u.c then c.g.lane t w.c.toNat l else 0)) s
  | .vi w =>
    let t := w.ty.toNat
    issue x (w.intOk u true) (w.regs true) [] w.h (groupEff fun c =>
      c.g.mapLane t w.dst.toNat (c.guarded w.h) fun l =>
        f (tyBits t) (tySigned t) false (c.g.lane t w.a.toNat l) w.immVal 0) s

/-- Elements of a lane's 32-bit register in a packed type. -/
def elemAt (n w v i : Nat) : Nat := bits v (slotBits n w * i) w
/-- Packs elements into a lane. -/
def packElems (n w : Nat) (xs : List Nat) : Nat := ((List.range n).zip xs).foldl (fun v ix => v + ix.2 % 2 ^ w * 2 ^ (slotBits n w * ix.1)) 0

/-- Float types of the vector operations: f32, bf16x2, f16x2 (R72). -/
def tyFloat (t : Nat) : Bool := t == 2 || t == 3 || t == 4
/-- Format and element count of a float type. -/
def floatFmt (t : Nat) : Num.Fmt × Nat := if t = 2 then (.f32, 1) else if t = 3 then (.bf16, 2) else (.f16, 2)

/-- Which modifiers a float operation takes (R76, R116, R119). -/
structure FUses where
  b : Bool := true
  c : Bool := false
  sat : Bool := true
  rnd : Nat := 4
  nc : Bool := false
  vi : Bool := false
deriving DecidableEq, Repr

/-- Legality of a float VV word. -/
def VV.floatOk (w : VV) (u : FUses) : Bool :=
  w.h.ok && tyFloat w.ty.toNat && decide (w.rnd.toNat ≤ u.rnd) && (u.nc || !w.nc) && (u.sat || !w.sat) &&
  w.bOk { b := u.b }
/-- Legality of a float VI word: f32 only (R70). -/
def VI.floatOk (w : VI) (u : FUses) : Bool := u.vi && w.h.ok && w.ty == 2

/-- Operand a after AA and NA (R76). -/
def VV.modA (w : VV) (v : Num.Val) : Num.Val :=
  let v := if w.aa then v.abs else v
  if w.na then v.negate else v

/-- The random source of a lane's element: seed, place of the instruction and of the group (R115). -/
def Machine.Ctx.seed (c : Ctx) : Num.Seed :=
  { seed := c.b.seed.toNat, inst := c.b.taskNo.toNat, ofs := (c.p.pc + 2 ^ 48 - c.b.code) % 2 ^ 48 / 8, blk := c.b.index, grp := c.g.index }

/-- A float operation on every element of every lane: `f` takes format, rounding mode, SAT, the random source and the
values a, b, c, and gives a pattern. -/
def floatOp (u : FUses) (f : Num.Fmt → Nat → Bool → (Nat → Nat → Nat) → Num.Val → Num.Val → Num.Val → Nat)
    (x : Site) (w : VForm) (s : State) : Host.Outcome State Fault Refusal :=
  match w with
  | .vv w =>
    let (fm, n) := floatFmt w.ty.toNat
    issue x (w.floatOk u && (u.c || w.c == 0)) ([w.dst.toNat, w.a.toNat] ++ (if u.b && !w.ub then [w.b.toNat] else []) ++ (if u.c then [w.c.toNat] else []))
      w.uregs w.h (groupEff fun c =>
      c.g.mapLane 0 w.dst.toNat (c.guarded w.h) fun l =>
        packElems n fm.width ((List.range n).map fun i =>
          let e v := Num.decode fm (elemAt n fm.width v i)
          let cv := e (c.g.lane 0 w.c.toNat l)
          f fm w.rnd.toNat w.sat (Num.random16 c.seed l i) (w.modA (e (c.g.lane 0 w.a.toNat l)))
            (e (if u.b then w.bLane c.g l else 0)) (if w.nc then cv.negate else cv))) s
  | .vi w =>
    issue x (w.floatOk u) [w.dst.toNat, w.a.toNat] [] w.h (groupEff fun c =>
      c.g.mapLane 0 w.dst.toNat (c.guarded w.h) fun l =>
        f .f32 0 false (Num.random16 c.seed l 0) (Num.decode .f32 (c.g.lane 0 w.a.toNat l)) (Num.decode .f32 w.immVal) (Num.decode .f32 0)) s

end Sys2Proof
end

