-- ==== Sys2Proof/Machine/Control.lean ====
section
/-! DEFINITION. Branches, calls, returns, exit, barriers, waits, fences, special registers, traps, and path switches
(R37 to R50, R79 to R82, R93, R96, R97, R193). -/

namespace Sys2Proof.Machine

/-- A branch offset of `w` bits counted in instructions from `pc` (R64). -/
def target (pc : Nat) {n : Nat} (ofs : BitVec n) : Nat := wrap 48 ((pc : Int) + 8 * ofs.toInt)

/-- Sets the loop flag when a path takes a branch to an address not above its own (R43). -/
def Group.backward (g : Group) (pc tgt : Nat) : Group := if tgt ≤ pc then { g with loop := true } else g

/-- A conditional branch: `taken` are the lanes that branch (R37, R39). -/
def branchEff (taken : W32) (tgt rcv : Nat) (c : Ctx) (s : State) : Eff :=
  let t := taken &&& c.p.mask
  if t = 0 then .go s
  else if t = c.p.mask then
    let g := (c.g.putPath c.g.cur { c.p with pc := tgt }).backward c.p.pc tgt
    .jump (s.putGroup c.core c.slot (Group.arrive 32 g c.g.cur))
  else
    match c.g.split rcv ((c.p.pc + 8) % 2 ^ 48, c.p.mask &&& ~~~t) [(tgt, t)] with
    | some g => .jump (s.putGroup c.core c.slot g)
    | none => .fault { code := 0x0A, lanes := c.p.mask }

def execBra (x : Site) (w : BF) (s : State) : Host.Outcome State Fault Refusal :=
  issue x (w.h.ok && (w.h.pg || w.rcv == 0)) [] [] w.h (fun c s =>
    branchEff (c.guarded w.h) (target c.p.pc w.tgt) (target c.p.pc w.rcv) c s) s

/-- bra.cc: compares v[A] with the sign-extended immediate, signed or unsigned (R79). -/
def execBraCc (x : Site) (w : CF) (s : State) : Host.Outcome State Fault Refusal :=
  issue x (w.h.unguarded && decide (w.cc.toNat < 6)) [w.a.toNat] [] w.h (fun c s =>
    branchEff (maskOf fun l => intCond w.cc.toNat (asInt (!w.un) 32 (c.g.vreg w.a.toNat l).toNat)
      (asInt (!w.un) 32 (wrap 32 w.imm.toInt))) (target c.p.pc w.tgt) (target c.p.pc w.rcv) c s) s

/-- Inserts a lane under its target, targets ascending. -/
def addTarget (t l : Nat) : List (Nat × W32) → List (Nat × W32)
  | [] => [(t, 1#32 <<< l)]
  | (a, m) :: r => if t = a then (a, m ||| (1#32 <<< l)) :: r else if t < a then (t, 1#32 <<< l) :: (a, m) :: r else (a, m) :: addTarget t l r

/-- A transfer to per-lane targets: one path per distinct target, the lowest continuing as current (R38, R42, R80, R81). -/
def indirectEff (tgt : Nat → Nat) (rcv : Nat) (c : Ctx) (s : State) : Eff :=
  match (lanes.filter (inMask c.p.mask)).foldl (fun a l => addTarget (tgt l) l a) [] with
  | [] => .go s
  | [(t, _)] =>
    let g := (c.g.putPath c.g.cur { c.p with pc := t }).backward c.p.pc t
    .jump (s.putGroup c.core c.slot (Group.arrive 32 g c.g.cur))
  | stay :: rest =>
    match c.g.split rcv stay rest with
    | some g => .jump (s.putGroup c.core c.slot (if g.cur = c.g.cur then g.backward c.p.pc stay.1 else g))
    | none => .fault { code := 0x0A, lanes := c.p.mask }

/-- Address of an unsigned instruction index from the code address (R80). -/
def Ctx.index (c : Ctx) (i : W32) : Nat := (c.b.code + 8 * i.toNat) % 2 ^ 48

def execBraInd (x : Site) (w : BF) (s : State) : Host.Outcome State Fault Refusal :=
  issue x (w.h.unguarded && w.ctgt == 0) [w.lnk.toNat] [] w.h (fun c s =>
    indirectEff (fun l => c.index (c.g.vreg w.lnk.toNat l)) (target c.p.pc w.rcv) c s) s

/-- call: return and reconvergence indices into a register pair, then the transfer (R81). -/
def execCall (x : Site) (w : BF) (s : State) : Host.Outcome State Fault Refusal :=
  issue x (w.h.unguarded && w.lnk.toNat % 2 == 0) [w.lnk.toNat, w.lnk.toNat + 1] [] w.h (fun c s =>
    let tgt := target c.p.pc w.ctgt
    let ix (a : Nat) : W32 := BitVec.ofNat 32 (wrap 48 ((a : Int) - c.b.code) / 8)
    let g := (c.g.mapV w.lnk.toNat c.p.mask fun _ => ix (c.p.pc + 8)).mapV (w.lnk.toNat + 1) c.p.mask fun _ => ix (target c.p.pc w.rcv)
    let g := (g.putPath g.cur { c.p with pc := tgt }).backward c.p.pc tgt
    .jump (s.putGroup c.core c.slot (Group.arrive 32 g g.cur))) s

/-- ret: each lane to the index in v[LNK]; the reconvergence index is read from the lowest active lane (R81). -/
def execRet (x : Site) (w : BF) (s : State) : Host.Outcome State Fault Refusal :=
  issue x (w.h.unguarded && w.ctgt == 0 && w.rcv == 0 && w.lnk.toNat % 2 == 0) [w.lnk.toNat, w.lnk.toNat + 1] [] w.h (fun c s =>
    indirectEff (fun l => c.index (c.g.vreg w.lnk.toNat l)) (c.index (c.g.vreg (w.lnk.toNat + 1) (lowestLane c.p.mask))) c s) s

/-- Legality of a format S word without a guard and with ARG below a bound. -/
def SFok (w : SF) (lim : Nat) : Bool := w.res == 0 && decide (w.arg.toNat < lim)

def execNop (x : Site) (w : SF) (s : State) : Host.Outcome State Fault Refusal :=
  issue x (w.h.ok && SFok w 1) [] [] w.h (groupEff fun c => c.g) s

/-- A path that waits becomes runnable (R44): it is the newest runnable path, and joins its point where it has reached it. -/
def Group.wake (g : Group) (e : Nat) : Group :=
  match g.path? e with
  | some p => (Group.arrive 32 { g.putPath e { p with wait := .run, since := g.clock } with clock := g.clock + 1 } e).wakeCur
  | none => g

/-- Whether every lane of the block has arrived at a barrier or exited (R47, R48). -/
def State.barrierDone (s : State) (core bs n : Nat) : Bool :=
  (s.core core).groups.all fun sg => sg.2.block != bs ||
    (match NMap.find? (s.core core).blocks bs with
     | some b => (NMap.get 0 b.arrive (32 * n + sg.2.index)) ||| sg.2.exited == allLanes
     | none => false)

/-- Completes a barrier whose lanes have all arrived: each waiting path resumes where it waited. -/
def State.barrier (s : State) (core bs n : Nat) : State :=
  match NMap.find? (s.core core).blocks bs with
  | none => s
  | some b =>
    let some? := (s.core core).groups.any fun sg => sg.2.block == bs && (List.range 32).any fun e =>
      match sg.2.path? e with | some p => p.wait == Wait.barrier n | none => false
    if some? && s.barrierDone core bs n then
      let s := s.putBlock core bs { b with arrive := NMap.clear b.arrive (32 * n) (32 * n + 32) }
      (s.core core).groups.foldl (fun s sg =>
        if sg.2.block = bs then
          s.updGroup core sg.1 fun g => (List.range 32).foldl (fun g e =>
            match g.path? e with
            | some p => if p.wait = Wait.barrier n then g.wake e else g
            | none => g) g
        else s) s
    else s

/-- exit: the active lanes leave every mask (R41); a barrier may complete by it (R48). -/
def execExit (x : Site) (w : SF) (s : State) : Host.Outcome State Fault Refusal :=
  issue x (w.h.unguarded && SFok w 1) [] [] w.h (fun c s =>
    let s := s.putGroup c.core c.slot (c.g.exitLanes c.p.mask)
    .jump ((List.range 16).foldl (fun s n => s.barrier c.core c.g.block n) s)) s

/-- bar.b: once the group's outstanding accesses have returned, so that they happen before what follows the barrier (R194), the lanes
arrive, the path waits past the instruction, and the group switches (R44, R47). -/
def execBarB (x : Site) (w : SF) (s : State) : Host.Outcome State Fault Refusal :=
  issue x (w.h.unguarded && SFok w 16) [] [] w.h (fun c s =>
    let n := w.arg.toNat
    let b := { c.b with arrive := NMap.upd 0 c.b.arrive (32 * n + c.g.index) fun m => m ||| c.p.mask }
    let g := (c.g.putPath c.g.cur { c.p with pc := (c.p.pc + 8) % 2 ^ 48, wait := .barrier n }).switch
    if !c.g.ops.isEmpty then .stall else
    .jump (((s.putBlock c.core c.g.block b).putGroup c.core c.slot g).barrier c.core c.g.block n)) s

/-- The lowest failed token of a mask. -/
def Group.firstFailed (g : Group) (m : BitVec 16) : Option TokErr :=
  ((List.range 16).filter m.getLsbD).findSome? fun k => match g.token k with | .failed e => some e | _ => none
/-- Failed tokens of a mask become complete (R90, R93). -/
def Group.clearFailed (g : Group) (m : BitVec 16) : Group :=
  ((List.range 16).filter m.getLsbD).foldl (fun g k => match g.token k with | .failed _ => g.setToken k .complete | _ => g) g
/-- Whether every token of a mask is complete or failed. -/
def Group.settled (g : Group) (m : BitVec 16) : Bool :=
  ((List.range 16).filter m.getLsbD).all fun k => g.token k != .pending

/-- The fault of a failed asynchronous operation for the lanes of a path: the unit's error code, with the Campion error code of mover error
0x08 in bits [15:8] of the field; the address and the number of the failing row (R93, R232; log 66). -/
def tokFault (m : W32) (e : TokErr) : FaultInfo :=
  { code := 0x0E, lanes := m, addr := e.addr, unit := e.code + 256 * e.campion, row := e.row }

/-- The fault of a failed token: the failed tokens of the mask become complete (R90, R93). -/
def failTokens (c : Ctx) (s : State) (m : BitVec 16) (e : TokErr) : Eff :=
  .jump ((s.putGroup c.core c.slot (c.g.clearFailed m)).programFault c.core c.slot (tokFault c.p.mask e))

/-- wait: goes on when every token is complete, faults when one failed, else the path waits at the instruction (R44, R93). -/
def execWait (x : Site) (w : SF) (s : State) : Host.Outcome State Fault Refusal :=
  issue x (w.h.unguarded && w.res == 0) [] [] w.h (fun c s =>
    if c.g.settled w.arg then
      match c.g.firstFailed w.arg with
      | none => .go s
      | some e => failTokens c s w.arg e
    else .jump (s.putGroup c.core c.slot (c.g.putPath c.g.cur { c.p with wait := .tokens w.arg }).switch)) s

/-- fence: the path's next instruction issues once the fence's conditions hold (R193). -/
def execFence (x : Site) (w : SF) (s : State) : Host.Outcome State Fault Refusal :=
  issue x (w.h.unguarded && SFok w 4) [] [] w.h (groupEff fun c =>
    let sc := w.arg.toNat
    let f : Fence := ⟨sc, if 2 ≤ sc then c.c.sb.map (·.id) else [], if sc = 3 then s.unacked else []⟩
    c.g.putPath c.g.cur { c.p with fence := some f }) s

/-- The value of a special register: selector, lane (R97). -/
def Ctx.special (c : Ctx) (s : State) (sel l : Nat) : W64 :=
  match sel with
  | 0 => BitVec.ofNat 64 l
  | 1 => BitVec.ofNat 64 (s.cycles c.core)
  | 2 => s.time
  | 3 => BitVec.ofNat 64 (s.coreRank c.b.slice c.core)
  | 4 => BitVec.ofNat 64 (s.fld (aPwrHalf (c.core / 32)) 0 11)
  | 5 => BitVec.ofNat 64 (s.gen c.b.slice)
  | 6 => c.b.taskNo
  | _ => c.p.mask.zeroExtend 64

/-- sreg: ARG holds the destination, its class in [8] and the selector in [15:12] (R69, R97). -/
def execSreg (x : Site) (w : SF) (s : State) : Host.Outcome State Fault Refusal :=
  let d := w.arg.toNat % 256
  let uni := bit w.arg.toNat 8
  let sel := bits w.arg.toNat 12 4
  let wide := sel == 1 || sel == 2 || sel == 6
  let legal := w.res == 0 && bits w.arg.toNat 9 3 == 0 && decide (sel < 8) &&
    (if uni then w.h.unguarded && decide (d < 64) && sel != 0 else w.h.ok && (!wide || d % 2 == 0))
  issue x legal (if uni then [] else if wide then [d, d + 1] else [d]) (if uni then [d] else []) w.h (fun c s =>
    groupEff (fun c =>
      if uni then c.g.setU d (c.special s sel 0)
      else if wide then c.g.mapPair d (c.guarded w.h) (c.special s sel)
      else c.g.mapV d (c.guarded w.h) fun l => (c.special s sel l).truncate 32) c s) s

/-- trap: the program fault with the 16-bit code; lanes whose guard is false raise none (R68, R82). A word with a reserved FMT or an
unlisted OP raises 0x01 (R67, R70); one that is an instruction does not issue here. -/
def execTrap (x : Site) (w : TrapWord) (s : State) : Host.Outcome State Fault Refusal :=
  match w with
  | .word w =>
    issue x (w.h.ok && w.res == 0) [] [] w.h (fun c s =>
      if c.guarded w.h = 0 then .go s else .fault { code := 0x11, lanes := c.guarded w.h, unit := w.arg.toNat }) s
  | .illegal v => if (decodeLamiz x v).isSome then .next s else issue x false [] [] ⟨false, false, 0, 0⟩ (fun _ s => .go s) s

/-- tok.test: whether a token is complete, into the predicate of every lane of the group, whichever path it follows; a guard leaves out
the lanes in which it is false (R68, R93). -/
def execTokTest (x : Site) (w : SF) (s : State) : Host.Outcome State Fault Refusal :=
  issue x (w.h.ok && SFok w 128) [] [] w.h (groupEff fun c =>
    c.g.setPred (w.arg.toNat / 16) (if w.h.pg then (if w.h.pn then ~~~(c.g.pred w.h.pq.toNat) else c.g.pred w.h.pq.toNat) else allLanes) (if c.g.token (w.arg.toNat % 16) = .complete then allLanes else 0)) s

/-- The switch of R43 at the boundary after an issued instruction; nothing where it is not due. -/
def execPathSwitch (x : Site) (s : State) : Host.Outcome State Fault Refusal :=
  match NMap.find? (s.core x.core).groups x.slot with
  | none => .next s
  | some g => if g.switchDue then .next (s.putGroup x.core x.slot g.switch) else .next s

/-- Paths of a group whose wait on tokens has ended: each faults where a token failed, else goes on past its wait (R93). -/
def State.wakeTokens (s : State) (core slot : Nat) : State :=
  match NMap.find? (s.core core).groups slot with
  | none => s
  | some g => (List.range 32).foldl (fun s e =>
      match NMap.find? (s.core core).groups slot with
      | none => s
      | some g =>
        match g.path? e with
        | some p =>
          match p.wait with
          | .tokens m =>
            if g.settled m then
              match g.firstFailed m with
              | some t =>
                let g := (g.clearFailed m).putPath e { p with wait := .run }
                (s.putGroup core slot { g with cur := e }).programFault core slot (tokFault p.mask t)
              | none => s.putGroup core slot ((g.putPath e { p with pc := (p.pc + 8) % 2 ^ 48 }).wake e)
            else s
          | _ => s
        | none => s) (s.putGroup core slot g)

end Sys2Proof.Machine
end

