-- ==== Sys2Proof/Machine/MemInstr.lean ====
section
/-! DEFINITION. Loads, stores, atomics and in-cache reductions at issue, and the return of a load (R83 to R89, R99, R184 to
R206, R215, R289). -/

namespace Sys2Proof.Machine

/-- Access bytes of SIZE (R69). -/
def sizeBytes : Nat → Nat
  | 0 | 5 => 1 | 1 | 6 => 2 | 2 => 4 | 3 => 8 | _ => 16

/-- Host memory is kept apart from physical addresses by its port. -/
def hostKey (port a : Nat) : Nat := 2 ^ 60 * (1 + port) + a

/-- Where a lane's address leads, or the program fault it meets (R84, R285). -/
inductive Place where
  | bad (code : Nat)
  /-- A physical address that no node backs (R285). -/
  | unbacked (pa : Nat)
  | loc (a : Nat)
  | mem (pa : Nat) (p : Page)
  | scr (pa : Nat)
  | host (port a : Nat) (p : Page)
deriving DecidableEq, Repr

/-- The check of one address (R84): alignment, range or translation, permission for a write. -/
def Ctx.locate (c : Ctx) (s : State) (space size a : Nat) (wr : Bool) : Place :=
  if a % size ≠ 0 then .bad 0x05
  else if space = 0 then (if a < c.b.l * 1024 then .loc a else .bad 0x03)
  else if space = 2 then (match s.scratchPa c.b.slice a with | some pa => .scr pa | none => .bad 0x06)
  else match s.translate c.b.slice a with
    | none => .bad 0x06
    | some (.mem pa p) => if wr && p.ro then .bad 0x07 else if (s.place pa).isNone then .unbacked pa else .mem pa p
    | some (.host port ha p) => if wr && p.ro then .bad 0x07 else .host port ha p

/-- The address of a lane (R83). -/
def laneAddr (space : Nat) (base : W64) (part : Nat) (ofs : Int) : Nat :=
  if space = 0 then wrap 32 ((base.toNat : Int) + part + ofs) else wrap 48 ((base.toNat : Int) + part + ofs)

/-- The fault of an instruction whose lanes meet fault conditions: the code and address of the lowest such lane (R100). -/
def placeFault (ps : List (Nat × Nat × Place)) : Option FaultInfo :=
  match ps.filter fun x => match x.2.2 with | .bad _ | .unbacked _ => true | _ => false with
  | (l, a, p) :: r =>
    some { code := match p with | .bad k => k | _ => 0x06, lanes := maskOf fun i => i == l || r.any fun x => x.1 == i, addr := a
           unbacked := match p with | .unbacked pa => some pa | _ => none }
  | [] => none

/-- Addresses of the guarded lanes of a format M word. -/
def Ctx.mAddrs (c : Ctx) (s : State) (w : MF) (wr : Bool) : List (Nat × Nat × Place) :=
  let n := sizeBytes w.size.toNat
  (lanes.filter (inMask (c.guarded w.h))).map fun l =>
    let a := laneAddr w.space.toNat (c.g.ureg w.base.toNat) (if w.ua then 0 else (c.g.vreg w.addr.toNat l).toNat) (w.ofs.toInt * n)
    (l, a, c.locate s w.space.toNat n a wr)

/-- Registers of DATA under SIZE (R61). -/
def dataRegs (r n : Nat) : List Nat := (List.range (max 1 (n / 4))).map (r + ·)

/-- Legality common to loads and stores of format M (R67, R69, R85, R86, R87). -/
def MFok (w : MF) (load : Bool) : Bool :=
  w.space != 3 && w.size != 7 && (load || decide (w.size.toNat ≤ 4)) && w.sem != 3 && (w.sem != 1 || load) && (w.sem != 2 || !load) &&
  (w.space != 0 || w.hint == 0) && (w.hint != 2 || (load && w.space == 1)) && (!w.ua || w.addr == 0)

/-- Physical key of a place: local addresses have none. -/
def Place.key : Place → Option Nat
  | .mem pa _ | .scr pa => some pa
  | .host port a _ => some (hostKey port a)
  | _ => none

/-- The page attributes of a place. -/
def Place.attr : Place → Nat × Nat × Bool × Option Nat
  | .mem _ p => (p.cls, p.policy, p.ro, if p.ro then some (p.object.getD 65536) else none)
  | .host _ _ p => (p.cls, p.policy, p.ro, none)
  | _ => (3, 0, false, none)

/-- The byte that the store buffer of the core holds for a key, the latest store first (R185). -/
def Core.buffered (c : Core) (k : Nat) : Option Byte :=
  (c.sb.reverse.findSome? fun e => if e.sector = k / 32 then ((e.bytes.reverse.find? fun b => b.1 = k % 32).map (·.2)) else none)

/-- Whether the core's buffer holds a contribution to a line, whose value the core does not know: its loads, atomics and movers wait until
the reduction point has taken it, which keeps every thread's order by byte (R184, R185, R192). -/
def Core.redHeld (c : Core) (line : Nat) : Bool := c.sb.any fun e => e.red && e.sector / 4 == line

/-- Whether an outstanding operation of the group awaits a sector (R184). -/
def Group.awaits (g : Group) (sec : Nat) : Bool := g.ops.any fun o => o.wait.contains sec

/-- Sends the read requests of an operation: fine bursts, host reads, scratch and LLM reads by line (R86, R240, R250, R288). -/
def State.sendReads (s : State) (core slot op slice : Nat) (fine : Bool) (near : List Nat) (hint : Nat) (ps : List Place) (secs : List Nat) : State :=
  let at_ (line : Nat) : Option Place := ps.find? fun p => match p.key with | some k => k / 128 == line | none => false
  ((secs.map (· / 4)).eraseDups).foldl (fun s line =>
    let mine := secs.filter fun x => x / 4 == line
    let mask : BitVec 4 := mine.foldl (fun m x => m ||| (1#4 <<< (x % 4))) 0
    match at_ line with
    | some (.host port a _) =>
      { s with hostReads := s.hostReads ++ mine.map fun x => ⟨op, .load core slot op, slice, s.gen slice, port, a / 128 * 128 + 32 * (x % 4), 32⟩ }
    | some (.scr _) =>
      { s with flight := { s.flight with scr := s.flight.scr ++ [⟨.load core slot op, slice, line, .read mask⟩] } }
    | some p =>
      let (cls, pol, ro, _) := p.attr
      if fine then mine.foldl (fun s x => s.send (.rdfine ⟨(s.homeNode line).getD 0, .fine core slot op, 0, line⟩ (x % 4))) s
      else { s with flight := { s.flight with llm := s.flight.llm ++ [⟨core / 32, .load core slot op, slice, cls, hint, pol, ro, line, .read (if near.contains line then 15#4 else mask)⟩] } }
    | none => s) s

/-- The wait of a release: the path's loads have returned, and at device or system scope the core's stores are accepted
(R189, R191; log 17). -/
def Ctx.released (c : Ctx) (s : State) (sem scope : Nat) : Bool :=
  sem < 2 || (c.g.ops.isEmpty && (scope < 2 || c.c.sb.isEmpty) && (scope < 3 || s.unacked.isEmpty))

/-- An acquire holds back the path's later operations until its reads have returned (R189, R191). -/
def Group.acquire (g : Group) (acq : Bool) : Group :=
  if acq then
    match g.path? g.cur with
    | some p => g.putPath g.cur { p with fence := some ⟨1, [], []⟩ }
    | none => g
  else g

/-- A value of a load, zero- or sign-extended (R85). -/
def extend (n : Nat) (sx : Bool) (v : Nat) : Nat := if sx then wrap 32 (sext (8 * n) v) else v

/-- Writes a loaded value of `n` bytes into a lane's registers. -/
def Group.putData (g : Group) (r n : Nat) (sx : Bool) (l v : Nat) : Group :=
  (List.range (max 1 (n / 4))).foldl (fun g i => g.setV (r + i) l (BitVec.ofNat 32 (bits (extend n sx v) (32 * i) 32))) g

/-- The value of DATA in a lane. -/
def Group.getData (g : Group) (r n l : Nat) : Nat :=
  ((List.range (max 1 (n / 4))).foldl (fun v i => v + (g.vreg (r + i) l).toNat * 2 ^ (32 * i)) 0) % 2 ^ (8 * n)

/-- Lines that the near cache of a core is fetching: at most 32, misses to one line merged (R215). -/
def Core.nearOpen (c : Core) : List Nat :=
  (NMap.foldV c.groups [] fun l _ g => l ++ g.ops.flatMap fun o => o.near.filter fun x => o.wait.any fun y => y / 4 == x).eraseDups
/-- Fine requests that a core has outstanding: at most 64 (R289). -/
def Core.fineOpen (c : Core) : Nat := NMap.foldV c.groups 0 fun t _ g => g.ops.foldl (fun t o => if o.fine then t + o.wait.length else t) t

/-- A load of lanes: local at once; otherwise an outstanding operation, bytes of the store buffer taken now (R185). It is held while
the buffer has some but not all bytes of a lane's access, which must come from one write (R183), or a contribution to its line. With
`near`, lanes whose page is read-only go through the near cache (R87, R215); a fine access takes the fine path past a near miss (R288). -/
def loadEff (space n : Nat) (dst : OpDst) (fine near : Bool) (hint sem : Nat) (ps : List (Nat × Nat × Place))
    (put : Group → Nat → Nat → Group) (c : Ctx) (s : State) : Eff :=
  match placeFault ps with
  | some f => .fault f
  | none =>
    if space = 0 then
      .go (s.putGroup c.core c.slot (ps.foldl (fun g x => put g x.1 (c.b.loc.readLE x.2.1 n)) c.g))
    else
      let keys := ps.filterMap fun x => x.2.2.key
      let bytes := keys.flatMap fun k => (List.range n).map (k + ·)
      let own := bytes.filter fun k => (c.c.buffered k).isSome
      let ro := if near then ps.filterMap fun x => match x.2.2 with | .mem pa p => if p.ro then some (pa / 128) else none | _ => none else []
      let nearHit (k : Nat) : Option NearLine := if ro.contains (k / 128) then c.c.near.find? fun e => e.line == k / 128 else none
      let need := ((bytes.filter fun k => (c.c.buffered k).isNone && (nearHit k).isNone).map (· / 32)).eraseDups
      let torn (k : Nat) : Bool := let m := ((List.range n).map (k + ·)).countP own.contains; decide (0 < m) && decide (m < n)
      let lines := if fine then [] else ((need.map (· / 4)).filter ro.contains).eraseDups
      let open_ := c.c.nearOpen
      let fresh := lines.filter fun l => !open_.contains l
      if need.any c.g.awaits || keys.any torn || keys.any (fun k => c.c.redHeld (k / 128)) then .stall
      else if fine && decide (64 < c.c.fineOpen + need.length) then .stall
      else if !fresh.isEmpty && decide (32 < open_.length + fresh.length) then .stall
      else if ps.isEmpty then .go s
      else
        let got := bytes.foldl (fun (m : Mem) k => match c.c.buffered k with
          | some b => m.write k b
          | none => match nearHit k with | some e => m.write k (e.data.read (k % 128)) | none => m) []
        let (id, s) := s.fresh
        let objs := ps.foldl (fun (m : NMap Nat) x => match x.2.2.key, x.2.2.attr.2.2.2 with | some k, some o => NMap.put m (k / 32) o | _, _ => m) []
        let op : LoadOp := ⟨id, dst, ps.filterMap fun x => x.2.2.key.map fun k => (x.1, k, x.2.1), need, got, own, [], [], [], objs, c.p.pc, lines, fine⟩
        let g := { c.g with ops := c.g.ops ++ [op] }
        let touched := c.c.near.map fun e => if ro.contains e.line then { e with age := id } else e
        .go (((s.putCore c.core { s.core c.core with near := touched }).putGroup c.core c.slot (g.acquire (sem == 1))).sendReads c.core c.slot id c.b.slice fine lines hint
          (ps.map (·.2.2)) (need.filter fun x => !lines.contains (x / 4) || fresh.contains (x / 4)))

def execLd (x : Site) (w : MF) (s : State) : Host.Outcome State Fault Refusal :=
  let n := sizeBytes w.size.toNat
  let sx := decide (5 ≤ w.size.toNat)
  issue x (w.h.ok && MFok w true && w.data.toNat % max 1 (n / 4) == 0) (dataRegs w.data.toNat n ++ (if w.ua then [] else [w.addr.toNat])) [w.base.toNat] w.h
    (fun c s => loadEff w.space.toNat n (.vec w.data.toNat n sx) (w.hint == 2) false w.hint.toNat w.sem.toNat (c.mAddrs s w false)
      (fun g l v => g.putData w.data.toNat n sx l v) c s) s

/-- ld.ro: a lane whose page is read-only through the near read-only cache, any other as a relaxed ld (R87, R215). -/
def execLdRo (x : Site) (w : MF) (s : State) : Host.Outcome State Fault Refusal :=
  let n := sizeBytes w.size.toNat
  let sx := decide (5 ≤ w.size.toNat)
  issue x (w.h.ok && MFok w true && w.sem == 0 && w.space == 1 && w.data.toNat % max 1 (n / 4) == 0)
    (dataRegs w.data.toNat n ++ (if w.ua then [] else [w.addr.toNat])) [w.base.toNat] w.h
    (fun c s => loadEff 1 n (.vec w.data.toNat n sx) (w.hint == 2) true w.hint.toNat 0 (c.mAddrs s w false) (fun g l v => g.putData w.data.toNat n sx l v) c s) s

/-- Bytes of some stores by sector, a later lane's byte after an earlier one's (R186). -/
def bySector (bs : List (Nat × Byte)) : List (Nat × List (Nat × Byte)) :=
  let secs := (bs.map (·.1 / 32)).eraseDups
  secs.map fun x => (x, (bs.filter fun b => b.1 / 32 == x).map fun b => (b.1 % 32, b.2))

/-- Puts one sector write into the store buffer and sends its request (R185, R242). -/
def State.bufferStore (s : State) (core block slice : Nat) (scr : Bool) (cls hint pol : Nat) (ro : Bool) (sec : Nat) (bs : List (Nat × Byte)) : State :=
  let (id, s) := s.fresh
  let c := s.core core
  let s := s.putCore core { c with sb := c.sb ++ [⟨id, block, false, slice, sec, bs, scr, cls, hint, pol⟩] }
  let body := ReqBody.write (bs.map fun b => (32 * (sec % 4) + b.1, b.2))
  if scr then { s with flight := { s.flight with scr := s.flight.scr ++ [⟨.store core id, slice, sec / 4, body⟩] } }
  else { s with flight := { s.flight with llm := s.flight.llm ++ [⟨core / 32, .store core id, slice, cls, hint, pol, ro, sec / 4, body⟩] } }

/-- A store of lanes: a release waits first, at no wider scope than the block where the space is local (R181, R189); then local memory at
once, else the store buffer; a page in host memory is written over its port (R438). -/
def storeEff (space n hint sem scope : Nat) (ps : List (Nat × Nat × Place)) (val : Nat → Nat) (c : Ctx) (s : State) : Eff :=
  match placeFault ps with
  | some f => .fault f
  | none =>
    if !c.released s sem (if space = 0 then min scope 1 else scope) then .stall
    else if space = 0 then
      let b := { c.b with loc := ps.foldl (fun (m : Mem) x => m.writeLE x.2.1 n (val x.1)) c.b.loc }
      .go (s.putBlock c.core c.g.block b)
    else
      let mem := ps.filter fun x => match x.2.2 with | .host .. => false | _ => true
      let bs := mem.flatMap fun x => match x.2.2.key with
        | some k => ((List.range n).map (k + ·)).zip (leBytes n (val x.1))
        | none => []
      let secs := bySector bs
      if secs.any fun e => c.g.awaits e.1 then .stall
      else if 64 < c.c.sb.length + secs.length then .stall
      else
        let s := secs.foldl (fun s e =>
          let (cls, pol, ro, _) := ((mem.find? fun x => x.2.2.key.map (· / 32) == some e.1).map (·.2.2.attr)).getD (3, 0, false, none)
          s.bufferStore c.core c.g.block c.b.slice (space == 2) cls hint pol ro e.1 e.2) s
        .go (ps.foldl (fun s x => match x.2.2 with
          | .host port a _ =>
            ((s.markTask c.b.slice c.b.taskNo).hostWrite port c.b.slice a (leBytes n (val x.1))).1
          | _ => s) s)

def execSt (x : Site) (w : MF) (s : State) : Host.Outcome State Fault Refusal :=
  let n := sizeBytes w.size.toNat
  issue x (w.h.ok && MFok w false && w.data.toNat % max 1 (n / 4) == 0) (dataRegs w.data.toNat n ++ (if w.ua then [] else [w.addr.toNat])) [w.base.toNat] w.h
    (fun c s => storeEff w.space.toNat n w.hint.toNat w.sem.toNat w.scope.toNat (c.mAddrs s w true) (fun l => c.g.getData w.data.toNat n l) c s) s

/-- ldu: one value into a uniform register (R85). -/
def execLdu (x : Site) (w : MF) (s : State) : Host.Outcome State Fault Refusal :=
  let n := sizeBytes w.size.toNat
  issue x (w.h.unguarded && MFok w true && w.ua && (w.size == 2 || w.size == 3) && decide (w.data.toNat < 64)) [] [w.data.toNat, w.base.toNat] w.h
    (fun c s =>
      let a := laneAddr w.space.toNat (c.g.ureg w.base.toNat) 0 (w.ofs.toInt * n)
      loadEff w.space.toNat n (.uni w.data.toNat n) (w.hint == 2) false w.hint.toNat w.sem.toNat [(lowestLane c.p.mask, a, c.locate s w.space.toNat n a false)]
        (fun g _ v => g.setU w.data.toNat (BitVec.ofNat 64 v)) c s) s

/-- stu: one uniform register value into memory (R85). -/
def execStu (x : Site) (w : MF) (s : State) : Host.Outcome State Fault Refusal :=
  let n := sizeBytes w.size.toNat
  issue x (w.h.unguarded && MFok w false && w.ua && (w.size == 2 || w.size == 3) && decide (w.data.toNat < 64)) [] [w.data.toNat, w.base.toNat] w.h
    (fun c s =>
      let a := laneAddr w.space.toNat (c.g.ureg w.base.toNat) 0 (w.ofs.toInt * n)
      storeEff w.space.toNat n w.hint.toNat w.sem.toNat w.scope.toNat [(lowestLane c.p.mask, a, c.locate s w.space.toNat n a true)]
        (fun _ => (c.g.ureg w.data.toNat).toNat % 2 ^ (8 * n)) c s) s

/-- Valid pairs of AOP and ATYPE (R88). -/
def atomValid (aop aty : Nat) : Bool :=
  decide (aty < 7) && (if aop < 3 then true else if aop < 6 then aty != 2 && decide (aty < 5) else if aop < 8 then decide (aty < 5) else false)

/-- Addresses of the guarded lanes of a format A word; a page in host memory gives fault 0x07 (R438). -/
def Ctx.aAddrs (c : Ctx) (s : State) (w : AF) : List (Nat × Nat × Place) :=
  (lanes.filter (inMask (c.guarded w.h))).map fun l =>
    let a := laneAddr w.space.toNat (c.g.ureg w.base.toNat) (c.g.vreg w.addr.toNat l).toNat 0
    (l, a, match c.locate s w.space.toNat (atyBytes w.aty.toNat) a true with | .host .. => .bad 0x07 | p => p)

/-- Operand of an atomic in a lane: x, and for cas the new value y (R69). -/
def AFOperand (w : AF) (g : Group) (l : Nat) : Nat × Nat :=
  let n := atyBytes w.aty.toNat
  (g.getData w.src.toNat n l, if w.aop = 7 then g.getData (w.src.toNat + max 1 (n / 4)) n l else 0)

/-- Lanes grouped by key, each group in ascending lane order (R201). -/
def byKey (l : List (Nat × Nat)) : List (Nat × List Nat) :=
  ((l.map (·.1)).eraseDups).map fun k => (k, (l.filter fun x => x.1 == k).map (·.2))

/-- Performs an atomic request on a local memory: memory and the old values. -/
def localAtom (m : Mem) (aop aty a : Nat) (ls : List (Nat × Nat × Nat)) : Mem × List (Nat × Nat) :=
  let n := atyBytes aty
  let r := atomLanes aop aty (m.readLE a n) ls
  (m.writeLE a n r.1, r.2)

/-- atom (R88, R200 to R203): local at once; otherwise one request per address, the path waiting for a returned value (R44). -/
def execAtom (x : Site) (w : AF) (s : State) : Host.Outcome State Fault Refusal :=
  let n := atyBytes w.aty.toNat
  let k := max 1 (n / 4)
  let cas := w.aop == 7
  let legal := w.h.ok && atomValid w.aop.toNat w.aty.toNat && w.space != 3 && (w.ret || w.dst == 0) && (!w.ret || w.dst.toNat % k == 0) &&
    w.src.toNat % (if cas then 2 * k else k) == 0
  issue x legal ((if w.ret then dataRegs w.dst.toNat n else []) ++ dataRegs w.src.toNat n ++ (if cas then dataRegs (w.src.toNat + k) n else []) ++ [w.addr.toNat])
    [w.base.toNat] w.h (fun c s =>
    let ps := c.aAddrs s w
    match placeFault ps with
    | some f => .fault f
    | none =>
      if !c.released s w.sem.toNat (if w.space = 0 then min w.scope.toNat 1 else w.scope.toNat) then .stall
      else if w.space = 0 then
        let r := (byKey (ps.map fun p => (p.2.1, p.1))).foldl (fun (a : Mem × Group) e =>
          let o := localAtom a.1 w.aop.toNat w.aty.toNat e.1 (e.2.map fun l => (l, (AFOperand w c.g l).1, (AFOperand w c.g l).2))
          (o.1, if w.ret then o.2.foldl (fun g v => g.putData w.dst.toNat n false v.1 v.2) a.2 else a.2)) (c.b.loc, c.g)
        .go ((s.putBlock c.core c.g.block { c.b with loc := r.1 }).putGroup c.core c.slot r.2)
      else if ps.isEmpty then .go s
      else
        let keyed := ps.filterMap fun p => p.2.2.key.map fun a => (a, p.1)
        if keyed.any fun e => c.g.awaits (e.1 / 32) || c.c.redHeld (e.1 / 128) || c.c.sb.any fun q => q.sector == e.1 / 32 then .stall
        else
          let (id, s) := (s.markTask c.b.slice c.b.taskNo).fresh
          let op : LoadOp := ⟨id, if w.ret then .old w.dst.toNat n else .none, ps.filterMap fun p => p.2.2.key.map fun a => (p.1, a, p.2.1),
            (keyed.map (·.1)).eraseDups, [], [], [], [], [], [], c.p.pc, [], false⟩
          let g := ({ c.g with ops := c.g.ops ++ [op] }).acquire (w.sem == 1 || w.sem == 3)
          let s := s.putGroup c.core c.slot g
          let s := (byKey keyed).foldl (fun s e =>
            let a : AtomReq := ⟨w.aop.toNat, w.aty.toNat, e.1, e.2.map fun l => (l, (AFOperand w c.g l).1, (AFOperand w c.g l).2)⟩
            match ps.find? fun p => p.2.2.key == some e.1 with
            | some (_, _, .scr _) => { s with flight := { s.flight with scr := s.flight.scr ++ [⟨.load c.core c.slot id, c.b.slice, e.1 / 128, .atom a⟩] } }
            | some (_, _, p) =>
              let (cls, pol, ro, _) := p.attr
              { s with flight := { s.flight with llm := s.flight.llm ++ [⟨c.core / 32, .load c.core c.slot id, c.b.slice, cls, 0, pol, ro, e.1 / 128, .atom a⟩] } }
            | none => s) s
          if w.ret then
            .jump (s.updGroup c.core c.slot fun g => match g.path? g.cur with
              | some p => (g.putPath g.cur { p with wait := .atomic id, pc := (p.pc + 8) % 2 ^ 48 }).switch
              | none => g)
          else .go s) s

/-- One contribution to each line that the lanes name (R89, R205), sent to its reduction point and held in the store buffer
until it is accepted (R262). -/
def redEff (w : AF) (key : Option (BitVec 32)) (c : Ctx) (s : State) : Eff :=
  let ps := c.aAddrs s w
  match placeFault ps with
  | some f => .fault f
  | none =>
    if !c.released s w.sem.toNat w.scope.toNat then .stall
    else
      let keyed := ps.filterMap fun p => match p.2.2 with | .mem a _ | .scr a => some (a, p.1) | _ => none
      let byLine := byKey (keyed.map fun e => (e.1 / 128, e.2))
      if 64 < c.c.sb.length + byLine.length then .stall
      else .go (byLine.foldl (fun s e =>
        let (id, s) := s.fresh
        let core := s.core c.core
        let s := s.putCore c.core { core with sb := core.sb ++ [⟨id, c.g.block, true, c.b.slice, 4 * e.1, [], w.space == 2, 0, 0, 0⟩] }
        let ls := e.2.filterMap fun l => (keyed.find? fun k => k.2 == l).map fun k => (k.1 % 128, c.g.getData w.src.toNat (atyBytes w.aty.toNat) l)
        { s with flight := { s.flight with contrib := s.flight.contrib ++ [(s.reductionPoint e.1, ⟨.store c.core id, c.b.slice, e.1, w.aty.toNat, ls, key, c.b.taskNo.toNat⟩)] } }) (if key.isNone then s.markTask c.b.slice c.b.taskNo else s))

/-- Legality of a reduction (R89). -/
def redOk (w : AF) : Bool :=
  w.h.ok && w.aop == 0 && (w.aty == 1 || w.aty == 2 || w.aty == 5 || w.aty == 6) && (w.space == 1 || w.space == 2) && (w.sem == 0 || w.sem == 2) && !w.ret

def execRedLine (x : Site) (w : AF) (s : State) : Host.Outcome State Fault Refusal :=
  issue x (redOk w && w.dst == 0) [w.src.toNat, w.addr.toNat] [w.base.toNat] w.h (redEff w none) s

def execRedLineOrd (x : Site) (w : AF) (s : State) : Host.Outcome State Fault Refusal :=
  issue x (redOk w && decide (w.dst.toNat < 64)) [w.src.toNat, w.addr.toNat] [w.base.toNat, w.dst.toNat] w.h
    (fun c s => redEff w (some ((c.g.ureg w.dst.toNat).truncate 32)) c s) s

/-- What a returned operation writes (R85, R88). -/
def LoadOp.write (o : LoadOp) (g : Group) : Group :=
  match o.dst with
  | .vec d n sx => o.lanes.foldl (fun g x => g.putData d n sx x.1 (o.got.readLE x.2.1 n)) g
  | .uni d n => match o.lanes with | x :: _ => g.setU d (BitVec.ofNat 64 (o.got.readLE x.2.1 n)) | [] => g
  | .old d n => o.lanes.foldl (fun g x => g.putData d n false x.1 (NMap.get 0 o.rets x.1)) g
  | .none => g

/-- The return of an operation whose data has all arrived: written, or fault 0x08 or 0x09 for poisoned data and 0x06 for data that a
host refused, by the lowest lane that read any (R99, R100, R296, R439). -/
def execLoadReturn (x : Site) (op : Nat) (s : State) : Host.Outcome State Fault Refusal :=
  match NMap.find? (s.core x.core).groups x.slot with
  | none => .next s
  | some g =>
    match g.ops.find? fun o => o.id == op with
    | none => .next s
    | some o =>
      if !o.wait.isEmpty then .next s
      else
        let g := { g with ops := g.ops.filter fun q => !(q.id == op) }
        if o.poison.isEmpty ∧ o.refused.isEmpty then
          let g := o.write g
          let g := (List.range 32).foldl (fun g e => match g.path? e with
            | some p => if p.wait = .atomic op then g.wake e else g
            | none => g) g
          .next (s.putGroup x.core x.slot g)
        else
          let bad := o.lanes.filter fun l => o.poison.contains (l.2.1 / 32) || o.refused.contains (l.2.1 / 32)
          let no := bad.any fun l => o.refused.contains (l.2.1 / 32) && (bad.head?.map (·.1)) == some l.1
          let obj := if no then none else bad.head?.bind fun l => NMap.find? o.objs (l.2.1 / 32)
          .next ((s.putGroup x.core x.slot g).programFaultAt x.core x.slot o.pc
            { code := if no then 0x06 else if obj.isSome then 0x09 else 0x08, lanes := maskOf fun i => bad.any fun l => l.1 == i, addr := (bad.head?.map (·.2.2)).getD 0, unit := obj.getD 0 })

end Sys2Proof.Machine
end

