-- ==== Sys2Proof/Machine/Async.lean ====
section
/-! DEFINITION. Descriptor instructions and what the asynchronous instructions share at issue (R90 to R92, R194). -/

namespace Sys2Proof.Machine

/-- Bits of a descriptor. -/
def dfld (d : W256) (lo w : Nat) : Nat := (d.extractLsb' lo w).toNat

/-- A local block-relative access of `n` bytes lies below L KiB. -/
def inLocal (b : Block) (a n : Nat) : Bool := n == 0 || decide (a + n ≤ b.l * 1024)

/-- The address of dld and dst.d: the low 32 bits of u[UR] + 32 × SUB (R92). -/
def dldAddr (c : Ctx) (w : XF) : Nat := ((c.g.ureg w.ur.toNat).toNat + 32 * w.sub.toNat) % 2 ^ 32

/-- The check of a 32-byte descriptor access (R52, R92). -/
def dldFault (c : Ctx) (a : Nat) : Option FaultInfo :=
  if a % 32 ≠ 0 then some { code := 0x05, lanes := c.p.mask, addr := a }
  else if inLocal c.b a 32 then none else some { code := 0x03, lanes := c.p.mask, addr := a }

def execDld (x : Site) (w : XF) (s : State) : Host.Outcome State Fault Refusal :=
  issue x (w.h.unguarded && w.xu && !w.x2 && w.dep == 0 && w.k == 0 && w.d2 == 0) [] [w.ur.toNat] w.h (fun c s =>
    match dldFault c (dldAddr c w) with
    | some f => .fault f
    | none => .go (s.putGroup c.core c.slot (c.g.setDesc w.d.toNat (BitVec.ofNat 256 (c.b.loc.readLE (dldAddr c w) 32))))) s

def execDstD (x : Site) (w : XF) (s : State) : Host.Outcome State Fault Refusal :=
  issue x (w.h.unguarded && w.xu && !w.x2 && w.dep == 0 && w.k == 0 && w.d2 == 0) [] [w.ur.toNat] w.h (fun c s =>
    match dldFault c (dldAddr c w) with
    | some f => .fault f
    | none => .go (s.putBlock c.core c.g.block { c.b with loc := c.b.loc.writeLE (dldAddr c w) 32 (c.g.desc w.d.toNat).toNat })) s

/-- dset: the low W bits of u[UR] into bits [P + W − 1 : P] of D; P in DEP [7:0], W in DEP [14:8] (R69, R92). -/
def execDset (x : Site) (w : XF) (s : State) : Host.Outcome State Fault Refusal :=
  let p := bits w.dep.toNat 0 8
  let n := bits w.dep.toNat 8 7
  issue x (w.h.unguarded && w.xu && !w.x2 && w.k == 0 && w.d2 == 0 && w.sub == 0 && decide (w.dep.toNat < 2 ^ 15) && decide (1 ≤ n) && decide (n ≤ 64) && decide (p + n ≤ 256))
    [] [w.ur.toNat] w.h (groupEff fun c =>
    c.g.setDesc w.d.toNat (BitVec.ofNat 256 (setBits (c.g.desc w.d.toNat).toNat p n (c.g.ureg w.ur.toNat).toNat))) s

def execDmov (x : Site) (w : XF) (s : State) : Host.Outcome State Fault Refusal :=
  issue x (w.h.unguarded && w.x2 && !w.xu && w.dep == 0 && w.k == 0 && w.ur == 0 && w.sub == 0) [] [] w.h (groupEff fun c =>
    c.g.setDesc w.d.toNat (c.g.desc w.d2.toNat)) s

/-- Legality of the unused fields of mxa, mxw and tmov (R67, R90): D2 only with X2, UR only with XU. -/
def XFok (w : XF) : Bool := w.h.unguarded && (w.x2 || w.d2 == 0) && (w.xu || w.ur == 0)

/-- Issues an asynchronous instruction: not ready while a token of DEP or K is pending, the path staying current (log 66); fault 0x0E for a
failed token of DEP, which is cleared (R90). `eff` queues the operation. -/
def asyncIssue (legal : Bool) (x : Site) (w : XF) (eff : Ctx → State → Eff) (s : State) : Host.Outcome State Fault Refusal :=
  issue x (XFok w && legal) [] (if w.xu then [w.ur.toNat] else []) w.h (fun c s =>
    if !c.g.settled w.dep || c.g.token w.k.toNat == .pending then .stall
    else match c.g.firstFailed w.dep with
      | some e => failTokens c s w.dep e
      | none => eff c s) s

/-- Sets token K pending and counts the block's operation (R50, R90). -/
def State.startToken (s : State) (c : Ctx) (k : Nat) : State :=
  (s.putBlock c.core c.g.block { c.b with async := c.b.async + 1 }).putGroup c.core c.slot (c.g.setToken k .pending)

/-- An operation's token changes, the block's count falls, and waiting paths go on (R44, R93, R194). -/
def State.endToken (s : State) (core slot bs k : Nat) (t : Token) : State :=
  let s := match NMap.find? (s.core core).blocks bs with
    | some b => s.putBlock core bs { b with async := b.async - 1 }
    | none => s
  (s.updGroup core slot fun g => if g.block = bs then g.setToken k t else g).wakeTokens core slot

/-- Writes pieces of bytes into a byte store. -/
def writePieces (m : Mem) (ps : List (Nat × List Byte)) : Mem := ps.foldl (fun m p => m.writeBytes p.1 p.2) m

end Sys2Proof.Machine
end

