-- ==== Sys2Proof/Machine/LlmOps.lean ====
section
/-! DEFINITION. What cache slices do with a request: delivery, hits, miss entries, allocation, eviction, dead-block marks,
tombstones, combine windows, contributions (spec 9), and the messages that a half sends (spec 11). -/

namespace Sys2Proof.Machine

/-- An empty line content, and one of all ones. -/
def noData : LineData := ⟨[none, none, none, none], 0, 0⟩
def onesData : LineData := ⟨List.replicate 4 (some (BitVec.allOnes 256)), 0, 0⟩

/-- A line's content in memory with its poison (R295). -/
def State.memData (s : State) (line : Nat) : LineData :=
  ⟨(List.range 4).map fun i => some (s.memSector (4 * line + i)),
   (List.range 4).foldl (fun m i => if s.poisoned (4 * line + i) then m ||| (1#4 <<< i) else m) 0, 0⟩

/-- Sectors arrive for an outstanding load: bytes that the store buffer supplied stay (R185), poison is noted (R296). -/
def LoadOp.takeSectors (o : LoadOp) (line : Nat) (d : LineData) (mask : BitVec 4) : LoadOp :=
  (List.range 4).foldl (fun o i =>
    let sec := 4 * line + i
    if mask.getLsbD i && o.wait.contains sec then
      { o with wait := o.wait.erase sec
               got := ((List.range 32).filter fun b => !o.own.contains (32 * sec + b)).foldl (fun (m : Mem) b => m.write (32 * sec + b) ((((d.sec.getD i none).getD 0) >>> (8 * b)).truncate 8)) o.got
               poison := if d.poison.getLsbD i then sec :: o.poison else o.poison }
    else o) o

/-- Puts a line into the near read-only cache: 128 sets of 8 ways, least recently used replaced (R215). -/
def Core.nearFill (c : Core) (line age : Nat) (d : LineData) : Core :=
  let data : Mem := (List.range 4).foldl (fun (m : Mem) i => m.writeLE (32 * i) 32 ((d.sec.getD i none).getD 0).toNat) []
  let rest := c.near.filter fun e => e.line != line
  let set := rest.filter fun e => e.line % 128 == line % 128
  let rest := if set.length < 8 then rest else
    match set.foldl (fun (b : Option NearLine) e => match b with | some x => if e.age < x.age then some e else b | none => some e) none with
    | some v => rest.filter fun e => e.line != v.line
    | none => rest
  { c with near := ⟨line, data, age⟩ :: rest }

/-- Changes an outstanding operation. -/
def State.updOp (s : State) (core slot op : Nat) (f : LoadOp → LoadOp) : State :=
  s.updGroup core slot fun g => { g with ops := g.ops.map fun o => if o.id = op then f o else o }
def State.findOp (s : State) (core slot op : Nat) : Option LoadOp :=
  (NMap.find? (s.core core).groups slot).bind fun g => g.ops.find? fun o => o.id == op

/-- Changes the running mover operation that awaits a request. -/
def State.updAwait (s : State) (core m id : Nat) (f : MvRun → MvRun) : State :=
  let c := s.core core
  let v := c.mover m
  s.putCore core (c.putMover m { v with run := v.run.map fun r => if r.waits.contains id then f { r with waits := r.waits.erase id } else r })

/-- Sectors of a line reach a mover operation; poisoned ones are noted (R233). -/
def MvRun.takeSectors (r : MvRun) (line : Nat) (d : LineData) (mask : BitVec 4) : MvRun :=
  (List.range 4).foldl (fun r i =>
    if mask.getLsbD i then
      let a := 128 * line + 32 * i
      { r with got := r.got.writeBytes a (leBytes 32 ((d.sec.getD i none).getD 0).toNat), bad := if d.poison.getLsbD i then r.bad ++ [(a, 32, 8)] else r.bad }
    else r) r

/-- Data of a line reach the reader (R240, R255), and with a whole line every near miss of its core that was merged into the request; the
line enters the near cache unless it is poisoned (R215). -/
def State.deliver (s : State) (a : Agent) (line : Nat) (d : LineData) (mask : BitVec 4) : State :=
  match a with
  | .load core slot op =>
    let near := mask == 15 && (s.core core).nearOpen.contains line
    let s := s.updOp core slot op fun o => o.takeSectors line d mask
    let c := s.core core
    if near then
      let c := { c with groups := NMap.mapV c.groups fun g => { g with ops := g.ops.map fun o => if o.near.contains line then o.takeSectors line d mask else o } }
      s.putCore core (if d.poison = 0 then c.nearFill line op d else c)
    else s
  | .mover core m op => s.updAwait core m op fun r => r.takeSectors line d mask
  | _ => s

/-- A write or contribution has been accepted: its store-buffer entry is free (R185, R242, R262), or its mover awaits it no more (R218). -/
def State.accept (s : State) (a : Agent) : State :=
  match a with
  | .store core ent => let c := s.core core; s.putCore core { c with sb := c.sb.filter fun e => e.id != ent }
  | .mover core m op => s.updAwait core m op id
  | _ => s

/-- The old values of an atomic reach their lanes (R201). -/
def State.deliverAtom (s : State) (a : Agent) (addr : Nat) (vals : List (Nat × Nat)) (poison : Bool) : State :=
  match a with
  | .load core slot op => s.updOp core slot op fun o =>
    { o with wait := o.wait.erase addr, rets := vals.foldl (fun m v => NMap.set 0 m v.1 v.2) o.rets, poison := if poison then (addr / 32) :: o.poison else o.poison }
  | _ => s

/-- Counts an access of a class (R267, R268, R280). -/
def State.countAccess (s : State) (h sl cls cs : Nat) (hit : Bool) : State :=
  let s := s.incSreg sl (0xC000 + 8 * cls)
  let s := if hit then s.incSreg sl (0xC040 + 8 * cls) else s
  let x := s.half h
  let k := 16 * cls + cs
  s.putHalf h { x with accs := NMap.upd 0 x.accs k (· + 1), hits := if hit then NMap.upd 0 x.hits k (· + 1) else x.hits,
                       classes := NMap.upd Thrash.init x.classes cls fun t => { t with acc := t.acc + 1, hit := if hit then t.hit + 1 else t.hit } }

/-- A slice's sticky flag of LLM_S_FLAGS and its counter (R280). -/
def State.sliceNote (s : State) (sl bit ctr : Nat) : State := (s.setSreg sl 0xC080 (setBits (s.sreg sl 0xC080) bit 1 1)).incSreg sl ctr

/-- PUNITS in effect (R279), and whether a way of a set is pinned or still being zeroed (R248, R253). -/
def State.punits (s : State) (h : Nat) : Nat := s.fld (aLlm h 0x18) 2 5
def State.wayFree (s : State) (h set way : Nat) : Bool :=
  let u := 2 * (15 - way) + set / 2048
  !(decide (way ≤ 15) && decide (u < s.punits h)) && !(s.half h).zeroing.contains u

/-- The first demand access of a prefetched line clears its mark, counted for the region's slice (R258). -/
def State.firstDemand (s : State) (h line : Nat) : State :=
  match NMap.find? (s.half h).lines line with
  | some l => if l.pf then (s.updLine h line fun l => { l with pf := false }).incSreg l.slice 0xC0A8 else s
  | none => s

/-- Closes the combine window of a line: one multicast reply serves the reads that joined (R256). -/
def State.closeWindow (s : State) (h line : Nat) : State :=
  let x := s.half h
  match x.windows.find? fun w => w.1 == line with
  | none => s
  | some w =>
    let d : LineData := if isScratch line then s.memData line else match NMap.find? x.lines line with
      | some l => ⟨l.sec, l.poison, 0⟩
      | none => s.memData line
    w.2.foldl (fun s r => match r.body with | .read m => s.deliver r.agent line d m | _ => s)
      (s.putHalf h { x with windows := x.windows.filter fun v => v.1 != line })

/-- Home node of a line for the messages of a half; an unbacked line has none (R285). -/
def State.homeOf (s : State) (line : Nat) : Nat := (s.homeNode line).getD 0

/-- The tag that an entry of a cache slice gives at its next use, and whether its count was last used 64 µs ago or more (R316). -/
def Half.nextTag (x : Half) (c e now : Nat) : Nat × Bool :=
  let n := NMap.get 0 x.tags (64 * c + e)
  (e + 64 * n, match NMap.find? x.used (1024 * (64 * c + e) + n) with | some t => decide (t + 64000 ≤ now) | none => true)

/-- The lowest entry of a cache slice that no request holds and whose count may be used (R316). -/
def Half.freeEntry (x : Half) (c now : Nat) : Option Nat :=
  (List.range 64).find? fun e => !(x.miss.any fun m => m.entry == e && cacheSlice m.line == c) && (x.nextTag c e now).2

/-- An entry is used: its count advances (R316). -/
def Half.useEntry (x : Half) (c e now : Nat) : Half :=
  let n := NMap.get 0 x.tags (64 * c + e)
  { x with tags := NMap.set 0 x.tags (64 * c + e) ((n + 1) % 1024), used := NMap.put x.used (1024 * (64 * c + e) + n) now }

/-- A tag for a message that opens no miss entry: of the lowest entry of the cache slice that is not in use, whose count
advances (R316). -/
def State.freshTag (s : State) (h line : Nat) : Nat × State :=
  let x := s.half h
  let c := cacheSlice line
  let e := (x.freeEntry c s.time.toNat).getD 0
  ((x.nextTag c e s.time.toNat).1, s.putHalf h (x.useEntry c e s.time.toNat))

/-- Tells the home that a reduction hold has ended (R246, R312). -/
def State.endHold (s : State) (h line : Nat) : State :=
  let (t, s) := s.freshTag h line
  s.send (.holdend ⟨s.homeOf line, .half h, t, line⟩)

/-- A line leaves a half (R246, R258, R311, R318): window closed, pending contributions resolved, a prefetch mark counted;
from M by PutM, or by DropM where `dead`, with a write-back buffer. -/
def State.evict (s : State) (h line : Nat) (dead : Bool) : State :=
  let s := (s.closeWindow h line).resolveLine h line
  match NMap.find? (s.half h).lines line with
  | none => s
  | some l =>
    let s := if l.pf then s.incSreg l.slice 0xC0B0 else s
    let x := s.half h
    let x := { x with lines := NMap.del x.lines line }
    let q : CohReq := ⟨s.homeOf line, .half h, l.tag, line⟩
    if l.st = .m then
      let d : LineData := ⟨l.sec, l.poison, l.dirty⟩
      let tomb := if dead && l.dirty != 0 then ((line, l.slice) :: x.tomb).take 4096 else x.tomb
      (s.putHalf h { x with wb := x.wb ++ [⟨line, l.tag, d, dead, false, false⟩], tomb := tomb }).send (if dead then .dropm q else .putm q d)
    else
      let s := s.putHalf h x
      if l.hold then s.endHold h line else s

/-- A hold ends: a line of a stream or no-allocate region is dropped (R246). -/
def State.dropHold (s : State) (h line : Nat) : State :=
  match NMap.find? (s.half h).lines line with
  | some l => if l.policy ≠ 0 then s.evict h line false else (s.updLine h line fun l => { l with hold := false }).endHold h line
  | none => s

/-- The way for a fill of a line, after an eviction where the set is full (R238). An owned line whose fill is outstanding stays: its request
is on its way, and a later PutM would be stale (R312). -/
def State.makeRoom (s : State) (h line : Nat) : State × Option Nat :=
  let x := s.half h
  let same := List.filter (fun (p : Nat × Line) => cacheSlice p.1 == cacheSlice line && cacheSet p.1 == cacheSet line) x.lines
  match ((List.range 16).filter fun w => s.wayFree h (cacheSet line) w && !same.any fun p => p.2.way == w) with
  | w :: _ => (s, some w)
  | [] =>
    let cand := same.filter fun p => s.wayFree h (cacheSet line) p.2.way && (p.2.st == .s || !x.miss.any fun m => m.line == p.1)
    match cand.foldl (fun (b : Option (Nat × Line)) p => match b with | some q => if p.2.age < q.2.age then some p else b | none => some p) none with
    | some v => (s.evict h v.1 false, some v.2.way)
    | none => (s, none)

/-- Makes a line most recently used, or least recently used in its set (R238, R240). -/
def State.ageLine (s : State) (h line : Nat) (lru : Bool) : State :=
  let x := s.half h
  let low := List.foldl (fun (a : Int) (p : Nat × Line) => if cacheSlice p.1 = cacheSlice line ∧ cacheSet p.1 = cacheSet line then min a p.2.age else a) 0 x.lines
  let s := s.putHalf h { x with age := x.age + 1 }
  s.updLine h line fun l => { l with age := if lru then low - 1 else ((x.age + 1 : Nat) : Int) }

/-- A class that the detector has switched (R269). -/
def State.switched (s : State) (h cls : Nat) : Bool := (NMap.get Thrash.init (s.half h).classes cls).na

/-- A half that is off or powering down allocates nothing (R276). -/
def State.stopping (s : State) (h : Nat) : Bool := s.fld (aLlm h 0x18) 0 2 == 0 || s.fld (aLlm h 0x18) 0 2 == 3

/-- Whether an access allocates on a miss (R240). -/
def State.allocates (s : State) (r : LlmReq) : Bool :=
  r.policy == 0 && r.hint != 1 && !s.switched r.half r.cls && !s.stopping r.half

/-- The stream prefetcher lines that an access touches: the highest line touched advances (R227). -/
def State.touchStream (s : State) (h sl line : Nat) : State :=
  let x := s.half h
  s.putHalf h { x with pfs := NMap.mapV x.pfs fun p =>
    if p.slice ≠ sl then p else
    match ((List.range p.count).reverse.find? fun (i : Nat) => match s.translate sl (wrap 48 ((p.base : Int) + p.stride * (i : Nat))) with
      | some (.mem pa _) => pa / 128 == line
      | _ => false) with
    | some i => { p with touched := some (max i (p.touched.getD 0)) }
    | none => p }

/-- Sectors that a body touches, those that it covers wholly, and the mask of a read. -/
def bodySectors : ReqBody → BitVec 4
  | .read m => m
  | .write bs => bs.foldl (fun m b => m ||| (1#4 <<< (b.1 / 32))) 0
  | .atom a => 1#4 <<< (a.addr % 128 / 32)
def wholeSectors (bs : List (Nat × Byte)) : BitVec 4 :=
  (List.range 4).foldl (fun m i => if (List.range 32).all (fun b => bs.any fun x => x.1 == 32 * i + b) then m ||| (1#4 <<< i) else m) 0

/-- Valid sectors of a line. -/
def Line.valid (l : Line) : BitVec 4 := (List.range 4).foldl (fun m i => if (l.sec.getD i none).isSome then m ||| (1#4 <<< i) else m) 0

/-- Writes bytes of one line at a half; wholly covered sectors lose their poison (R266). -/
def State.writeLine (s : State) (h line : Nat) (bs : List (Nat × Byte)) : State :=
  let s := bs.foldl (fun s b => s.lineWrite h line b.1 1 b.2.toNat) s
  let w := wholeSectors bs
  if isScratch line then (List.range 4).foldl (fun s i => if w.getLsbD i then s.setPoison (4 * line + i) false else s) s
  else s.updLine h line fun l => { l with poison := l.poison &&& ~~~w }

/-- Performs an atomic on a line at a half: state, old values, poison (R200, R201). -/
def State.atomLine (s : State) (h line : Nat) (a : AtomReq) : State × List (Nat × Nat) × Bool :=
  let n := atyBytes a.aty
  let ofs := a.addr % 128
  let r := atomLanes a.aop a.aty (s.lineRead h line ofs n) a.lanes
  let bad := if isScratch line then s.poisoned (a.addr / 32) else match NMap.find? (s.half h).lines line with
    | some l => l.poison.getLsbD (ofs / 32)
    | none => s.poisoned (a.addr / 32)
  (s.lineWrite h line ofs n r.1, r.2, bad)

/-- Opens a miss entry of the line's cache slice and advances its count (R255, R316); none where every entry is in use or must wait. -/
def State.openMiss (s : State) (h line : Nat) (kind : MissKind) (reqs : List LlmReq) (cs : List Contrib) (hold pf : Bool) (sl pol cls : Nat) (ro : Bool) : Option (State × Nat) :=
  let x := s.half h
  let c := cacheSlice line
  match x.freeEntry c s.time.toNat with
  | none => none
  | some e =>
    let tag := (x.nextTag c e s.time.toNat).1
    some (s.putHalf h { x.useEntry c e s.time.toNat with miss := x.miss ++ [⟨e, tag, line, kind, reqs, cs, hold, sl, ro, pol, cls, pf, none, 0, none, false⟩] }, tag)

/-- The request message of a miss entry (R312, R313). -/
def missMsg (q : CohReq) (hold : Bool) (body : Option ReqBody) : MissKind → Instr
  | .rds => .rds q
  | .rdx => .rdx q hold
  | .rdxn => .rdxn q
  | .rdna => .rdna q
  | .wrna bs => .wrna q bs
  | .atom => match body with | some (.atom a) => .atomRequest q a | _ => .rdx q false

/-- Opens a miss entry for a request and sends its message; an unbacked line is answered as R285 says. -/
def State.askHome (s : State) (r : LlmReq) (kind : MissKind) : Option State :=
  match s.homeNode r.line with
  | none =>
    let s := s.unbackedAt (128 * r.line)
    some (match r.body with
      | .read m => s.deliver r.agent r.line onesData m
      | .write _ => s.accept r.agent
      | .atom a => s.deliverAtom r.agent a.addr (a.lanes.map fun l => (l.1, 2 ^ (8 * atyBytes a.aty) - 1)) false)
  | some n => (s.openMiss r.half r.line kind [r] [] false false r.slice r.policy r.cls r.ro).map fun (s, tag) =>
      s.send (missMsg ⟨n, .half r.half, tag, r.line⟩ false (some r.body) kind)

/-- A request joins the open miss entry of its line; none where 64 requests have joined (R255). -/
def State.joinMiss (s : State) (r : LlmReq) : Option State :=
  let x := s.half r.half
  match x.miss.find? fun m => m.line == r.line with
  | none => none
  | some m => if 64 ≤ m.reqs.length then none else
    some (s.putHalf r.half { x with miss := x.miss.map fun k => if k.line = r.line then { k with reqs := k.reqs ++ [r] } else k })

/-- After an access of a held line: age, dead-block drop (R240, R259). -/
def State.afterAccess (s : State) (r : LlmReq) : State :=
  if r.hint = 3 then s.evict r.half r.line true
  else if r.policy = 1 ∨ r.hint = 1 then s.ageLine r.half r.line true
  else if r.policy = 2 ∨ s.switched r.half r.cls then s
  else s.ageLine r.half r.line false

/-- A read that matches a tombstone of its slice; a write removes it (R260). -/
def State.tombstone (s : State) (r : LlmReq) : State :=
  let x := s.half r.half
  match r.body with
  | .read _ => if x.tomb.contains (r.line, r.slice) then s.sliceNote r.slice 0 0xC088 else s
  | _ => s.putHalf r.half { x with tomb := x.tomb.filter fun t => t != (r.line, r.slice) }

/-- The kind of request a miss sends (R240, R254, R311, R325). `shared`: the half holds the line in S. -/
def missKind (alloc shared : Bool) : ReqBody → MissKind
  | .read _ => if alloc then .rds else .rdna
  | .write bs => if !alloc then .wrna bs else if shared || wholeSectors bs != bodySectors (.write bs) then .rdx else .rdxn
  | .atom _ => .atom

/-- Serves a request at a cache slice (R240, R254 to R256, R311): by hit, in the combine window, by joining the miss entry of
its line, or by a new one. None: it waits in the cache slice's queue. `cnt`: the access is counted. -/
def State.serve (s : State) (r : LlmReq) (cnt : Bool) : Option State :=
  let h := r.half
  let cs := cacheSlice r.line
  let x := s.half h
  let count (s : State) (hit : Bool) : State := if cnt then s.countAccess h r.slice r.cls cs hit else s
  let need := bodySectors r.body
  let na (s : State) : State := if cnt && r.policy == 0 && r.hint != 1 && s.switched h r.cls then s.sliceNote r.slice 3 0xC0B8 else s
  let whole : BitVec 4 := match r.body with | .write bs => wholeSectors bs | _ => 0
  let s := if cnt then ((s.touchStream h r.slice r.line).tombstone r).firstDemand h r.line else s
  let pre (s : State) : State := if (s.half h).pend.any (fun p => p.c.line == r.line) then s.resolveLine h r.line else s
  match NMap.find? x.lines r.line with
  | some l =>
    let valid := need &&& ~~~l.valid == 0
    match r.body with
    | .read m =>
      if !valid then (if x.miss.any fun e => e.line == r.line then s.joinMiss r else s.askHome r .rds).map (count · false)
      else
        let s := count (pre s) true
        match x.windows.find? fun w => w.1 == r.line with
        | some w =>
          if r.hint = 3 then
            let s := s.closeWindow h r.line
            some ((s.deliver r.agent r.line (match NMap.find? (s.half h).lines r.line with | some l => ⟨l.sec, l.poison, 0⟩ | none => noData) m).afterAccess r)
          else
            let y := s.half h
            some ((s.putHalf h { y with windows := y.windows.map fun v => if v.1 = w.1 then (v.1, v.2 ++ [r]) else v }).afterAccess r)
        | none =>
          let d : LineData := match NMap.find? (s.half h).lines r.line with | some l => ⟨l.sec, l.poison, 0⟩ | none => noData
          let s := s.deliver r.agent r.line d m
          let y := s.half h
          let s := if r.hint = 3 then s else s.putHalf h { y with windows := y.windows ++ [(r.line, [])] }
          some (s.afterAccess r)
    | .write bs =>
      let hit := need &&& ~~~(l.valid ||| whole) == 0
      if x.miss.any fun e => e.line == r.line then (s.joinMiss r).map (count · hit)
      else if l.st = .s then
        (if s.allocates r then s.askHome r .rdx else (na (s.evict h r.line false)).askHome r (.wrna bs)).map (count · hit)
      else if !hit then (s.askHome r .rds).map (count · false)
      else some ((((count (pre (s.closeWindow h r.line)) true).writeLine h r.line bs).accept r.agent).afterAccess r)
    | .atom a =>
      if x.miss.any fun e => e.line == r.line then (s.joinMiss r).map (count · valid)
      else if l.st = .s ∨ !valid then (s.askHome r (if l.st = .s then .atom else .rds)).map (count · valid)
      else
        let (s, vals, bad) := (count (pre (s.closeWindow h r.line)) true).atomLine h r.line a
        some ((s.deliverAtom r.agent a.addr vals bad).afterAccess r)
  | none =>
    (if x.miss.any fun e => e.line == r.line then s.joinMiss r
     else (na s).askHome r (missKind (s.allocates r) false r.body)).map (count · false)

/-- Takes one contribution at its reduction point: applied at once, or held pending under its key with the limits of 64 a line
and 4,096 a half (R205, R206, R208, R263). -/
def State.takeContrib (s : State) (h : Nat) (c : Contrib) : State :=
  let s := s.closeWindow h c.line
  let s : State := match c.key with
    | none => ((s.resolveLine h c.line).applyContrib h c)
    | some _ =>
      let mine := ((s.half h).pend.filter fun (p : Pend) => p.c.line == c.line).length
      let s : State := if 64 ≤ mine then s.resolveEarly h c.line
        else if 4096 ≤ (s.half h).pend.length then
          match (s.half h).pend.foldl (fun (b : Option Pend) p => match b with | some q => if p.arrival < q.arrival then some p else b | none => some p) none with
          | some p => s.resolveEarly h p.c.line
          | none => s
        else s
      let x := s.half h
      s.putHalf h { x with pend := x.pend ++ [⟨x.arrivals, c⟩], arrivals := x.arrivals + 1 }
  s.accept c.src

/-- Applies or holds a contribution at the home half of a global line (R244, R245, R262). A half that does not hold the line under a hold
obtains it with RdX and HOLD, which it sends from I or S only (R311): a line that it owns goes back first. `cnt`: the access is counted
(R258, R260, R267). None: no miss entry is free. -/
def State.globalContrib (s : State) (h : Nat) (c : Contrib) (cnt : Bool) : Option State :=
  match s.homeNode c.line with
  | none => some ((s.unbackedAt (128 * c.line)).accept c.src)
  | some n =>
    let sl : Nat := c.slice
    let pol : Nat × Nat × Bool := match (s.slice sl).pages.findSome? fun (p : Nat × Page) => match p.2.tgt with
      | .own pa | .obj _ pa => if pa ≤ 128 * c.line ∧ 128 * c.line < pa + p.2.size then some (p.2.policy, p.2.cls, p.2.ro) else none
      | _ => none with
      | some q => q
      | none => (0, 1, false)
    let x := s.half h
    let s := if cnt then (s.putHalf h { x with tomb := x.tomb.filter fun t => t != (c.line, sl) }).firstDemand h c.line else s
    let count (hit : Bool) (s : State) : State := if cnt then s.countAccess h sl pol.2.1 (cacheSlice c.line) hit else s
    let ask (s : State) : Option State :=
      (s.openMiss h c.line .rdx [] [c] true false sl pol.1 pol.2.1 pol.2.2).map fun (s, tag) => s.send (missMsg ⟨n, .half h, tag, c.line⟩ true none .rdx)
    let old := NMap.find? x.lines c.line
    let hit := match old with | some l => l.valid == 15 | none => false
    if x.miss.any fun m => m.line == c.line then
      let y := s.half h
      some (count hit (s.putHalf h { y with miss := y.miss.map fun k => if k.line = c.line then { k with contribs := k.contribs ++ [c] } else k }))
    else match old with
    | some l =>
      if l.hold && hit then
        let s := count true ((s.updLine h c.line fun l => { l with heldAt := s.time.toNat }).takeContrib h c)
        some (if l.policy = 2 then s else s.ageLine h c.line (l.policy == 1))
      else (ask (if l.st = .s then s else s.evict h c.line false)).map (count hit)
    | none => (ask s).map (count false)

/-- Contributions that waited in a miss entry go on in their order of arrival: at their home half, or on their way to a new one, ahead of
those that arrive later (R205, R207, R247). -/
def State.retryContribs (s : State) (h : Nat) (cs : List Contrib) : State :=
  let r := cs.foldl (fun (a : State × List (Nat × Contrib)) c =>
    let p := a.1.reductionPoint c.line
    match if p = h && a.2.isEmpty then a.1.globalContrib h c false else none with
    | some s => (s, a.2)
    | none => (a.1, a.2 ++ [(p, c)])) (s, [])
  { r.1 with flight := { r.1.flight with contrib := r.2 ++ r.1.flight.contrib } }

/-- Merges arriving sectors into a line: valid sectors of an owned line stay (R254). -/
def mergeSec (old : Option Line) (d : LineData) : List (Option W256) × BitVec 4 × BitVec 4 :=
  match old with
  | some l =>
    if l.st = .s then (d.sec, d.poison, d.dirty)
    else ((List.range 4).map fun i => ((l.sec.getD i none).orElse fun _ => d.sec.getD i none), (l.poison &&& l.valid) ||| (d.poison &&& ~~~l.valid), l.dirty ||| (d.dirty &&& ~~~l.valid))
  | none => (d.sec, d.poison, d.dirty)

/-- Serves requests again, in order; one that must wait goes back to its cache slice's queue. -/
def State.serveAll (s : State) (rs : List LlmReq) : State :=
  rs.foldl (fun s r => match s.serve r false with
    | some s => s
    | none => { s with flight := { s.flight with llm := s.flight.llm ++ [r] } }) s

/-- Removes the miss entry of a line. -/
def State.dropMiss (s : State) (h line : Nat) : State :=
  let x := s.half h
  s.putHalf h { x with miss := x.miss.filter fun m => m.line != line }

/-- Reads among requests get their data; the others remain. -/
def State.serveReads (s : State) (line : Nat) (d : LineData) (rs : List LlmReq) : State × List LlmReq :=
  rs.foldl (fun (a : State × List LlmReq) r => match r.body with
    | .read m => if (List.range 4).all (fun i => !m.getLsbD i || (d.sec.getD i none).isSome) then (a.1.deliver r.agent line d m, a.2) else (a.1, a.2 ++ [r])
    | _ => (a.1, a.2 ++ [r])) (s, [])

/-- Installs an arriving line (R254, R255, R258, R311). Where no way can be had the data serve only the requests, and what is dirty goes
back. -/
def State.install (s : State) (h : Nat) (m : Miss) (g : Granted) (d : LineData) (mark : Bool) : State :=
  let old := NMap.find? (s.half h).lines m.line
  let (sec, poison, dirty) := mergeSec old d
  let own := match old with | some l => l.st != LSt.s | none => false
  let st : LSt := if own then (if g = .m || dirty != 0 then .m else (old.map (·.st)).getD .e) else match g with | .s => .s | .e => .e | _ => .m
  let (s, way) : State × Option Nat := if s.stopping h then (s, none) else match old with
    | some l => (s, if s.wayFree h (cacheSet m.line) l.way then some l.way else none)
    | none => s.makeRoom h m.line
  let x := s.half h
  match way with
  | none =>
    let x := { x with lines := NMap.del x.lines m.line }
    if st = .m then
      (s.putHalf h { x with wb := x.wb ++ [⟨m.line, m.tag, ⟨sec, poison, dirty⟩, false, false, false⟩] }).send (.putm ⟨s.homeOf m.line, .half h, m.tag, m.line⟩ ⟨sec, poison, dirty⟩)
    else s.putHalf h x
  | some w =>
    let l : Line := ⟨w, st, m.hold || ((old.map (·.hold)).getD false), s.time.toNat, sec, dirty, poison, mark, m.slice, m.ro, m.policy, m.cls, 0, m.tag⟩
    (s.putHalf h { x with lines := NMap.put x.lines m.line l }).ageLine h m.line false

/-- A miss entry whose data or grant and acks have all come completes (R319, R321): Done goes to the home, the line is installed
where it allocates, reads that joined are served, contributions and then the other requests in order. -/
def State.finishMiss (s : State) (h line : Nat) : State :=
  match (s.half h).miss.find? fun m => m.line == line with
  | none => s
  | some m =>
    match m.got, m.ackcnt with
    | some (g, d), some n =>
      if m.acks < n then s else
      let s := (s.dropMiss h line).send (.doneMsg (.half h) (s.homeOf line) line)
      let x := s.half h
      let s := s.putHalf h { x with pfs := NMap.mapV x.pfs fun p => { p with inflight := p.inflight.filter (· != line) } }
      if g = .none then
        let (s, rest) := s.serveReads line d m.reqs
        let s := s.serveAll (match m.kind, rest with
          | .rdx, r :: t | .rdxn, r :: t | .wrna _, r :: t => match r.body with | .write _ => t | _ => r :: t
          | _, l => l)
        let s := match m.kind, m.reqs.find? fun r => match r.body with | .write _ => true | _ => false with
          | .rdx, some r | .rdxn, some r | .wrna _, some r => s.accept r.agent
          | _, _ => s
        s.retryContribs h m.contribs
      else if m.dropped && g != .m then
        let (s, rest) := s.serveReads line d m.reqs
        (s.serveAll rest).retryContribs h m.contribs
      else
        let demand := !m.reqs.isEmpty || !m.contribs.isEmpty
        let s := s.install h m g d (m.pf && !demand)
        let s := if m.pf && demand then s.incSreg m.slice 0xC0A8 else s
        let now : LineData := match NMap.find? (s.half h).lines line with | some l => ⟨l.sec, l.poison, 0⟩ | none => d
        let (s, rest) := s.serveReads line now m.reqs
        let s := if m.reqs.any fun r => r.hint == 3 && !rest.contains r then s.evict h line true else s
        let held := match NMap.find? (s.half h).lines line with | some l => l.hold | none => false
        let s := if held then m.contribs.foldl (fun s c => s.takeContrib h c) s else s
        let s := s.serveAll rest
        if held then s else s.retryContribs h m.contribs
    | _, _ => s

end Sys2Proof.Machine
end

