-- ==== Sys2Proof/Machine/Reset.lean ====
section
/-! DEFINITION. The module reset and the start of a power-on (R512, R535, R554, R566): what stops, what is kept. -/

namespace Sys2Proof.Machine

/-- Good lanes, lowest first, below a lane number. -/
def goodLanes (good : BitVec 72) (n : Nat) : List Nat := (List.range n).filter fun i => good.getLsbD i

/-- The mode that good lanes allow, with the spares in use (R334, R356, R357). -/
def linkMode (good : BitVec 72) : Nat × Nat :=
  let n := (goodLanes good 68).length
  if (goodLanes good 72).length ≠ n + 4 then (0, 0)
  else if 64 ≤ n then (2, 64 - (goodLanes good 64).length)
  else if 32 ≤ n then (1, ((goodLanes good 68).take 32).countP fun i => decide (64 ≤ i))
  else (0, 0)

/-- Registers that a module reset keeps: boot and sideband state, the host ports, the owner, the mailboxes and the error log
(R16, R546, R554). -/
def keptReg (a : Nat) : Bool :=
  a = 0 || a = 8 || (0x100 ≤ a && a < 0x118) || (0x10000 ≤ a && a ≤ 0x10200) || (0x100000 ≤ a && a < 0x200000) || (0x2100000 ≤ a && a < 0x2200000)

/-- Whether the sequence of R537 holds after step 3: RESET_N asserted (R566) or REFCLK absent (R568). -/
def State.holds (s : State) : Bool := s.pins.resetN || s.fld 0x100 6 1 == 0

/-- The record's substitution of a logical number: the newest one (R19, R535). -/
def RecordLog.subOf (r : RecordLog) (d : Nat) : Option Nat := (r.subs.find? fun x => x.1 == d).map (·.2)

/-- Logical numbers take the sites that the reserve-die map does not name, in ascending order, or those of the record's substitutions; a
number whose site is marked failed is absent (R19, R23). -/
def RecordLog.sites (r : RecordLog) : List Nat :=
  (List.range 32).map fun d => let x := (r.subOf d).getD d; if r.failed.contains x then 99 else x

/-- Reserve sites left: those of the map that are not marked failed and have taken no number (R19, R535). -/
def RecordLog.reserves (r : RecordLog) : List Nat :=
  [32, 33, 34, 35].filter fun x => !r.failed.contains x && !r.subs.any fun y => y.2 == x

/-- The sites at a power-on or module reset: the record assigns the numbers, the other sites are in transit mode but for those that are
removed (R19, R20, R362). -/
def State.assignSites (s : State) : State :=
  let old := s.dieState
  let here := s.rlog.sites
  let left := s.rlog.reserves
  { s with sites := here, reserves := left
           dieState := (List.range 36).foldl (fun m x => NMap.set 0 m x (if NMap.get 0 old x = 7 then 7 else if here.contains x then 0 else if left.contains x then 1 else 2)) old }

/-- Dies with a lasting state: reserves, failed dies, retired nodes, dies without links (R302, R361, R535). -/
def State.lastingDies (s : State) : NMap Nat := s.dieState.filter fun (x : Nat × Nat) => x.2 == 1 || x.2 == 2 || x.2 == 3 || (x.2 == 7 && decide (x.1 < 54 ∨ 58 ≤ x.1))

/-- Retired nodes read RETIRE = 1, STATE 3 and stand outside HASHSET (R302). -/
def State.withRetired (s : State) : State :=
  s.rlog.retired.foldl (fun (s : State) n => ((s.setFld (aMem n 0) 0 1 1).setFld (aMem n 8) 0 2 3).setFld (aMem 0 0x10) (8 + n) 1 0) s

/-- What a load of firmware and the manufacturing record measures: slots 3 to 5 take verified images, slot 6 the record (R487, R537). -/
def State.measured (s : State) (mgmt : Bool) : NMap (BitVec 256) :=
  let m := s.sec.pend.foldl (fun m (x : Nat × BitVec 256) => NMap.put m x.1 x.2) s.sec.meas
  ([3, 4, 5] ++ (if mgmt then [1, 2] else [])).foldl (fun m i =>
    match NMap.find? s.mgr.images (if i = 2 then 1 else i) with | some d => NMap.put m i d | none => m) m

/-- The regime of every node: 1 blocking, 0 normal (R322). -/
def State.cohAll (s : State) (m : Nat) : State := (List.range 18).foldl (fun s n => s.setFld (aCoh n 0) 0 2 m) s

/-- The security engine after a module reset: keys are made anew, the stable slots and MEPOCH take what the reloads measured, where a
transition was open or a slot differs (R486 to R488, R499). -/
def State.resetSecurity (s : State) : Security :=
  { State.reset.sec with akey := none, spares := [], nextKey := s.sec.nextKey, meas := s.measured false, challenge := s.sec.challenge, record := s.sec.record }

/-- A host port after a module reset: requests and sessions are gone, and with every key slot the secure IDE streams (R440, R443, R494). -/
def HostPort.afterReset (h : HostPort) : HostPort :=
  { h with covered := [], waiting := [], invals := [], tunnels := [], sessions := [], keys := [], streams := NMap.mapV h.streams fun x => if x.1 = 1 then (2, x.2) else x }

/-- CFG_HP_STATUS after it: no stream is secure, and a locked TDI one of whose streams changed is in ERROR (R444, R451). -/
def State.hostAfterReset (old t : State) (p : Nat) : State :=
  let hit := ((NMap.find? old.hosts p).getD HostPort.init).streams.any fun (x : Nat × (Nat × Bool)) => x.2.1 == 1 && x.2.2
  let v := old.fld (aHpStatus p) 10 2
  (t.setFld (aHpStatus p) 8 2 0).setFld (aHpStatus p) 10 2 (if hit ∧ (v = 1 ∨ v = 2) then 3 else v)

/-- The sequence of R537 runs again from step 4, or holds: every store is cleared as R539 says; what the flash, the pins and the
management dies hold stays. The time base reads 0 until it starts at step 6, the nodes run in blocking mode (R4, R322, R537; log 51). -/
def State.restart (s : State) (step : Nat) : State :=
  let t : State := State.assignSites { State.reset with
    pending := s.pending, bootTime := 150000000, free := s.free, ids := s.ids, out := s.out, errlog := s.errlog, errSaved := s.errSaved, events := s.events
    dieState := s.lastingDies
    dieGen := (List.range 58).foldl (fun g d => NMap.put g d ((NMap.get 0 s.dieGen d + 1) % 65536)) s.dieGen
    hosts := NMap.mapV s.hosts HostPort.afterReset
    pins := s.pins, rlog := s.rlog, trips := s.trips, qfcIn := s.qfcIn, i3c := s.i3c
    mesh := { State.reset.mesh with links := NMap.mapV s.mesh.links fun x => let (m, sp) := linkMode x.lanes; { BLink.init with mode := m, was := m, spares := sp, lanes := x.lanes } }
    mgr := { State.reset.mgr with images := s.mgr.images }, sec := s.resetSecurity
    regs := s.regs.filter fun (x : Nat × W64) => keptReg x.1
    phase := if s.holds then .held else .running }
  let mep := s.fld (aSec 8) 0 32 + (s.fld (aSec 0) 6 1 == 1 || s.measured false != s.sec.meas).toNat
  let t := (((t.cohAll 1).setFld aCfgBoot 0 4 step).setFld aCfgBoot 4 1 0).setFld (aPwr 0x20) 14 10 (s.fld (aPwr 0x20) 14 10)
  let t := (t.setReg (aSec 0) (setBits (s.reg (aSec 0)) 5 2 0)).setReg (aSec 8) (setBits (s.reg (aSec 8)) 0 32 mep)
  let t := State.hostAfterReset s (State.hostAfterReset s ((t.setFld 0x100048 0 1 0).setFld 0x101048 0 1 0) 0) 1
  ((t.setFld (aSec 0x10) 0 2 (s.fld (aSec 0x10) 0 2)).setFld (aCqG 0x48) 8 8 (s.fld (aCqG 0x48) 8 8)).withRetired

/-- Ends every running job with reason 0x08 (R463, R554). -/
def State.endJobs (s : State) : State := (List.range 64).foldl (fun s sl => s.jobEnd sl 8 0) s

/-- The record of a module reset, saved in flash (R546, R554). -/
def State.resetRecord (s : State) (cause : Nat) : State :=
  (s.record { sev := 4, block := 1, code := 0x8007, detail := cause }).setFld aCfgBoot 8 4 cause

/-- A module reset with its cause: 1 RESET_N, 2 shared machinery, 3 thermal trip, 4 MRESET (R554). -/
def State.moduleReset (s : State) (cause : Nat) : State := ((s.endJobs).resetRecord cause).restart 3

end Sys2Proof.Machine
end

