-- ==== Sys2Proof/Machine/CohHome.lean ====
section
/-! DEFINITION. The home side of coherence: directory, grants, far atomics, transactions (R307 to R327). -/

namespace Sys2Proof.Machine

/-- The regime of a node: 0 normal, 1 blocking, 2 switching (R332). -/
def State.cohMode (s : State) (n : Nat) : Nat := s.fld (aCoh n 0) 0 2

/-- Directory state of a line; none is U (R309). -/
def State.dirOf (s : State) (n line : Nat) : Option DirEnt := NMap.find? (s.node n).dir line

/-- Writes the directory state of a line at a grant. -/
def State.setDir (s : State) (n line : Nat) (e : Option DirEnt) : State :=
  let x := s.node n
  match e with
  | some d => s.putNode n { x with dir := NMap.put x.dir line d, granted := NMap.put x.granted line x.clock, clock := x.clock + 1 }
  | none => s.putNode n { x with dir := NMap.del x.dir line, granted := NMap.del x.granted line }

/-- OUT of an owner: non-ownership forwards whose transactions have not completed (R309). -/
def State.outOf (s : State) (n line owner : Nat) : Nat :=
  ((s.node n).txns.filter fun t => t.line == line && t.out == some owner).length

/-- Opens a transaction. -/
def State.openTxn (s : State) (n : Nat) (t : Txn) : State := let x := s.node n; s.putNode n { x with txns := x.txns ++ [t] }

/-- A transaction that only the requester's Done ends. -/
def plainTxn (q : CohReq) (out : Option Nat) : Txn := ⟨q.line, q.src, q.tag, out, 0, false, .nothing, true⟩

/-- Halves of the broadcast mask (R319). -/
def State.bmask (s : State) : List Nat := (List.range 64).filter fun h => bit (s.reg (aCoh 0 0x50)) h

/-- Directory bank and set of a line (R309). -/
def dirBank (line : Nat) : Nat := (bits line 0 4) ^^^ (bits line 4 4)
def dirSet (line : Nat) : Nat := (bits line 8 14) ^^^ (bits line 22 14)

/-- The recorded halves of an S or B entry. -/
def State.sharers (s : State) : DirEnt → List Nat
  | .s ps => ps
  | .b => s.bmask
  | _ => []

/-- Sends Inv to halves, the acks to the home or to a requester (R312, R319). -/
def State.sendInvs (s : State) (n line : Nat) (hs : List Nat) (ackTo : Option Party) (bcast : Bool) : State :=
  let s := if bcast then s.nodeCount n 3 1 else s
  hs.foldl (fun s h => s.send (.inv h line n ackTo)) s

/-- Reads a line from memory for a requester: bytes counted, poison noted (R296). -/
def State.homeRead (s : State) (n line : Nat) : State × LineData := ((s.nodeCount n 0 128).poisonRead line 15, s.memData line)

/-- Writes bytes of a line to memory: a wholly written burst loses its poison, a merged one keeps it (R294, R296). -/
def State.homeWrite (s : State) (n line : Nat) (bs : List (Nat × Byte)) : State :=
  let s := bs.foldl (fun (s : State) b => { s with mem := s.mem.write (128 * line + b.1) b.2 }) s
  let w := wholeSectors bs
  let s := (List.range 4).foldl (fun s i => if w.getLsbD i then s.setPoison (4 * line + i) false else s) s
  s.nodeCount n 1 (32 * ((List.range 4).filter fun i => (bodySectors (.write bs)).getLsbD i).length)

/-- Writes the dirty sectors that an owner returned; a poison mark goes with them (R266, R295). -/
def State.homeWriteBack (s : State) (n line : Nat) (d : LineData) : State :=
  (List.range 4).foldl (fun s i =>
    if d.dirty.getLsbD i then
      let s := (s.putSector (4 * line + i) ((d.sec.getD i none).getD 0)).nodeCount n 1 32
      if d.poison.getLsbD i then s.poisonBurst (4 * line + i) false else s.setPoison (4 * line + i) false
    else s) s

/-- A line leaves the far buffer; its data stand in memory (R310, R312, R327). -/
def State.farFree (s : State) (n line : Nat) : State :=
  let s := s.setDir n line none
  let x := s.node n
  s.putNode n { x with far := x.far.filter (· != line) }

/-- A line becomes the most recently used of the far buffer of 64 lines; the least recently used one leaves it (R327). -/
def State.farUse (s : State) (n line last : Nat) : State :=
  let s := s.setDir n line (some (.h last))
  let x := s.node n
  let l := x.far.filter (· != line)
  let s : State := if 64 ≤ l.length then match l with | v :: _ => s.farFree n v | [] => s else s
  let y := s.node n
  s.putNode n { y with far := y.far.filter (· != line) ++ [line] }

/-- Performs an atomic in memory: old values by lane, poison (R201, R327). -/
def State.farAtom (s : State) (a : AtomReq) : State × List (Nat × Nat) × Bool :=
  let w := atyBytes a.aty
  let r := atomLanes a.aop a.aty (s.mem.readLE a.addr w) a.lanes
  ({ s with mem := s.mem.writeLE a.addr w r.1 }, r.2, s.poisoned (a.addr / 32))

/-- The number of the half of a party, 64 for one without. -/
def partyHalf : Party → Nat
  | .half h => h
  | _ => 64

/-- What follows when a transaction's acks and owner data have come (R312, R326): a write and Cmp, a far atomic, the freeing of
an entry. The transaction is gone unless it awaits Done. -/
def State.finishTxn (s : State) (n : Nat) (t : Txn) : State :=
  if t.acks ≠ 0 || t.data then s else
  let drop (s : State) : State := let x := s.node n; s.putNode n { x with txns := x.txns.erase t }
  match t.next with
  | .nothing => if t.done then s else drop s
  | .write bs => ((drop s).homeWrite n t.line bs).send (.cmp t.src t.tag n t.line false)
  | .free => (drop s).setDir n t.line none
  | .far a =>
    let (s, vals, bad) := s.farAtom a
    let x := s.node n
    (s.putNode n { x with txns := x.txns.map fun k => if k = t then { t with next := .nothing } else k }).send (.atomret t.src t.tag n t.line vals bad)

/-- Changes the first transaction that `p` names, and goes on with it. -/
def State.stepTxn (s : State) (n : Nat) (p : Txn → Bool) (f : Txn → Txn) : State :=
  match (s.node n).txns.find? p with
  | none => s
  | some t =>
    let x := s.node n
    let go (l : List Txn) : List Txn := l.map fun k => if k = t then f t else k
    (s.putNode n { x with txns := go x.txns }).finishTxn n (f t)

/-- Sends the completions that waited for OUT to reach 0 (R312). -/
def State.releaseHeld (s : State) (n : Nat) : State :=
  let x := s.node n
  let go := x.held.filter fun h => s.outOf n h.1 h.2.1 == 0
  go.foldl (fun s h => s.send h.2.2) (s.putNode n { x with held := x.held.filter fun h => !(s.outOf n h.1 h.2.1 == 0) })

/-- Whether a frame side that holds a line is being rewritten (R305). -/
def State.rewritten (s : State) (n line : Nat) : Bool :=
  match s.place (128 * line) with
  | some (_, c, f) => (s.node n).rewriting.contains (f, decide (16 ≤ c))
  | none => false

/-- Whether a request for a line can be granted now (R305, R320, R322): no earlier grant still awaits data or acks at the home;
in blocking mode the line is not busy. -/
def State.grantable (s : State) (n line : Nat) : Bool :=
  let ts := (s.node n).txns.filter fun t => t.line == line
  !s.rewritten n line &&
  (match s.cohMode n with
   | 0 => ts.all fun t => t.acks == 0 && !t.data
   | 1 => ts.isEmpty
   | _ => false)

/-- A request that needs an entry finds one, or in a full set frees one first (R310): state, and whether it may go on. -/
def State.needEntry (s : State) (n line : Nat) : State × Bool :=
  let x := s.node n
  if (s.dirOf n line).isSome then (s, true) else
  let same := x.dir.filter fun (p : Nat × DirEnt) => dirBank p.1 == dirBank line && dirSet p.1 == dirSet line
  if same.length < 16 then (s, true) else
  if x.txns.any fun t => t.next == .free && dirBank t.line == dirBank line && dirSet t.line == dirSet line then (s, false) else
  let rank : DirEnt → Nat
    | .s ps => ps.length
    | .b => 5
    | .h _ => 6
    | .x _ _ false => 7
    | .x _ _ true => 8
  let cand := same.filter fun p => decide (rank p.2 < 8) && !x.txns.any fun t => t.line == p.1
  let older (p q : Nat × DirEnt) : Bool := rank p.2 < rank q.2 || (rank p.2 == rank q.2 && NMap.get 0 x.granted p.1 < NMap.get 0 x.granted q.1)
  match cand.foldl (fun (b : Option (Nat × DirEnt)) p => match b with | some q => if older p q then some p else b | none => some p) none with
  | none => (s, false)
  | some (v, e) =>
    let s := s.nodeCount n 5 1
    let t : Txn := ⟨v, .agent .mgmt, 0, none, 0, false, .free, false⟩
    match e with
    | .h _ => (s.farFree n v, true)
    | .x o tag _ => ((s.openTxn n { t with data := true }).send (.recall ⟨n, o, tag, v, t.src, 0⟩), false)
    | e =>
      let hs := s.sharers e
      if hs.isEmpty then (s.setDir n v none, true)
      else (((s.openTxn n { t with acks := hs.length }).sendInvs n v hs none (e == .b)), false)

/-- The miss entry that a request came from. -/
def State.missOf (s : State) (q : CohReq) : Option Miss :=
  match q.src with
  | .half h => (s.half h).miss.find? fun m => m.line == q.line && m.tag == q.tag
  | _ => none

/-- The access that a request of ownership is for, where it must be performed at a reduction-held line (R245, R312): none where it was for
contributions, which then go on to the line's home half. -/
def State.missOp (s : State) (q : CohReq) : OpBody :=
  match s.missOf q with
  | some m =>
    match m.reqs.find? fun r => match r.body with | .read _ => false | _ => true with
    | some r => .body r.body
    | none => .body (.read (if m.reqs.isEmpty && !m.contribs.isEmpty then 0 else 15))
  | none => .body (.read 15)

/-- Sends FwdRd or FwdOp to an owner; a request that would be the 256th waits (R309). -/
def State.forward (s : State) (q : CohReq) (o tag : Nat) (mk : Fwd → Instr) : State × Bool :=
  if 255 ≤ s.outOf q.node q.line o then (s, false)
  else ((s.openTxn q.node (plainTxn q (some o))).send (mk ⟨q.node, o, tag, q.line, q.src, q.tag⟩), true)

/-- Data from memory to a requester. -/
def State.dataTo (s : State) (q : CohReq) (g : Granted) (acks : Nat) : State :=
  let (s, d) := s.homeRead q.node q.line
  s.send (.dataMsg ⟨q.src, q.tag, q.node, q.line, g, acks, d, none⟩)

/-- RdS at the home (R312): state, whether granted. -/
def State.homeRds (s : State) (q : CohReq) : State × Bool :=
  let n := q.node
  let r := partyHalf q.src
  let fromU (s : State) : State × Bool :=
    let (s, ok) := s.needEntry n q.line
    if !ok then (s, false) else
    let ro := match s.missOf q with | some m => m.ro | none => false
    if ro then (((s.openTxn n (plainTxn q none)).setDir n q.line (some (.s [r]))).dataTo q .s 0, true)
    else
      let hold := match s.dirOf n q.line with | some (.x _ _ h) => h | _ => false
      (((s.openTxn n (plainTxn q none)).setDir n q.line (some (.x r q.tag hold))).dataTo q .e 0, true)
  match s.dirOf n q.line with
  | none => fromU s
  | some (.s ps) =>
    let e : DirEnt := if ps.contains r then .s ps else if ps.length < 4 then .s (ps ++ [r]) else .b
    (((s.openTxn n (plainTxn q none)).setDir n q.line (some e)).dataTo q .s 0, true)
  | some .b => (((s.openTxn n (plainTxn q none)).setDir n q.line (some .b)).dataTo q .s 0, true)
  | some (.x o tag hold) =>
    if o = r then (if s.outOf n q.line o = 0 then fromU s else (s, false))
    else if hold then s.forward q o tag fun f => .fwdop f (.body (.read 15))
    else (((s.openTxn n { plainTxn q none with data := true }).setDir n q.line (some (.s [o, r]))).send (.fwds ⟨n, o, tag, q.line, q.src, q.tag⟩), true)
  | some (.h _) => fromU (s.farFree n q.line)

/-- RdX and RdXN, and an Atom placed near (R312, R326): `data` false answers with Grant. -/
def State.homeOwn (s : State) (q : CohReq) (hold data : Bool) : State × Bool :=
  let n := q.node
  let r := partyHalf q.src
  let answer (s : State) (acks : Nat) : State := if data then s.dataTo q .m acks else s.send (.grant q.src q.tag n q.line acks)
  let own (s : State) (hold : Bool) : State := (s.openTxn n (plainTxn q none)).setDir n q.line (some (.x r q.tag hold))
  let fromU (s : State) : State × Bool :=
    let (s, ok) := s.needEntry n q.line
    if !ok then (s, false) else (answer (own s hold) 0, true)
  match s.dirOf n q.line with
  | none => fromU s
  | some (.x o tag held) =>
    if o = r then (if s.outOf n q.line o = 0 then (answer (own s (hold || held)) 0, true) else (s, false))
    else if held then s.forward q o tag fun f => .fwdop f (s.missOp q)
    else ((own s hold).send (.fwdx ⟨n, o, tag, q.line, q.src, q.tag⟩), true)
  | some (.h _) => fromU (s.farFree n q.line)
  | some e =>
    let hs := (s.sharers e).filter (· != r)
    (answer ((own s hold).sendInvs n q.line hs (some q.src) (e == .b)) hs.length, true)

/-- RdNA and RdFine (R288, R312): the sectors of the mask, from memory or by a forward. -/
def State.homeRead_ (s : State) (q : CohReq) (m : BitVec 4) : State × Bool :=
  let n := q.node
  let mem (s : State) : State × Bool :=
    let d := s.memData q.line
    let part : LineData := ⟨(List.range 4).map fun i => if m.getLsbD i then d.sec.getD i none else none, d.poison &&& m, 0⟩
    let s := (s.nodeCount n 0 (32 * ((List.range 4).filter fun i => m.getLsbD i).length)).poisonRead q.line m
    ((s.openTxn n (plainTxn q none)).send (.dataMsg ⟨q.src, q.tag, n, q.line, .none, 0, part, none⟩), true)
  match s.dirOf n q.line with
  | some (.x o tag hold) =>
    if hold && decide (o ≠ partyHalf q.src) then s.forward q o tag fun f => .fwdop f (.body (.read m))
    else s.forward q o tag fun f => .fwdrd f
  | some (.h _) => mem (s.farFree n q.line)
  | _ => mem s

/-- WrNA (R312): written when the acks or the recalled line have come, answered by Cmp. -/
def State.homeWrna (s : State) (q : CohReq) (bs : List (Nat × Byte)) : State × Bool :=
  let n := q.node
  let t : Txn := ⟨q.line, q.src, q.tag, none, 0, false, .write bs, false⟩
  match s.dirOf n q.line with
  | none => ((s.homeWrite n q.line bs).send (.cmp q.src q.tag n q.line false), true)
  | some (.h _) => (((s.farFree n q.line).homeWrite n q.line bs).send (.cmp q.src q.tag n q.line false), true)
  | some (.x o tag hold) =>
    if hold && decide (o ≠ partyHalf q.src) then s.forward q o tag fun f => .fwdop f (.body (.write bs))
    else (((s.openTxn n { t with data := true }).setDir n q.line none).send (.recall ⟨n, o, tag, q.line, q.src, q.tag⟩), true)
  | some e =>
    let hs := s.sharers e
    let t : Txn := { t with acks := hs.length }
    (((s.openTxn n t).setDir n q.line none).sendInvs n q.line hs none (e == .b) |>.finishTxn n t, true)

/-- PutM and DropM (R312, R318): from the recorded owner under its tag, or stale. -/
def State.homePut (s : State) (q : CohReq) (d : Option LineData) : State × Bool :=
  let n := q.node
  let r := partyHalf q.src
  let done (s : State) (stale : Bool) : State := s.send (.cmp q.src q.tag n q.line stale)
  match s.dirOf n q.line with
  | some (.x o tag _) =>
    if o = r ∧ tag = q.tag then
      let s := match d with | some d => s.homeWriteBack n q.line d | none => s
      let s := s.setDir n q.line none
      if s.outOf n q.line r = 0 then (done s false, true)
      else
        let x := s.node n
        (s.putNode n { x with held := x.held ++ [(q.line, r, .cmp q.src q.tag n q.line false)] }, true)
    else (done s true, true)
  | _ => (done s true, true)

/-- HoldEnd (R312). -/
def State.homeHoldend (s : State) (q : CohReq) : State × Bool :=
  let n := q.node
  let r := partyHalf q.src
  let m : Instr := .cmp q.src q.tag n q.line false
  match s.dirOf n q.line with
  | some (.x o tag true) =>
    if o = r then
      let s := s.setDir n q.line (some (.x o tag false))
      if s.outOf n q.line r = 0 then (s.send m, true)
      else
        let x := s.node n
        (s.putNode n { x with held := x.held ++ [(q.line, r, m)] }, true)
    else (s.send m, true)
  | _ => (s.send m, true)

/-- A far atomic (R326): the line comes into the far buffer, the operation is performed, the last requester recorded. -/
def State.homeFar (s : State) (q : CohReq) (a : AtomReq) : State × Bool :=
  let n := q.node
  let r := partyHalf q.src
  let (s, ok) := s.needEntry n q.line
  if !ok then (s, false) else
  let t : Txn := ⟨q.line, q.src, q.tag, none, 0, false, .far a, true⟩
  let fin (s : State) (t : Txn) : State := (((s.openTxn n t).farUse n q.line r).nodeCount n 7 1).finishTxn n t
  match s.dirOf n q.line with
  | some (.x o tag _) =>
    if o = r then (if s.outOf n q.line o = 0 then (fin s t, true) else (s, false))
    else ((fin s { t with data := true }).send (.recall ⟨n, o, tag, q.line, q.src, q.tag⟩), true)
  | some (.s ps) => ((fin s { t with acks := ps.length }).sendInvs n q.line ps none false, true)
  | some .b => ((fin s { t with acks := s.bmask.length }).sendInvs n q.line s.bmask none true, true)
  | _ => (fin s t, true)

/-- Whether an Atom is contended (R326). -/
def contended (r : Nat) : Option DirEnt → Bool
  | some .b => true
  | some (.s ps) => ps.any (· != r)
  | some (.x o _ _) => o != r
  | some (.h l) => l != r
  | none => false

/-- The two-bit counter after an Atom, and whether it is placed far (R326). -/
def predict (c : Nat) (cont : Bool) : Nat × Bool :=
  let c := if cont then min 3 (c + 1) else c - 1
  (c, decide (2 ≤ c))

/-- The counter of a line (R326). -/
def predIndex (line : Nat) : Nat := (bits line 0 12) ^^^ (bits line 12 12)

/-- Atom at the home (R325, R326). -/
def State.homeAtom (s : State) (q : CohReq) (a : AtomReq) : State × Bool :=
  let n := q.node
  let r := partyHalf q.src
  match s.dirOf n q.line with
  | some (.x o tag true) =>
    if o ≠ r then s.forward q o tag fun f => .fwdop f (.body (.atom a)) else (s.homeOwn q true true)
  | e =>
    let force := s.fld (aCoh n 8) 0 2
    let plain := match s.missOf q with | some m => m.policy == 0 | none => false
    if !plain || force = 2 then s.homeFar q a
    else
      let x := s.node n
      let p := predict (NMap.get 1 x.pred (predIndex q.line)) (contended r e)
      let t := s.putNode n { x with pred := NMap.set 1 x.pred (predIndex q.line) p.1 }
      let res := if p.2 && force = 0 then t.homeFar q a else
        let u := t.homeOwn q false true
        (if u.2 then u.1.nodeCount n 6 1 else u.1, u.2)
      if res.2 then res else
        let y := res.1.node n
        (res.1.putNode n { y with pred := x.pred }, false)

/-- Who sends a request message, and for which line at which node. -/
def reqOf : Instr → Option CohReq
  | .rds q | .rdx q _ | .rdxn q | .rdna q | .rdfine q _ | .wrna q _ | .putm q _ | .dropm q | .holdend q | .atomRequest q _ => some q
  | _ => none

/-- A node holds at most 1,024 fine requests (R289). -/
def State.fineFull (s : State) (n : Nat) : Bool :=
  decide (1024 ≤ ((s.node n).txns.filter fun t => match t.src with | .fine .. => true | _ => false).length)

/-- A fine request is a demand access of the half of its core (R227). -/
def State.fineTouch (s : State) (q : CohReq) : State :=
  match q.src with
  | .fine core slot _ => match (NMap.find? (s.core core).groups slot).bind fun g => NMap.find? (s.core core).blocks g.block with
    | some b => s.touchStream (core / 32) b.slice q.line
    | none => s
  | _ => s

/-- The grant of a request by its kind (R312). -/
def State.grant (s : State) : Instr → State × Bool
  | .rds q => s.homeRds q
  | .rdx q hold => s.homeOwn q hold true
  | .rdxn q => s.homeOwn q false false
  | .rdna q => s.homeRead_ q 15
  | .rdfine q i =>
    if s.fineFull q.node then (s, false) else
    let r := s.homeRead_ q (1#4 <<< (i % 4))
    (if r.2 then (r.1.nodeCount q.node 2 1).fineTouch q else r.1, r.2)
  | .wrna q bs => s.homeWrna q bs
  | .putm q d => s.homePut q (some d)
  | .dropm q => s.homePut q none
  | .holdend q => s.homeHoldend q
  | .atomRequest q a => s.homeAtom q a
  | _ => (s, false)

/-- The requests of the wait lists are granted in arrival order as their lines come free; in normal service there are no wait
lists, and what cannot be granted waits in its lane (R322, R323). -/
def State.drainWaits (s : State) (n : Nat) : State :=
  if s.cohMode n = 2 then s else
  let ws := (s.node n).waits
  let go (acc : State × List Instr) (i : Instr) : State × List Instr :=
    match reqOf i with
    | none => acc
    | some q =>
      if acc.2.any (fun j => match reqOf j with | some p => p.line == q.line | none => false) || !acc.1.grantable n q.line then (acc.1, acc.2 ++ [i])
      else
        let r := acc.1.grant i
        if r.2 then (r.1, acc.2) else (r.1, acc.2 ++ [i])
  let (s, kept) := ws.foldl go (s, [])
  if s.cohMode n = 1 then s.putNode n { s.node n with waits := kept }
  else
    let s := s.putNode n { s.node n with waits := [] }
    { s with flight := { s.flight with net := kept ++ s.flight.net } }

/-- After a transaction has moved on: withheld completions and waiting requests. -/
def State.afterTxn (s : State) (n : Nat) : State := (s.releaseHeld n).drainWaits n

/-- A request reaches the home. It stays on its way while an earlier one of the same sender for the line is (R315), or while
its line, its entry or its owner's OUT makes it wait; in blocking mode a busy line's request goes to the bank's wait list of
32 entries, and a full list stops the lane (R322). -/
def State.request (s : State) (i : Instr) : State :=
  match reqOf i with
  | none => s
  | some q =>
    if !s.flight.net.contains i then s else
    let before := s.flight.net.takeWhile fun j => j != i
    if before.any (fun j => match reqOf j with | some p => p.src == q.src && p.line == q.line | none => false) then s else
    if s.cohMode q.node = 2 then s else
    if s.cohMode q.node = 1 then
      let bank := (s.node q.node).waits.filter fun j => match reqOf j with | some p => dirBank p.line == dirBank q.line | none => false
      if 32 ≤ bank.length then s
      else
        let free := s.grantable q.node q.line && !bank.any fun j => match reqOf j with | some p => p.line == q.line | none => false
        let r := if free then (s.take i).grant i else (s.take i, false)
        if r.2 then r.1.afterTxn q.node
        else
          let x := r.1.node q.node
          r.1.putNode q.node { x with waits := x.waits ++ [i] }
    else if !s.grantable q.node q.line then s
    else
      let r := s.grant i
      if r.2 then (r.1.take i).afterTxn q.node else r.1

end Sys2Proof.Machine
end

