-- ==== Sys2Proof/Machine/BugleOps.lean ====
section
/-! DEFINITION. The grid of dies, and the check of an arriving Bugle message (R12 to R15, R365, R366, R372). -/

namespace Sys2Proof.Machine

/-- Bugle position of a physical die in the order of R490: row × 6 + column, 54 to 57 port dies, 58 M0, 59 M1 (R365). -/
def posOf (d : Nat) : Nat :=
  if d < 36 then 6 * [0, 2, 3, 5, 6, 8].getD (d / 6) 0 + d % 6
  else if d < 54 then 6 * [1, 4, 7].getD ((d - 36) / 6) 0 + (d - 36) % 6
  else d

/-- The physical die at a grid position (R13). -/
def dieAt (c r : Nat) : Nat :=
  match r with
  | 0 => c | 1 => 36 + c | 2 => 6 + c | 3 => 12 + c | 4 => 42 + c | 5 => 18 + c | 6 => 24 + c | 7 => 48 + c | _ => 30 + c

/-- The die and edge that an edge faces: grid dies north, east, south, west; port dies from north to south, management dies from
west to east (R15, R372). -/
def facing (d e : Nat) : Option (Nat × Nat) :=
  if d < 54 then
    let c := posOf d % 6
    let r := posOf d / 6
    match e with
    | 0 => if 0 < r then some (dieAt c (r - 1), 2) else if c = 2 ∨ c = 3 then some (58, c - 2) else none
    | 1 => if c < 5 then some (dieAt (c + 1) r, 3) else if r < 4 then some (56, r) else if 4 < r then some (57, r - 5) else none
    | 2 => if r < 8 then some (dieAt c (r + 1), 0) else if c = 2 ∨ c = 3 then some (59, c - 2) else none
    | 3 => if 0 < c then some (dieAt (c - 1) r, 1) else if r < 4 then some (54, r) else if 4 < r then some (55, r - 5) else none
    | _ => none
  else if d < 58 then
    if 3 < e then none else some (dieAt (if d < 56 then 0 else 5) (e + if d % 2 = 0 then 0 else 5), if d < 56 then 3 else 1)
  else if d < 60 then
    if 1 < e then none else some (dieAt (e + 2) (if d = 58 then 0 else 8), if d = 58 then 0 else 2)
  else none

/-- Physical die of a NET window, and the window of a die; reserve and failed sites have none (R362, R372). -/
def State.dieOfWindow (s : State) (w : Nat) : Nat := if w < 32 then s.sites.getD w 60 else if w < 50 then w + 4 else if w < 54 then w + 4 else if w < 56 then w + 4 else 60
def State.windowOf (s : State) (d : Nat) : Option Nat :=
  if d < 36 then s.sites.findIdx? (· == d) else if d < 60 then some (d - 4) else none

/-- Whether a logical die is in service; an absent one holds no site (R23). -/
def State.present (s : State) (d : Nat) : Bool := decide (s.sites.getD d 99 < 36)

/-- Class, words and senders of each message type (R366): 0 management dies, 1 any die, 2 compute dies, 3 port and management dies. -/
def bugleRow (ty : Nat) : Nat × Nat × Nat :=
  match ty with
  | 0x01 => (0, 4, 0) | 0x02 => (0, 3, 0) | 0x03 => (0, 1, 0) | 0x04 => (0, 1, 0) | 0x05 => (0, 3, 0) | 0x06 => (0, 1, 1)
  | 0x10 => (1, 2, 0) | 0x11 => (1, 2, 2) | 0x12 => (1, 2, 3) | 0x13 => (1, 2, 0) | 0x14 => (1, 4, 0) | 0x15 => (1, 2, 2)
  | 0x16 => (1, 2, 1) | 0x17 => (1, 2, 1) | 0x20 => (2, 4, 1) | 0x21 => (2, 4, 1) | _ => (3, 0, 0)

/-- Whether a die position may send to everyone or in class 0 by the table. -/
def bugleSender (who src : Nat) : Bool :=
  match who with
  | 0 => src == 58 || src == 59
  | 1 => decide (src < 60)
  | 2 => decide (src < 54) && !([1, 4, 7].contains (src / 6))
  | _ => decide (54 ≤ src) && decide (src < 60)

/-- Whether a message agrees with the table of R366. -/
def bugleOk (ty : Nat) (b : Bugle) : Bool :=
  let (cls, words, who) := bugleRow ty
  cls != 3 && b.cls == cls && b.words == words && (bugleSender who b.src || (b.cls != 0 && b.dst != 63))

/-- A message that the module sends itself. -/
def bugleTo (ty src dst : Nat) : Bugle := ⟨src, dst, (bugleRow ty).1, (bugleRow ty).2.1⟩

/-- An arriving message leaves the network; one that breaks the table is discarded and counted (R366). -/
def State.bugleIn (s : State) (ty : Nat) (b : Bugle) (i : Instr) (f : State → State) : State :=
  let s := s.take i
  if bugleOk ty b then f s else s.satInc (aNet 0x28) 48 16

/-- A sensor crosses its trip point: the die stops and sends TRIP (R300, R528). -/
def State.tripFire (s : State) (die : Nat) : State :=
  ({ s with trips := if s.trips.contains die then s.trips else die :: s.trips }).send (.trip (bugleTo 6 (posOf die) 63) die)

/-- TRIP is received: every core clock stops, every job ends with reason 0x08, THERM_TRIP_N is asserted; the module waits for the
restart of R529 (R528). -/
def State.trip (s : State) (die : Nat) : State :=
  let r := ((s.endJobs).resetRecord 3).restart 3
  { r with phase := .tripped, trips := if r.trips.contains die then r.trips else die :: r.trips }

end Sys2Proof.Machine
end

