-- ==== Sys2Proof/Machine/Access.lean ====
section
/-! DEFINITION. Who may write a register, and the records of refused accesses (R5, R8, R429, R447, R574, R576). -/

namespace Sys2Proof.Machine

/-- The block number that an error record gives an offset of BAR0 (R576). -/
def blockOf (a : Nat) : Nat :=
  if a < 0x100000 then 0 else if a < 0x200000 then 1 else if a < 0x300000 then 2 else if a < 0x400000 then 3 else if a < 0x500000 then 4
  else if a < 0x600000 then 5 else if a < 0x700000 then 6 else if a < 0x800000 then 7 else if a < 0xC00000 then 8 else if a < 0x1000000 then 9
  else if a < 0x2000000 then 10 else if a < 0x2100000 then 11 else if a < 0x2200000 then 12 else 0

/-- The record of a bad access of kind 0 to 4, or 5 of a non-owner's write; host 2 stands for a tunnelled access (R576). -/
def State.badAccess (s : State) (host a kind : Nat) : State :=
  s.record { sev := 6, block := if kind = 5 then 0 else blockOf a, code := if kind = 5 then 1 else 0x8000, die := s.actDie, unit := host, detail := a % 2 ^ 28 + kind * 2 ^ 28 }

/-- Whether the manager function of a host port, or the pod owner as 2, owns the module (R430). -/
def State.owns (s : State) (host : Nat) : Bool := s.fld aOwner 19 2 == host

/-- Whether the blocks of BAR0 respond: before DEV_READY only CFG and MGT, once management firmware runs (R447, R566). -/
def State.responds (s : State) (a : Nat) : Bool := s.phase == .ready || (a < 0x200000 && (s.phase == .running || s.phase == .held || s.phase == .stopped || s.phase == .tripped))

/-- A write of a manager function: discarded where the block does not respond; one from a function that does not own the module is
discarded, flagged and recorded, but for its own port's mailbox (R429, R447). -/
def State.mgrWrite (s : State) (host a : Nat) (f : State → State) : State :=
  if !s.responds a then s
  else if s.owns host || (host < 2 && decide (0x100000 + 0x1000 * host ≤ a) && decide (a < 0x101000 + 0x1000 * host)) then f s
  else (if host < 2 then s.flag (aHpErr host) 1 else s).badAccess host a 5

/-- The slice that a PASID of a host port is bound to (R432). -/
def State.pasidSlice (s : State) (port : Nat) (pasid : Option Nat) : Option Nat :=
  match pasid with
  | none => none
  | some p => (List.range 64).find? fun sl => s.exists? sl && s.portOf sl == port && s.fld (aSlc sl 0) 2 20 == p

/-- A request to PF1 BAR2 on a port, reaching the slice its PASID is bound to; before DEV_READY, while LOCK is 2 or without a bound slice it is unbound, with
the TDI in ERROR discarded (R434, R444, R447, R505). -/
def State.tenant (s : State) (port : Nat) (pasid : Option Nat) (f : Nat → State → State) : State :=
  match (if s.phase ≠ .ready || s.fld (aSec 0) 0 2 == 2 then none else s.pasidSlice port pasid) with
  | none => (s.flag (aHpErr port) 0).satInc (aHpCnt port) 0 32
  | some sl => if s.fld (aHpStatus port) 10 2 = 3 then s else f sl s

end Sys2Proof.Machine
end

