-- ==== Sys2Proof/Machine/EngineMem.lean ====
section
/-! DEFINITION. The accesses of engines that act on memory in one step: queue engines, dispatchers, the coordinator, Vetch engines, link
engines, the slice manager and the security engine. They never allocate in an LLM (R239); what the halves that serve them keep of them is
said here once (R253, R256, R258, R267). -/

namespace Sys2Proof.Machine

/-- One line of an engine's access at the half that serves it: its own half for scratch, the owner's otherwise. `c` is the slice and the
class that the access is counted for; a write closes the combine window, and clean copies that it invalidates are lost (R256, R258,
R267). An access that a memory node serves is counted there and at no half, and a read tells of a poisoned burst (R296, R306). -/
def State.engLine (s : State) (c : Option (Nat × Nat)) (wr : Bool) (line : Nat) (secs : BitVec 4) : State :=
  let close (s : State) (h : Nat) : State := if wr then s.closeWindow h line else s
  if isScratch line then
    let h := scratchHalf (128 * line)
    close (match c with | some (sl, _) => s.countAccess h sl 3 (sliceOf line) true | none => s) h
  else match s.ownerHalf line with
    | some h =>
      let l := NMap.find? (s.half h).lines line
      let s := match c, l with | some (sl, k), some l => s.countAccess h sl k (sliceOf line) (secs &&& ~~~l.valid == 0) | _, _ => s
      close (s.firstDemand h line) h
    | none =>
      let s := match s.homeNode line with
        | some n =>
          let s := s.nodeCount n wr.toNat (32 * ((List.range 4).countP fun i => secs.getLsbD i))
          if wr then s else s.poisonRead line secs
        | none => s
      if !wr then s else NMap.foldV s.halves s fun s h x => match NMap.find? x.lines line with
        | some l => let s := s.closeWindow h line; if l.pf then s.incSreg l.slice 0xC0B0 else s
        | none => s

/-- The sectors of a line that a range of bytes touches. -/
def rangeSectors (pa n line : Nat) : BitVec 4 :=
  (List.range 4).foldl (fun m i => if pa < 128 * line + 32 * i + 32 ∧ 128 * line + 32 * i < pa + n then m ||| (1#4 <<< i) else m) 0

/-- Every line of a range. -/
def State.engNote (s : State) (c : Option (Nat × Nat)) (wr : Bool) (pa n : Nat) : State :=
  (List.range ((pa % 128 + n + 127) / 128)).foldl (fun s i => s.engLine c wr (pa / 128 + i) (rangeSectors pa n (pa / 128 + i))) s

/-- A read and a write of an engine (R178, R206, R239). -/
def State.engRead (s : State) (c : Option (Nat × Nat)) (pa n : Nat) : State × List Byte × Bool := (s.engNote c false pa n).engineRead pa n
def State.engWrite (s : State) (c : Option (Nat × Nat)) (pa : Nat) (bs : List Byte) : State := (s.engNote c true pa bs.length).engineWrite pa bs

/-- Whether a range of a slice's scratch reaches a unit that is still being zeroed (R253). -/
def State.zeroingAt (s : State) (sl ofs n : Nat) : Bool :=
  (List.range ((ofs % 2 ^ 22 + n + (2 ^ 22 - 1)) / 2 ^ 22)).any fun i =>
    match s.scrmap sl (ofs / 2 ^ 22 + i) with | some (h, u) => (s.half h).zeroing.contains u | none => false

/-- Whether a scratch unit of a slice is still being zeroed: accesses of engines for it wait (R253). -/
def State.sliceZeroing (s : State) (sl : Nat) : Bool :=
  (List.range 512).any fun i => match s.scrmap sl i with | some (h, u) => (s.half h).zeroing.contains u | none => false

end Sys2Proof.Machine
end

