-- ==== Sys2Proof/Machine/LinkOps.lean ====
section
/-! DEFINITION. Routes of link packets, ports, and the sending of a packet or of a remote operation (R401 to R413). -/

namespace Sys2Proof.Machine

/-- Ring size and own coordinate of dimension `a` (R402). -/
def State.ring (s : State) (a : Nat) : Nat := s.fld (aLnk 0) (5 * a) 5 + 1
def State.coord (s : State) (a : Nat) : Nat := s.fld (aLnk 0) (15 + 5 * a) 5
/-- Coordinate `a` of module `m`. -/
def State.coordOf (s : State) (m a : Nat) : Nat :=
  if a = 0 then m % s.ring 0 else if a = 1 then m / s.ring 0 % s.ring 1 else m / s.ring 0 / s.ring 1
/-- This module's number (R402). -/
def State.ownModule (s : State) : Nat := s.coord 0 + s.ring 0 * (s.coord 1 + s.ring 1 * s.coord 2)

/-- Exit directions: 2a for + and 2a + 1 for − of dimension a, 6 + x for express port LP(12 + x). The ports of one, the
west port first (R401). -/
def dirPorts (d : Nat) : List Nat := if d < 6 then [4 * (d / 2) + 2 * (d % 2), 4 * (d / 2) + 2 * (d % 2) + 1] else [12 + (d - 6)]
/-- Port die of a link port (R15). -/
def portDie (p : Nat) : Nat := if 12 ≤ p then p - 12 else [0, 3, 1, 2].getD (p % 4) 0

/-- The default exit towards a module: dimension order, the shorter way, + on a tie; the alternate is the opposite direction
(R408, R410). -/
def State.defaultExit (s : State) (dst : Nat) : Option (Nat × Nat) :=
  ((List.range 3).find? fun a => s.coordOf dst a != s.coord a).map fun a =>
    let d := (s.coordOf dst a + s.ring a - s.coord a) % s.ring a
    if 2 * d ≤ s.ring a then (2 * a, 2 * a + 1) else (2 * a + 1, 2 * a)

/-- Primary and alternate exit of a destination; none for this module itself (R410, R411). -/
def State.exits (s : State) (dst : Nat) : Option (Nat × Nat) :=
  match NMap.find? s.routes (dst % 2 ^ 15) with
  | some r => some r
  | none => s.defaultExit (dst % 2 ^ 15)

def State.portUp (s : State) (p : Nat) : Bool := s.fld (aPort p 8) 0 2 == 2

/-- Grid column and row of a site (R12, R13). -/
def siteAt (x : Nat) : Nat × Nat := (x % 6, [0, 2, 3, 5, 6, 8].getD (x / 6) 0)
/-- Bridges from a place to a port die: a logical die, port die p as 100 + p, or management die m as 104 + m (R15, R340). -/
def State.pdDistance (s : State) (place pd : Nat) : Nat :=
  if 104 ≤ place then (if pd % 2 = place - 104 then 4 else 9)
  else if 100 ≤ place then (if place - 100 = pd then 0 else if (place - 100) / 2 = pd / 2 then 4 else 8)
  else
    let (c, r) := siteAt (s.sites.getD place 0)
    (if pd < 2 then c else 5 - c) + 1 + (if pd % 2 = 0 then r - 3 else 5 - r)

/-- The port of a direction that a packet from a place takes: fewer bridges, the west port on a tie (R409). -/
def State.portOfDir (s : State) (place d : Nat) : Option Nat :=
  match (dirPorts d).filter s.portUp with
  | [] => none
  | [p] => some p
  | p :: q :: _ => if s.pdDistance place (portDie q) < s.pdDistance place (portDie p) then some q else some p

/-- Direction and port for a destination: the alternate where no port of the primary is up (R410). -/
def State.wayOut (s : State) (place dst : Nat) : Option (Nat × Nat) :=
  match s.exits dst with
  | none => none
  | some (d, e) =>
    match s.portOfDir place d with
    | some p => some (d, p)
    | none => (s.portOfDir place e).map fun p => (e, p)

/-- Whether leaving in a direction crosses the dateline of its ring (R408). -/
def State.dateline (s : State) (d : Nat) : Bool :=
  d < 6 && (if d % 2 = 0 then s.coord (d / 2) + 1 == s.ring (d / 2) else s.coord (d / 2) == 0)

/-- The channel of a packet that leaves in a direction, having come in dimension `from_` (R404, R408). -/
def State.vcOut (s : State) (vc d : Nat) (from_ : Option Nat) : Nat :=
  if 4 ≤ vc then vc else
  let kept := match from_ with | some a => if a = d / 2 then vc % 2 else 0 | none => 0
  vc / 2 * 2 + (if s.dateline d then 1 else kept)

/-- Drops the oldest packets beyond 512 KiB (R405). -/
def trimSent (l : List Packet) : List Packet :=
  (l.reverse.foldl (fun (a : Nat × List Packet) p =>
    let n := a.1 + 48 + p.payload.length
    (n, if n ≤ 524288 then p :: a.2 else a.2)) (0, [])).2

/-- Puts a packet on a port: sequence number, acknowledgement, key slot, replay store, packet counter (R403, R405, R423). -/
def State.transmit (s : State) (port : Nat) (p : Packet) : State :=
  let x := s.portSt port
  let p := { p with seq := x.tx, ack := (x.rx + 65535) % 65536, kidx := s.fld (aPort port 8) 24 1 }
  (s.putPort port { x with tx := (x.tx + 1) % 65536, sent := trimSent (x.sent ++ [p]), counter := x.counter + 1 }).emit (.link port p)

/-- A refusal of a packet, to its source (R410, R412). -/
def refusal (p : Packet) : Packet := { p with ty := 7, vc := 2, src := p.dst, dst := p.src, payload := [], hops := 0 }

/-- Sends a packet towards its destination from a place; with no exit LNK_ERR.UNREACH is set and a refusal goes to the
source (R409, R410). Port number 16 stands for the module itself. -/
def State.linkSend (s : State) (place : Nat) (from_ : Option Nat) (p : Packet) : State :=
  let way := if 2 ^ 15 ≤ p.dst ∧ p.dst % 2 ^ 15 = s.ownModule then (if s.portUp (12 + p.xp) then some (6 + p.xp, 12 + p.xp) else none) else s.wayOut place p.dst
  match way with
  | some (d, port) => s.transmit port { p with vc := s.vcOut p.vc d from_ }
  | none =>
    let s := s.flag (aLnk 0x10) 2
    if p.ty = 7 then s
    else if p.src = s.ownModule then s.send (.linkRefusal 16 (refusal p))
    else match s.wayOut place p.src with
      | some (d, port) => s.transmit port { refusal p with vc := s.vcOut 2 d none }
      | none => s

/-- The job number of a slice (R412). -/
def State.jobNum (s : State) (sl : Nat) : Nat := s.fld (aSlc sl 8) 0 24

/-- Sends one request of a remote operation and records it as outstanding (R412, R413). -/
def State.remoteSend (s : State) (place : Nat) (kind : RemoteKind) (sl dst ty addr key : Nat) (payload : List Byte) : State × Nat :=
  let (id, s) := s.fresh
  let op := NMap.get 0 s.opids dst
  let p : Packet := { ty := ty, vc := 0, kidx := 0, seq := 0, ack := 0, xp := 0, src := s.ownModule, dst := dst, job := s.jobNum sl, gen := s.gen sl, opid := op, addr := addr, key := key, hops := 0, payload := payload }
  let s := { s with opids := NMap.put s.opids dst ((op + 1) % 2 ^ 32), remotes := s.remotes ++ [({ id := id, kind := kind, slice := sl, gen := s.gen sl, dst := dst, opid := op, since := s.time.toNat, pkt := p, kept := false, answer := none } : Remote)] }
  (s.linkSend place none p, id)

/-- Sends an abandoned operation again under its original OPID (R476). -/
def State.remoteAgain (s : State) (place : Nat) (r : Remote) : State := s.linkSend place none r.pkt

end Sys2Proof.Machine
end

