-- ==== Sys2Proof/Machine/Queue.lean ====
section
/-! DEFINITION. Campion queues: placement, spill, read order, marks, waiting operations, the queue instructions and the events
of queue engines (spec 13). -/

namespace Sys2Proof.Machine

/-- Configuration of a queue (R399) and its capacity (R374). -/
def State.qEn (s : State) (q : Nat) : Bool := s.fld (aCq q 0) 0 1 == 1
def State.qOwner (s : State) (q : Nat) : Nat := s.fld (aCq q 0) 1 6
def State.qMarks (s : State) (q : Nat) : Bool := s.fld (aCq q 0) 14 1 == 1
def State.qCap (s : State) (q : Nat) : Nat := 32 + s.fld (aCq q 0x10) 0 24
def State.qFailed (s : State) (q : Nat) : Bool := s.fld (aCq q 0x20) 2 1 == 1

/-- Whether a queue is held by an asserted QFC_IN that the module still acts on (R394, R395, R565). -/
def State.qHeld (s : State) (q : Nat) : Bool :=
  (List.range 8).any fun i => s.fld (aCqG (8 * i)) 10 1 == 1 && s.fld (aCqG (8 * i)) 11 9 == q && s.fld (aCqG 0x48) (8 + i) 1 == 1 && NMap.get 0 s.qfcIn (16 + i) == 0

/-- Whether a slice may use a queue: its owner, or its permitted pusher for a push (R376). -/
def State.qAllowed (s : State) (q sl : Nat) (push : Bool) : Bool :=
  s.qOwner q == sl || (push && s.fld (aCq q 0) 24 1 == 1 && s.fld (aCq q 0) 18 6 == sl)

/-- A slot of the middle: its address in the owner's space, and where that leads or the fault code (R374, R392). -/
def State.spillVa (s : State) (q slot : Nat) : Nat := s.fld (aCq q 8) 0 48 + 64 * slot
def State.spillPa (s : State) (q slot : Nat) (wr : Bool) : Nat ⊕ Nat :=
  let a := s.spillVa q slot
  if s.fld (aCq q 0) 15 1 = 0 then
    match s.scratchPa (s.qOwner q) a with | some pa => .inl pa | none => .inr 0x06
  else match s.translate (s.qOwner q) a with
    | some (.mem pa p) => if wr && p.ro then .inr 0x07 else if (s.place pa).isNone then .inr 0x06 else .inl pa
    | some (.host _ _ p) => .inr (if wr && p.ro then 0x07 else 0x06)
    | none => .inr 0x06

/-- What a queue operation gives: the state, status, and items popped; or a spill fault with its code and address. -/
structure QRes where
  s : State
  status : Nat
  items : List (Item × Bool)
  fault : Option (Nat × Nat)
deriving DecidableEq, Repr

/-- The bytes of an item in ascending address (R377). -/
def itemBytes (w : Item) : List Byte := leBytes 64 w.toNat

/-- Moves the oldest item of a full tail ring to the head ring or to the lowest free slot of the middle (R577). -/
def State.qSpill (s : State) (q : Nat) : State × Option (Nat × Nat) :=
  let x := s.queue q
  if (x.items.filter fun i => i.at_ == .tail).length < 16 then (s, none) else
  match x.items.find? fun i => i.at_ == .tail with
  | none => (s, none)
  | some i =>
    let move (p : QLoc) (w : Item) := { x with items := x.items.map fun j => if j.no = i.no then { j with at_ := p, w := w } else j }
    if (x.items.filter fun j => j.at_ == .head).length < 16 then (s.putQueue q (move .head i.w), none)
    else
      let used := x.items.filterMap fun j => match j.at_ with | .mid k => some k | _ => none
      let k := ((List.range (used.length + 1)).find? fun k => !used.contains k).getD 0
      match s.spillPa q k true with
      | .inr c => (s, some (c, s.spillVa q k))
      | .inl pa => ((s.engWrite (some (s.qOwner q, 4)) pa (itemBytes i.w)).putQueue q (move (.mid k) 0), none)

/-- Places one item with the next push number (R374, R378, R577). -/
def State.qPlace (s : State) (q pri : Nat) (w : Item) : State × Option (Nat × Nat) :=
  match s.qSpill q with
  | (s, some f) => (s, some f)
  | (s, none) =>
    let x := s.queue q
    ((s.putQueue q { x with items := x.items ++ [⟨w, pri, x.pushes, none, .tail, false⟩], pushes := x.pushes + 1 }).flow q, none)

/-- Places items one after another (R384). -/
def State.qPlaceAll (s : State) (q pri : Nat) : List Item → State × Option (Nat × Nat)
  | [] => (s, none)
  | w :: r => match s.qPlace q pri w with
    | (s, some f) => (s, some f)
    | (s, none) => s.qPlaceAll q pri r

/-- The unread item of highest priority, lowest push number first (R379). -/
def Queue.next (x : Queue) : Option QItem :=
  (x.items.filter fun i => i.read.isNone).foldl (fun b i => match b with
    | none => some i
    | some j => if j.pri < i.pri then some i else some j) none

/-- Unread items. -/
def Queue.unread (x : Queue) : Nat := (x.items.filter fun i => i.read.isNone).length

/-- Adds 1 to a saturating field of the slice's counts of a queue, CQ_S_CNT (R397). -/
def State.qCount (s : State) (q lo w : Nat) : State :=
  let v := s.sreg (s.qOwner q) (0x9000 + 8 * q)
  s.setSreg (s.qOwner q) (0x9000 + 8 * q) (setBits v lo w (min (bits v lo w + 1) (2 ^ w - 1)))

/-- An item with a corrected error (R392). -/
def State.qCorrected (s : State) (q : Nat) : State := (s.satInc (aCq q 0x28) 0 32).qCount q 0 32

/-- An item becomes poisoned, once: flag and counts (R392). -/
def State.qPoison (s : State) (q no : Nat) : State :=
  let x := s.queue q
  if !x.items.any fun i => i.no == no && !i.poison then s else
  let s := s.putQueue q { x with items := x.items.map fun i => if i.no = no then { i with poison := true } else i }
  ((s.satInc (aCq q 0x28) 32 16).flag (aCqG 0x50) 2).qCount q 48 16

/-- An item's words and poison, read from the middle where it lies there (R392). -/
def State.qFetch (s : State) (q : Nat) (i : QItem) : State × (Item × Bool) × Option (Nat × Nat) :=
  match i.at_ with
  | .mid k =>
    match s.spillPa q k false with
    | .inr c => (s, (0, false), some (c, s.spillVa q k))
    | .inl pa =>
      let (s, bs, bad) := s.engRead (some (s.qOwner q, 4)) pa 64
      (if bad then s.qPoison q i.no else s, (BitVec.ofNat 512 (leNat bs), i.poison || bad), none)
  | _ => (s, (i.w, i.poison), none)

/-- Pops one item: it becomes read at the read position, or leaves at once under MARKS = 0 (R379, R383). -/
def State.qPopOne (s : State) (q : Nat) : State × Option (Item × Bool) × Option (Nat × Nat) :=
  match (s.queue q).next with
  | none => (s, none, none)
  | some i =>
    match s.qFetch q i with
    | (s, _, some f) => (s, none, some f)
    | (s, w, none) =>
      let x := s.queue q
      let items := if s.qMarks q then x.items.map fun j => if j.no = i.no then { j with read := some x.pos } else j
                   else x.items.filter fun j => j.no != i.no
      ((s.putQueue q { x with items := items, pos := x.pos + 1 }).flow q, some w, none)

/-- Pops `n` items. -/
def State.qPopN (s : State) (q : Nat) : Nat → State × List (Item × Bool) × Option (Nat × Nat)
  | 0 => (s, [], none)
  | n + 1 =>
    match s.qPopOne q with
    | (s, some w, none) => let r := s.qPopN q n; (r.1, w :: r.2.1, r.2.2)
    | (s, _, f) => (s, [], f)

/-- Whether the spill area of a queue lies in scratch that is still being zeroed (R253, R374). -/
def State.qZeroing (s : State) (q : Nat) : Bool := s.fld (aCq q 0x10) 0 24 != 0 && s.fld (aCq q 0) 15 1 == 0 && s.sliceZeroing (s.qOwner q)

/-- Whether an operation can be performed now; `first` says that no earlier push waits (R385, R388). -/
def State.qCan (s : State) (q : Nat) (w : QWait) (first : Bool) : Bool :=
  if s.qZeroing q then false else
  if w.push.isEmpty then decide (w.pop ≤ (s.queue q).unread) && !s.qHeld q
  else first && decide ((s.queue q).items.length + w.push.length ≤ s.qCap q)

/-- Performs an operation that can be performed. -/
def State.qDo (s : State) (q : Nat) (w : QWait) : QRes :=
  if w.push.isEmpty then let r := s.qPopN q w.pop; ⟨r.1, 0, r.2.1, r.2.2⟩
  else let r := s.qPlaceAll q w.pri w.push; ⟨r.1, 0, [], r.2⟩

/-- Writes a status and popped items into a group's registers (R94, R95). -/
def Group.queueResult (g : Group) (data qs : Nat) (mask : W32) (status : Nat) (items : List (Item × Bool)) : Group :=
  (items.zipIdx.foldl (fun g p =>
    ((List.range 16).filter fun i => inMask mask (16 * p.2 + i)).foldl (fun g i =>
      g.setV data (16 * p.2 + i) ((p.1.1 >>> (32 * i)).truncate 32)) g) g).setU qs (BitVec.ofNat 64 status)

/-- Local slot of item `n` of a queue transfer (R230). -/
def qtSlot (d : W256) (n : Nat) : Nat := 32 * dfld d 80 13 + 64 * n

/-- Changes the first started operation of a mover that is a queue transfer. -/
def State.updRun (s : State) (core m : Nat) (f : MvRun → MvRun) : State :=
  let c := s.core core
  let up (v : Mover) : Mover := { v with run := match v.run with | [] => [] | r => (r.take (r.length - 1)) ++ ((r.getLast?.map f).toList) }
  s.putCore core (if m = 0 then { c with mv0 := up c.mv0 } else { c with mv1 := up c.mv1 })

/-- Ends a waiting operation: a path receives its status and goes on, or its poisoned item faults; a mover moves on by one
item; another module receives an acknowledgement with the status in KEY (R44, R392, R413). -/
def State.qDone (s : State) (w : QWait) (status : Nat) (items : List (Item × Bool)) : State :=
  match w.who with
  | .path core slot op data qs mask pc =>
    let s := s.updGroup core slot fun g =>
      let g := g.queueResult data qs mask status (items.filter fun i => !i.2)
      (List.range 32).foldl (fun g e => match g.path? e with
        | some p => if p.wait = .queue op then g.wake e else g
        | none => g) g
    if items.any (·.2) then s.programFaultAt core slot pc { code := 0x08, lanes := mask } else s
  | .mover core m =>
    let s := match items with
      | [(v, false)] =>
        let c := s.core core
        match (if m = 0 then c.mv0 else c.mv1).run.getLast? with
        | some r => match NMap.find? c.blocks r.op.block with
          | some b => s.putBlock core r.op.block { b with loc := b.loc.writeBytes (qtSlot r.op.d r.op.moved) (itemBytes v) }
          | none => s
        | none => s
      | _ => s
    s.updRun core m fun r =>
      if items.any (·.2) then { r with err := some (true, 0x08, 0, qtSlot r.op.d r.op.moved, r.op.moved) }
      else if status ≠ 0 then { r with err := some (false, 0x08, status, qtSlot r.op.d r.op.moved, r.op.moved) }
      else { r with op := { r.op with moved := r.op.moved + 1 } }
  | .remote src job gen opid vc =>
    s.linkSend 100 none { ty := 6, vc := 2 + vc % 2, kidx := 0, seq := 0, ack := 0, xp := 0, src := s.ownModule, dst := src, job := job, gen := gen, opid := opid, addr := 0, key := status, hops := 0, payload := [] }
  | .engine => s

/-- A spill access faults: the queue fails, its waiting operations return 0x07, the owner's job ends (R392). -/
def State.qFault (s : State) (q : Nat) (f : Nat × Nat) : State :=
  let s := if s.fld (aCq q 0) 15 1 = 0 then s else match s.translate (s.qOwner q) f.2 with
    | some (.mem pa _) => if (s.place pa).isNone then s.unbackedAt pa else s
    | _ => s
  let ws := (s.queue q).waits
  let s := ((s.putQueue q { s.queue q with waits := [] }).flag (aCqG 0x50) 1).setFld (aCq q 0x20) 2 1 1
  let s := ws.foldl (fun s w => s.qDone w 0x07 []) s
  s.engineFault (s.qOwner q) 3 f.1 0 q f.2

/-- The waiting operation to perform next: oldest first, no push passing an earlier one (R387, R388). -/
def State.qReady (s : State) (q : Nat) : List QWait → Bool → Option QWait
  | [], _ => none
  | w :: r, first =>
    if s.qCan q w first then some w else s.qReady q r (first && w.push.isEmpty)

/-- The next item of a mover's transfer, as a waiting operation; none when all have moved or one failed. -/
def State.moverNext (s : State) (core m : Nat) (w : QWait) : Option QWait :=
  match (if m = 0 then (s.core core).mv0 else (s.core core).mv1).run.getLast? with
  | none => none
  | some r =>
    if r.err.isSome ∨ dfld r.op.d 93 16 < r.op.moved then none
    else if dfld r.op.d 4 1 = 0 then some { w with push := [], pop := 1 }
    else match NMap.find? (s.core core).blocks r.op.block with
      | some b => some { w with push := [BitVec.ofNat 512 (b.loc.readLE (qtSlot r.op.d r.op.moved) 64)], pop := 0 }
      | none => none

/-- Serves waiting operations while one can be performed (R388). A mover's transfer keeps its place for its next item. -/
def State.qServe (q : Nat) : Nat → State → State
  | 0, s => s
  | n + 1, s =>
    if !s.qEn q || s.qFailed q then s else
    match s.qReady q (s.queue q).waits true with
    | none => s
    | some w =>
      let r := s.qDo q w
      let i := (r.s.queue q).waits.findIdx fun v => v == w
      match r.fault with
      | some f => ((r.s.putQueue q { r.s.queue q with waits := (r.s.queue q).waits.eraseIdx i }).qDone w 0x07 []).qFault q f
      | none =>
        let s := r.s.qDone w 0 r.items
        let next := match w.who with | .mover c m => s.moverNext c m w | _ => none
        let x := s.queue q
        State.qServe q n (s.putQueue q { x with waits := match next with | some v => x.waits.set i v | none => x.waits.eraseIdx i })

/-- Steps of service that always suffice: every waiting operation, and every item of the transfers. -/
def qFuel : Nat := 200000

/-- Puts an operation behind those that wait, and serves. -/
def State.qWait (s : State) (q : Nat) (w : QWait) : State :=
  State.qServe q qFuel (s.putQueue q { s.queue q with waits := (s.queue q).waits ++ [w] })

/-- Whether an earlier push waits. -/
def State.pushWaits (s : State) (q : Nat) : Bool := (s.queue q).waits.any fun w => !w.push.isEmpty

/-- The word of qstat (R386). -/
def State.qstat (s : State) (q : Nat) : Nat :=
  if !s.qEn q then 2 ^ 63 + 6 else if s.qFailed q then 2 ^ 63 + 7 else
  (s.queue q).items.length + (s.queue q).unread * 2 ^ 25 + (s.queue q).fc.toNat * 2 ^ 50 + (s.qHeld q).toNat * 2 ^ 51

/-- An engine of the module pushes one item: done where there is room and no push waits (R165, R468). -/
def State.enginePush (s : State) (q pri : Nat) (w : Item) : Option State :=
  if !s.qEn q || s.qFailed q then some s
  else if s.qZeroing q || s.pushWaits q || decide (s.qCap q ≤ (s.queue q).items.length) then none
  else match s.qPlace q pri w with
    | (s, some f) => some (s.qFault q f)
    | (s, none) => some (State.qServe q qFuel s)

/-- The next command of an engine's queue; a spill that faults has its own effects (R165, R392, R416). -/
def State.popCmd (s : State) (q : Nat) : State × Option (Item × Bool) :=
  if !s.qEn q || s.qFailed q || s.qHeld q || s.qZeroing q then (s, none) else
  match s.qPopOne q with
  | (s, some w, none) => (State.qServe q qFuel s, some w)
  | (s, _, some f) => (s.qFault q f, none)
  | (s, _, _) => (s, none)

/-- The command that the next pop of an engine's queue gives, as far as it lies in the rings. -/
def State.peekCmd (s : State) (q : Nat) : Option Item := if !s.qEn q || s.qFailed q then none else ((s.queue q).next).map fun i => (s.qFetch q i).2.1.1

/-- Round-robin service of slices: of those that wait, the one served longest ago is next, the lowest number first among those never served;
`stamp` is a slice's place in the order of service (R416, R497). -/
def rrNext (stamp : Nat → Nat) (waits : Nat → Bool) (sl : Nat) : Bool :=
  (List.range 64).all fun x => x == sl || !waits x || decide (stamp sl < stamp x) || (stamp sl == stamp x && decide (sl < x))
def rrStamp (stamp : Nat → Nat) : Nat := 1 + (List.range 64).foldl (fun m x => max m (stamp x)) 0

/-- An engine pushes a completion item, or waits for room (R165). -/
def State.pushItem (s : State) (q pri : Nat) (w : Item) (sl : Nat) : State :=
  match s.enginePush q pri w with
  | some s => s
  | none => s.qWait q ⟨.engine, sl, [w], pri, 0⟩

/-- A field of an item. -/
def ifld (w : Item) (lo n : Nat) : Nat := bits w.toNat lo n

/-- A completion item (R176): operation, status, tag, counts, time, commands. -/
def complItem (op status tag kept dropped rerouted nonfin degen failtok time cmds : Nat) : Item :=
  BitVec.ofNat 512 (op % 256 + status % 256 * 2 ^ 8 + tag % 2 ^ 32 * 2 ^ 32 + kept % 2 ^ 32 * 2 ^ 64 + dropped % 2 ^ 32 * 2 ^ 96 +
    rerouted % 2 ^ 32 * 2 ^ 128 + nonfin % 2 ^ 32 * 2 ^ 160 + degen % 2 ^ 32 * 2 ^ 192 + failtok % 2 ^ 32 * 2 ^ 224 +
    time % 2 ^ 64 * 2 ^ 256 + cmds % 2 ^ 32 * 2 ^ 320)

/-- A queue handle is refused with fault 0x0F (R376). -/
def State.handleBad (s : State) (h : Nat) (sl : Nat) (push : Bool) : Bool :=
  decide (2 ^ 25 ≤ h) || (if bit h 9 then !push else decide (bits h 10 15 ≠ 0) || !s.qAllowed (h % 512) sl push)

/-- Legality of format Q words (R67, R94, R95, R385). -/
def QFok (w : QF) (k : Nat) : Bool :=
  w.h.unguarded && w.res == 0 &&
  (if k = 0 then w.mark == 0 && (w.sem == 0 || w.sem == 2)
   else if k = 1 then w.mark == 0 && w.pri == 0 && (w.sem == 0 || w.sem == 1)
   else w.data == 0 && w.pri == 0 && !w.two && !w.nb && w.sem == 0 && w.scope == 0 && (k != 5 || w.mark == 0))

/-- The items that a path forms from its lanes (R94). -/
def Ctx.items (c : Ctx) (w : QF) : List Item :=
  (if w.two then [0, 16] else [0]).map fun b => BitVec.ofNat 512
    ((List.range 16).foldl (fun v i => v + (if inMask c.p.mask (b + i) then (c.g.vreg w.data.toNat (b + i)).toNat else 0) * 2 ^ (32 * i)) 0)

/-- The path waits past its instruction for a queue operation and the group switches (R44, R95). -/
def State.pathWaits (s : State) (c : Ctx) (op : Nat) : State :=
  s.updGroup c.core c.slot fun g => match g.path? g.cur with
    | some p => (g.putPath g.cur { p with wait := .queue op, pc := (p.pc + 8) % 2 ^ 48 }).switch
    | none => g

/-- A queue instruction: handle, enable and failure checks, then `eff` (R94, R376, R385). -/
def queueIssue (k : Nat) (x : Site) (w : QF) (eff : Ctx → Nat → State → Eff) (s : State) : Host.Outcome State Fault Refusal :=
  issue x (QFok w k) (if k < 2 then [w.data.toNat] else []) [w.qh.toNat, w.qs.toNat] w.h (fun c s =>
    let h := (c.g.ureg w.qh.toNat).toNat
    if s.handleBad h c.b.slice (k == 0) then .fault { code := 0x0F, lanes := c.p.mask }
    else if bit h 9 then eff c h s
    else if k = 5 then .go (s.putGroup c.core c.slot (c.g.setU w.qs.toNat (BitVec.ofNat 64 (s.qstat (h % 512)))))
    else
      let s := s.markTask c.b.slice c.b.taskNo
      if !s.qEn (h % 512) then .go (s.putGroup c.core c.slot (c.g.setU w.qs.toNat 6))
      else if s.qFailed (h % 512) then .go (s.putGroup c.core c.slot (c.g.setU w.qs.toNat 7))
      else eff c (h % 512) s) s

/-- qpush (R94, R95, R384, R385); to another module it always waits for the target's status (R413). -/
def execQpush (x : Site) (w : QF) (s : State) : Host.Outcome State Fault Refusal :=
  queueIssue 0 x w (fun c q s =>
    if !c.released s w.sem.toNat w.scope.toNat then .stall
    else if bit q 9 then
      let (s, op) := (s.markTask c.b.slice c.b.taskNo).remoteSend (c.core / 64) (.push c.core c.slot) c.b.slice (bits q 10 15) 5 (q % 512)
        (w.pri.toNat + 4 * w.nb.toNat + 8 * w.qs.toNat) ((c.items w).flatMap itemBytes)
      .jump (s.pathWaits c op)
    else
      let (op, s) := s.fresh
      let v : QWait := ⟨.path c.core c.slot op w.data.toNat w.qs.toNat 0 c.p.pc, c.b.slice, c.items w, w.pri.toNat, 0⟩
      if s.qCan q v (!s.pushWaits q) then
        let r := s.qDo q v
        match r.fault with
        | some f => .jump ((r.s.updGroup c.core c.slot fun g => g.setU w.qs.toNat 7).qFault q f)
        | none => .go (State.qServe q qFuel (r.s.updGroup c.core c.slot fun g => g.setU w.qs.toNat 0))
      else if w.nb then .go (s.putGroup c.core c.slot (c.g.setU w.qs.toNat 1))
      else .jump ((s.pathWaits c op).qWait q v)) s

/-- qpop (R94, R95, R379, R385). -/
def execQpop (x : Site) (w : QF) (s : State) : Host.Outcome State Fault Refusal :=
  queueIssue 1 x w (fun c q s =>
    let (op, s) := s.fresh
    let v : QWait := ⟨.path c.core c.slot op w.data.toNat w.qs.toNat c.p.mask c.p.pc, c.b.slice, [], 0, if w.two then 2 else 1⟩
    let acq (g : Group) := g.acquire (w.sem == 1)
    if s.qCan q v true then
      let r := s.qDo q v
      match r.fault with
      | some f => .jump ((r.s.updGroup c.core c.slot fun g => g.setU w.qs.toNat 7).qFault q f)
      | none =>
        let s := r.s.updGroup c.core c.slot fun g => acq (g.queueResult w.data.toNat w.qs.toNat c.p.mask 0 (r.items.filter fun i => !i.2))
        if r.items.any (·.2) then .jump ((State.qServe q qFuel s).programFaultAt c.core c.slot c.p.pc { code := 0x08, lanes := c.p.mask })
        else .go (State.qServe q qFuel s)
    else if w.nb then .go (s.putGroup c.core c.slot (c.g.setU w.qs.toNat (if s.qHeld q then 3 else 2)))
    else .jump ((s.pathWaits c op).qWait q v)) s

/-- An operation on a mark: status 5 without marks, 4 where the mark must be set and is clear (R383, R385). -/
def markEff (w : QF) (need : Bool) (f : Queue → Nat → Queue) (c : Ctx) (q : Nat) (s : State) : Eff :=
  let x := s.queue q
  let st (n : Nat) (s : State) := s.updGroup c.core c.slot fun g => g.setU w.qs.toNat (BitVec.ofNat 64 n)
  if !s.qMarks q then .go (st 5 s)
  else match x.marks.getD w.mark.toNat none with
    | none => if need then .go (st 4 s) else .go (st 0 (State.qServe q qFuel ((s.putQueue q (f x 0)).flow q)))
    | some m => .go (st 0 (State.qServe q qFuel ((s.putQueue q (f x m)).flow q)))

/-- qmark: the mark takes the read position (R380). -/
def execQmark (x : Site) (w : QF) (s : State) : Host.Outcome State Fault Refusal :=
  queueIssue 2 x w (markEff w false fun q _ => { q with marks := q.marks.set w.mark.toNat (some q.pos) }) s

/-- qrewind (R381). -/
def execQrewind (x : Site) (w : QF) (s : State) : Host.Outcome State Fault Refusal :=
  queueIssue 3 x w (markEff w true fun q m =>
    { q with items := (q.items.map fun i => match i.read with
               | some p => if m ≤ p then { i with read := none } else i
               | none => i)
             pos := m
             marks := q.marks.map fun k => match k with | some p => if m < p then none else some p | none => none }) s

/-- qrel (R382). -/
def execQrel (x : Site) (w : QF) (s : State) : Host.Outcome State Fault Refusal :=
  queueIssue 4 x w (markEff w true fun q m =>
    { q with items := (q.items.filter fun i => match i.read with | some p => decide (m ≤ p) | none => true)
             marks := q.marks.map fun k => match k with | some p => if p < m then none else some p | none => none }) s

/-- qstat (R386). -/
def execQstat (x : Site) (w : QF) (s : State) : Host.Outcome State Fault Refusal :=
  queueIssue 5 x w (fun _ _ s => .go s) s

/-- Items that a refill of the head ring brings, in read order, while it has a free place (R396, R577). -/
def State.qRefill (q : Nat) : Nat → State → State
  | 0, s => s
  | n + 1, s =>
    let x := s.queue q
    if 16 ≤ (x.items.filter fun i => i.at_ == .head).length then s else
    match ({ x with items := x.items.filter fun i => i.at_ != .head } : Queue).next with
    | none => s
    | some i =>
      match s.qFetch q i with
      | (s, _, some f) => s.qFault q f
      | (s, w, none) =>
        let x := s.queue q
        State.qRefill q n (s.putQueue q { x with items := x.items.map fun j => if j.no = i.no then { j with at_ := .head, w := w.1, poison := w.2 } else j })

/-- The engine refills the head ring (R396). -/
def execHeadRingRefill (q : Nat) (s : State) : Host.Outcome State Fault Refusal :=
  .next (if s.qEn q && !s.qFailed q && !s.qZeroing q then State.qRefill q 16 s else s)

/-- A discarded write to the queue area (R397). -/
def State.hostDrop (s : State) (q sl : Nat) (counted : Bool) : State :=
  let s := s.flag (aCqG 0x50) 3
  if counted then let v := s.sreg sl (0x9000 + 8 * q); s.setSreg sl (0x9000 + 8 * q) (setBits v 32 16 (min (bits v 32 16 + 1) 65535)) else s

/-- A host write to the push windows of a slice bound to the port (R397, R434, R436). -/
def execHostPush (port : Nat) (pasid : Option Nat) (ofs : Nat) (bytes : List Byte) (s : State) : Host.Outcome State Fault Refusal :=
  let q := ofs / 64
  .next (s.tenant port pasid fun slice s =>
    if s.qOwner q != slice then s.hostDrop q slice false
    else if ofs % 64 ≠ 0 || bytes.length ≠ 64 || !s.qEn q || s.qFailed q || s.pushWaits q || decide (s.qCap q ≤ (s.queue q).items.length) then
      s.hostDrop q slice true
    else (s.enginePush q (s.fld (aCq q 0) 16 2) (BitVec.ofNat 512 (leNat bytes))).getD s)

/-- A filtered change of QFC_IN: a hold begins or ends (R394). A pin that is no longer acted on is acted on again once it has
deasserted (R565). -/
def execQfcInChange (pin : Nat) (level : Bool) (s : State) : Host.Outcome State Fault Refusal :=
  if 8 ≤ pin then .next s else
  let s := (s.setFld (aCqG 0x48) (8 + pin) 1 level.toNat).setFld 0x100 (10 + pin) 1 (if level then s.fld 0x100 (10 + pin) 1 else 0)
  let s := { s with qfcIn := if level then NMap.put s.qfcIn pin s.time.toNat else NMap.del (NMap.del s.qfcIn pin) (16 + pin) }
  .next (if level then s else State.qServe (s.fld (aCqG (8 * pin)) 11 9) qFuel s)

/-- QFC_IN held for TIMEOUT: STUCK, a record, ALERT_N (R395). -/
def execQfcInTimeout (pin : Nat) (s : State) : Host.Outcome State Fault Refusal :=
  if 8 ≤ pin || s.fld (aCqG 0x48) (8 + pin) 1 = 0 then .next s else
  let (v, s) := s.freely 21
  .next (((s.flag (aCqG 0x48) (16 + pin)).record { sev := v % 7, block := 5, code := v / 8 % 2 ^ 16, unit := pin }).alert)

end Sys2Proof.Machine
end

