-- ==== Sys2Proof/Machine/Llm.lean ====
section
/-! DEFINITION. The LLM halves: requests, scratch, contributions, holds, windows, patrol, thrash detector, prefetchers, flush
and power (spec 9). A command for something that is not there, or that must still wait, changes nothing. -/

namespace Sys2Proof.Machine

/-- Removes a request from the list on its way. -/
def State.dropReq (s : State) (r : LlmReq) : State := { s with flight := { s.flight with llm := s.flight.llm.erase r } }

/-- Whether an earlier store of the same core to the same sector, or a store and a contribution to one line, is still in its store
buffer (R184, R185). -/
def State.storeWaits (s : State) (a : Agent) : Bool :=
  match a with
  | .store core ent =>
    match ((s.core core).sb.takeWhile fun e => e.id != ent), (s.core core).sb.find? (fun e => e.id == ent) with
    | before, some e => before.any fun b => if b.red || e.red then b.sector / 4 == e.sector / 4 else b.sector == e.sector
    | _, none => false
  | _ => false

/-- A request reaches its cache slice (R239, R240, R254 to R256). -/
def execLlmRequest (r : LlmReq) (s : State) : Host.Outcome State Fault Refusal :=
  if !s.flight.llm.contains r || s.storeWaits r.agent then .next s
  else .next (((s.dropReq r).serve r true).getD s)

/-- The refusal of a scratch request: SPOOF, a count; a read returns all ones, anything else is dropped (R251). -/
def State.scratchRefused (s : State) (h : Nat) (r : ScrReq) : State :=
  let s := (s.flag (aLlm h 0x48) 4).satInc (aLlm h 0x58) 0 32
  match r.body with
  | .read m => s.deliver r.agent r.line onesData m
  | .write _ => s.accept r.agent
  | .atom a => s.deliverAtom r.agent a.addr (a.lanes.map fun l => (l.1, 2 ^ (8 * atyBytes a.aty) - 1)) false

/-- Whether a slice may use the unit of a scratch address (R251). -/
def State.scratchOk (s : State) (a : Agent) (sl line : Nat) : Bool :=
  a == .mgmt || s.unitOwner (scratchHalf (line * 128)) (scratchUnit (line * 128)) == some sl

/-- Performs a scratch request at its half (R251, R252, R256, R267). -/
def State.serveScratch (s : State) (h : Nat) (r : ScrReq) : State :=
  let s := (s.countAccess h r.slice 3 (sliceOf r.line) true).resolveLine h r.line
  match r.body with
  | .read m =>
    let x := s.half h
    if x.windows.any fun w => w.1 == r.line then
      s.putHalf h { x with windows := x.windows.map fun v => if v.1 = r.line then (v.1, v.2 ++ [⟨h, r.agent, r.slice, 3, 0, 0, false, r.line, r.body⟩]) else v }
    else (s.putHalf h { x with windows := x.windows ++ [(r.line, [])] }).deliver r.agent r.line (s.memData r.line) m
  | .write bs => ((s.closeWindow h r.line).writeLine h r.line bs).accept r.agent
  | .atom a =>
    let (s, vals, bad) := (s.closeWindow h r.line).atomLine h r.line a
    s.deliverAtom r.agent a.addr vals bad

/-- A request through the scratch window; it waits while its unit is being zeroed (R250, R251, R253). -/
def execScratchRequest (r : ScrReq) (s : State) : Host.Outcome State Fault Refusal :=
  if !s.flight.scr.contains r || s.storeWaits r.agent then .next s else
  let t : State := { s with flight := { s.flight with scr := s.flight.scr.erase r } }
  let h := scratchHalf (r.line * 128)
  if !s.scratchOk r.agent r.slice r.line then .next (t.scratchRefused h r)
  else if (s.half h).zeroing.contains (scratchUnit (r.line * 128)) then .next s
  else .next (t.serveScratch h r)

/-- One contribution reaches its half: forwarded where the reduction point has moved (R247), checked and applied in scratch
(R251), or performed on a global line. -/
def execAddToLineContribution (half : Nat) (c : Contrib) (s : State) : Host.Outcome State Fault Refusal :=
  let first := s.flight.contrib.find? fun x => x.2.line == c.line && agentCore x.2.src == agentCore c.src
  if first != some (half, c) || s.storeWaits c.src then .next s else
  let t : State := { s with flight := { s.flight with contrib := s.flight.contrib.erase (half, c) } }
  let h := s.reductionPoint c.line
  if h ≠ half then .next { s with flight := { s.flight with contrib := s.flight.contrib.map fun x => if x = (half, c) then (h, c) else x } }
  else if isScratch c.line then
    if !s.scratchOk c.src c.slice c.line then .next (((t.flag (aLlm h 0x48) 4).satInc (aLlm h 0x58) 0 32).accept c.src)
    else if (s.half h).zeroing.contains (scratchUnit (c.line * 128)) then .next s
    else .next ((t.countAccess h c.slice 3 (sliceOf c.line) true).takeContrib h c)
  else .next ((t.globalContrib h c true).getD s)

/-- 10 µs without a contribution and with none pending: the hold ends, and a line of a stream or no-allocate region is
dropped (R246). -/
def execReductionHoldEnd (half line : Nat) (s : State) : Host.Outcome State Fault Refusal :=
  match NMap.find? (s.half half).lines line with
  | some l =>
    if !l.hold || (s.half half).pend.any (fun p => p.c.line == line) then .next s
    else .next (s.dropHold half line)
  | none => .next s

/-- 32 mesh cycles after the first read: the window closes (R256). -/
def execCombineWindowClose (half line : Nat) (s : State) : Host.Outcome State Fault Refusal := .next (s.closeWindow half line)

/-- A record of an LLM error (R266, R547). -/
def State.llmRec (s : State) (h sev code : Nat) (pa : Option Nat) : State :=
  s.record { sev := sev, block := 9, code := code, die := s.dieOfHalf h, unit := h % 2, pa := pa }

/-- One error that the patrol or an access found (R265, R266). -/
def State.llmError (s : State) (h : Nat) : LlmErr → State
  | .sector line i false =>
    ((s.flag (aLlm h 0x48) 0).satInc (aLlm h 0x50) 0 32).llmRec h 0 0 (some (128 * line + 32 * i))
  | .sector line i true =>
    let pa := 128 * line + 32 * i
    let poison (s : State) : State := ((s.flag (aLlm h 0x48) 2).satInc (aLlm h 0x50) 48 16).llmRec h 6 2 (some pa)
    if isScratch line then poison (s.setPoison (4 * line + i) true)
    else match NMap.find? (s.half h).lines line with
      | none => s
      | some l =>
        if l.dirty.getLsbD i then poison (s.updLine h line fun l => { l with poison := l.poison ||| (1#4 <<< i) })
        else
          let s := if l.st != .s && (s.half h).miss.any (fun m => m.line == line) then s.updLine h line fun l => { l with sec := l.sec.set i none } else s.evict h line false
          ((s.flag (aLlm h 0x48) 1).satInc (aLlm h 0x50) 32 16).llmRec h 1 1 (some pa)
  | .tag false => ((s.flag (aLlm h 0x48) 3).satInc (aLlm h 0x50) 0 32).llmRec h 0 3 none
  | .tag true => s.moduleReset 2

/-- The patrol finds errors in a half (R265, R266). -/
def execLlmPatrol (half : Nat) (found : List LlmErr) (s : State) : Host.Outcome State Fault Refusal :=
  .next (found.foldl (fun s e => s.llmError half e) s)

/-- The detector's settings of a half in effect in the window that ends (R269): EN, ARM, EXEMPT, WIN, MINACC, HOLD. -/
def State.thrash (s : State) (h lo w : Nat) : Nat := s.fld (aLlm h 0x28) lo w

/-- One class at the end of a window (R269 to R271). -/
def Thrash.window (t : Thrash) (armed exempt : Bool) (minacc floor hold : Nat) : Thrash × Bool :=
  let rate := if t.acc = 0 then 256 else 256 * t.hit / t.acc
  let base : Thrash := { t with acc := 0, hit := 0 }
  if !armed then ({ base with na := false, hold := hold, left := 0, probe := false, rate := 255 }, false)
  else if t.na then
    if t.left ≤ 1 then ({ base with na := false, left := 0, probe := true, rate := 255 }, false)
    else ({ base with left := t.left - 1, rate := 255 }, false)
  else if exempt || t.acc < minacc then ({ base with probe := false, hold := hold, rate := 255 }, false)
  else if rate < floor then
    let h := if t.probe then min 128 (2 * t.hold) else hold
    ({ base with na := true, left := h, hold := h, probe := false, rate := min 255 rate }, true)
  else ({ base with probe := false, hold := hold, rate := min 255 rate }, false)

/-- The end of a window of a half: every class is evaluated (R269 to R272). -/
def execThrashWindowEnd (half : Nat) (s : State) : Host.Outcome State Fault Refusal :=
  let armed := s.thrash half 0 1 == 1 && decide (s.thrash half 1 5 ≤ s.punits half)
  .next ((List.range 8).foldl (fun s c =>
    let x := s.half half
    let r := Thrash.window (NMap.get Thrash.init x.classes c) armed (bit (s.thrash half 8 8) c) (s.thrash half 24 16)
      (s.fld (aLlm half 0x30) (8 * c) 8) (s.thrash half 40 4)
    s.putHalf half { x with classes := NMap.set Thrash.init x.classes c r.1, switches := if r.2 then (x.switches + 1) % 2 ^ 32 else x.switches }) s)

/-- The next unit of a half, in order, is all zeros; its sectors are free of poison, and operations of queues that waited for it go on
(R253, R266). -/
def execScratchUnitZeroed (half unit : Nat) (s : State) : Host.Outcome State Fault Refusal :=
  match (s.half half).zeroing with
  | u :: rest =>
    if u ≠ unit then .next s else
    let x := s.half half
    let a := scratchAddr half unit 0
    let s := s.putHalf half { x with zeroing := rest }
    let s : State := { s with mem := NMap.clear s.mem a (a + 2 ^ 22), poison := NMap.clear s.poison (a / 32) ((a + 2 ^ 22) / 32) }
    .next (NMap.foldV s.queues s fun s q x => if x.waits.isEmpty then s else State.qServe q qFuel s)
  | [] => .next s

/-- Writes the dirty sectors of every line of a half to memory, the lines staying clean; pending contributions are resolved
first, and holds end (R246, R276). The home keeps the half as owner. -/
def State.writeBackAll (s : State) (h : Nat) : State :=
  let s := ((s.half h).pend.map fun p => p.c.line).foldl (fun s l => s.resolveLine h l) s
  ((s.half h).lines.map fun (p : Nat × Line) => p.1).foldl (fun s line =>
    match NMap.find? (s.half h).lines line with
    | none => s
    | some l =>
      let s := (List.range 4).foldl (fun s i =>
        if l.dirty.getLsbD i then
          let s := s.putSector (4 * line + i) ((l.sec.getD i none).getD 0)
          if l.poison.getLsbD i then s.poisonBurst (4 * line + i) false else s.setPoison (4 * line + i) false
        else s) s
      let s := s.updLine h line fun l => { l with dirty := 0, st := if l.st = .m then .e else l.st }
      if l.hold then s.dropHold h line else s) s

/-- A write of 1 to LLM_FLUSH.GO; discarded while STATE is not 1 (R276, R279). -/
def execLlmFlush (half : Nat) (s : State) : Host.Outcome State Fault Refusal :=
  if s.fld (aLlm half 0x18) 0 2 ≠ 1 then .next s else .next (s.setFld (aLlm half 0x18) 0 2 2)

/-- The flush has finished: every dirty sector is in memory, STATE reads 1 (R276). -/
def execLlmFlushDone (half : Nat) (s : State) : Host.Outcome State Fault Refusal :=
  if s.fld (aLlm half 0x18) 0 2 ≠ 2 then .next s else .next ((s.writeBackAll half).setFld (aLlm half 0x18) 0 2 1)

/-- The half's LLM is off, once its fills have come: lines written back and dropped, tombstones cleared (R276). -/
def execLlmPowerOffDone (half : Nat) (s : State) : Host.Outcome State Fault Refusal :=
  if s.fld (aLlm half 0x18) 0 2 ≠ 3 || !(s.half half).miss.isEmpty then .next s else
  let s := ((s.half half).lines.map fun (p : Nat × Line) => p.1).foldl (fun s line => s.closeWindow half line) (s.writeBackAll half)
  .next ((s.putHalf half { s.half half with lines := [], tomb := [], pfs := [] }).setFld (aLlm half 0x18) 0 2 0)

/-- The half's LLM is in service again, every line invalid (R277). -/
def execLlmPowerUpDone (half : Nat) (s : State) : Host.Outcome State Fault Refusal :=
  if s.fld (aLlm half 0x18) 0 2 ≠ 0 || s.fld (aLlm half 0) 0 1 = 0 then .next s
  else .next ((s.putHalf half { s.half half with lines := [], tomb := [] }).setFld (aLlm half 0x18) 0 2 1)

/-- Whether the cache slice of a line has a demand request waiting (R257; log 67). -/
def State.cacheDemand (s : State) (h line : Nat) : Bool :=
  s.flight.llm.any (fun r => r.half == h && cacheSlice r.line == cacheSlice line) || s.flight.contrib.any fun c => c.1 == h && sliceOf c.2.line == cacheSlice line

/-- The slot's prefetcher fetches its next line, in a cycle without a demand request for its cache slice: at most 16 outstanding and AHEAD lines beyond the highest touched; a line that
is unmapped or not cacheable is skipped (R227 to R229, R257). -/
def execPrefetchFill (half pf : Nat) (s : State) : Host.Outcome State Fault Refusal :=
  match NMap.find? (s.half half).pfs pf with
  | none => .next s
  | some p =>
    let limit := match p.touched with | some t => t + 1 + p.ahead | none => p.ahead
    if s.switched half p.cls || decide (16 ≤ p.inflight.length) || decide (limit ≤ p.next) || decide (p.count ≤ p.next) then .next s else
    let x := s.half half
    let keep (q : Prefetch) : NMap Prefetch := if q.count ≤ q.next then NMap.del x.pfs pf else NMap.put x.pfs pf q
    let skip : State := s.putHalf half { x with pfs := keep { p with next := p.next + 1 } }
    match s.translate p.slice (wrap 48 ((p.base : Int) + p.stride * (p.next : Nat))) with
    | some (.mem pa pg) =>
      let line := pa / 128
      match s.homeNode line with
      | none => .next skip
      | some n =>
        if s.cacheDemand half line || s.stopping half then .next s else
        if pg.policy ≠ 0 || isScratch line || (NMap.find? x.lines line).isSome || (x.miss.any fun m => m.line == line) then .next skip else
        match skip.openMiss half line .rds [] [] false true p.slice pg.policy p.cls pg.ro with
        | none => .next s
        | some (t, tag) =>
          let y := t.half half
          let t := t.putHalf half { y with pfs := match NMap.find? y.pfs pf with | some q => NMap.put y.pfs pf { q with inflight := line :: q.inflight } | none => y.pfs }
          .next ((t.countAccess half p.slice p.cls (cacheSlice line) false).send (.rds ⟨n, .half half, tag, line⟩))
    | _ => .next skip

/-- No demand has touched the stream for 100 µs: it ends (R228). -/
def execStreamIdleTimeout (half pf : Nat) (s : State) : Host.Outcome State Fault Refusal :=
  let x := s.half half
  .next (s.putHalf half { x with pfs := NMap.del x.pfs pf })

end Sys2Proof.Machine
end

