-- ==== Sys2Proof/Machine/CohHalf.lean ====
section
/-! DEFINITION. The half side of coherence, the answers at the home, and lost halves (R317 to R324). -/

namespace Sys2Proof.Machine

/-- What a half has of a forward's line (R317). -/
inductive Found where
  | line (l : Line)
  | buffer (b : WbBuf)
  | miss
  | nothing
deriving DecidableEq, Repr

/-- Looks up a forward: the owned line under the owner tag, a write-back buffer, a miss entry with that tag (R317). -/
def State.lookup (s : State) (f : Fwd) : Found :=
  let x := s.half f.half
  match NMap.find? x.lines f.line with
  | some l => if l.st ≠ .s ∧ l.tag = f.otag then .line l else
    if x.miss.any (fun m => m.line == f.line && m.tag == f.otag) then .miss else
    match x.wb.find? fun b => b.line == f.line && b.tag == f.otag with
    | some b => .buffer b
    | none => .nothing
  | none =>
    match x.wb.find? fun b => b.line == f.line && b.tag == f.otag with
    | some b => .buffer b
    | none => if x.miss.any (fun m => m.line == f.line && m.tag == f.otag) then .miss else .nothing

/-- Data to the requester of a forward. -/
def State.answer (s : State) (f : Fwd) (g : Granted) (d : LineData) : State := s.send (.dataMsg ⟨f.src, f.tag, f.node, f.line, g, 0, d, some f.half⟩)

/-- A line leaves a half that has given it to another (R317). -/
def State.loseLine (s : State) (h line : Nat) : State :=
  let x := s.half h
  s.putHalf h { x with lines := NMap.del x.lines line }

/-- A line's whole content at its owner, invalid sectors from memory (R254). -/
def State.wholeLine (s : State) (line : Nat) (d : LineData) : LineData :=
  ⟨s.filled line d.sec, d.poison ||| (List.range 4).foldl (fun m i => if (d.sec.getD i none).isNone && s.poisoned (4 * line + i) then m ||| (1#4 <<< i) else m) 0, d.dirty⟩

/-- Serves a forward from the owned line; pending contributions and the combine window come first (R206, R256, R317). -/
def State.serveLine (s : State) (f : Fwd) (k : FwdKind) : State :=
  let h := f.half
  let s := if k = .fwdop (.body (.read 0)) then s else (s.closeWindow h f.line).resolveLine h f.line
  match NMap.find? (s.half h).lines f.line with
  | none => s
  | some l =>
    let d := s.wholeLine f.line ⟨l.sec, l.poison, l.dirty⟩
    match k with
    | .fwds =>
      ((s.updLine h f.line fun l => { l with st := .s, hold := false, dirty := 0, sec := d.sec, poison := d.poison }).answer f .s { d with dirty := 0 }).send (.wbdata f .fwds d)
    | .fwdx => (s.loseLine h f.line).answer f .m d
    | .recall => (s.loseLine h f.line).send (.wbdata f .recall d)
    | .fwdrd => s.answer f .none { d with dirty := 0 }
    | .fwdop (.body (.read m)) => s.answer f .none ⟨(List.range 4).map fun i => if m.getLsbD i then d.sec.getD i none else none, d.poison &&& m, 0⟩
    | .fwdop (.body (.write bs)) => (s.writeLine h f.line bs).answer f .none noData
    | .fwdop (.body (.atom a)) =>
      let (s, vals, bad) := s.atomLine h f.line a
      s.send (.atomret f.src f.tag f.node f.line vals bad)

/-- Changes a write-back buffer. -/
def State.updBuf (s : State) (h : Nat) (b : WbBuf) (g : WbBuf → Option WbBuf) : State :=
  let x := s.half h
  s.putHalf h { x with wb := x.wb.filterMap fun c => if c.line = b.line ∧ c.tag = b.tag then g c else some c }

/-- Writes bytes into a line's sectors. -/
def writeSecs (d : LineData) (bs : List (Nat × Byte)) : LineData :=
  bs.foldl (fun d b => { d with sec := secWrite d.sec b.1 1 b.2.toNat, dirty := d.dirty ||| (1#4 <<< (b.1 / 32)) }) d

/-- Serves a forward from a write-back buffer; the one that ends the ownership frees a buffer whose completion was stale (R317,
R318). -/
def State.serveBuffer (s : State) (f : Fwd) (b : WbBuf) (k : FwdKind) : State :=
  let d := s.wholeLine f.line b.data
  let put (d : LineData) (s : State) : State := s.updBuf f.half b fun c => some { c with data := d }
  let give (s : State) : State := s.updBuf f.half b fun c => if c.stale then none else some { c with given := true }
  match k with
  | .fwds => ((give s).answer f .s { d with dirty := 0 }).send (.wbdata f .fwds d)
  | .fwdx => (give s).answer f .m d
  | .recall => (give s).send (.wbdata f .recall d)
  | .fwdrd => s.answer f .none { d with dirty := 0 }
  | .fwdop (.body (.read m)) => s.answer f .none ⟨(List.range 4).map fun i => if m.getLsbD i then d.sec.getD i none else none, d.poison &&& m, 0⟩
  | .fwdop (.body (.write bs)) => (put (writeSecs d bs) s).answer f .none noData
  | .fwdop (.body (.atom a)) =>
    let n := atyBytes a.aty
    let r := atomLanes a.aop a.aty (secRead d.sec (a.addr % 128) n) a.lanes
    (put (writeSecs d ((leBytes n r.1).zipIdx.map fun x => (a.addr % 128 + x.2, x.1))) s).send
      (.atomret f.src f.tag f.node f.line r.2 (d.poison.getLsbD (a.addr % 128 / 32)))

/-- A forward that is not parked is served, or answered with NoData (R317). -/
def State.serveFwd (s : State) (f : Fwd) (k : FwdKind) : State :=
  match s.lookup f with
  | .line _ => s.serveLine f k
  | .buffer b => s.serveBuffer f b k
  | _ => (s.nodeCount f.node 4 1).send (.nodata f k)

/-- A forward reaches its half: served, parked behind the half's own miss, or answered with NoData (R315, R317, R321). -/
def State.takeFwd (s : State) (i : Instr) (f : Fwd) (k : FwdKind) : State :=
  if !s.arrives i then s else
  let s := s.take i
  if s.lookup f == .miss || (s.half f.half).parked.any (fun p => p.1 == f.line && p.2.1.otag == f.otag) then
    let x := s.half f.half
    s.putHalf f.half { x with parked := x.parked ++ [(f.line, f, k)] }
  else s.serveFwd f k

/-- Inv at a half (R317). -/
def State.takeInv (s : State) (h line node : Nat) (ackTo : Option Party) : State :=
  let x := s.half h
  let s : State := match NMap.find? x.lines line with
    | some l => if l.st = .s then (s.closeWindow h line).loseLine h line else s.nodeCount node 4 1
    | none => s.nodeCount node 4 1
  let y := s.half h
  (s.putHalf h { y with miss := y.miss.map fun m => if m.line = line then { m with dropped := true } else m }).send (.ack h line node ackTo)

/-- The sectors that a message carries. -/
def validOf (d : LineData) : BitVec 4 := (List.range 4).foldl (fun b i => if (d.sec.getD i none).isSome then b ||| (1#4 <<< i) else b) 0

/-- Data reach a party; one without a half takes them and completes the transaction (R319). -/
def State.takeData (s : State) (m : DataMsg) : State :=
  match m.dst with
  | .half h =>
    let x := s.half h
    (s.putHalf h { x with miss := x.miss.map fun k => if k.line = m.line ∧ k.tag = m.tag then { k with got := some (m.grant, m.data), ackcnt := some m.ackcnt } else k }).finishMiss h m.line
  | .fine core slot op => (s.deliver (.load core slot op) m.line m.data (validOf m.data)).send (.doneMsg m.dst m.node m.line)
  | .agent a => (s.deliver a m.line m.data (validOf m.data)).send (.doneMsg m.dst m.node m.line)

/-- An Ack reaches the requester or the home (R312, R319). -/
def State.takeAck (s : State) (line node : Nat) (dst : Option Party) : State :=
  match dst with
  | some (.half h) =>
    let x := s.half h
    (s.putHalf h { x with miss := x.miss.map fun k => if k.line = line then { k with acks := k.acks + 1 } else k }).finishMiss h line
  | some _ => s
  | none => (s.stepTxn node (fun t => t.line == line && t.acks != 0) fun t => { t with acks := t.acks - 1 }).afterTxn node

/-- A transaction's owner data have been settled at the home. -/
def State.gotData (s : State) (f : Fwd) : State :=
  (s.stepTxn f.node (fun t => t.line == f.line && t.src == f.src && t.tag == f.tag && t.data) fun t => { t with data := false }).afterTxn f.node

/-- NoData: the home serves the requester itself; memory is current (R317). -/
def State.takeNodata (s : State) (f : Fwd) (k : FwdKind) : State :=
  let q : CohReq := ⟨f.node, f.src, f.tag, f.line⟩
  let reply (s : State) (g : Granted) (m : BitVec 4) : State :=
    let (s, d) := s.homeRead f.node f.line
    s.send (.dataMsg ⟨q.src, q.tag, q.node, q.line, g, 0, ⟨(List.range 4).map fun i => if m.getLsbD i then d.sec.getD i none else none, d.poison &&& m, 0⟩, none⟩)
  match k with
  | .fwds => (reply s .s 15).gotData f
  | .fwdx => reply s .m 15
  | .recall => s.gotData f
  | .fwdrd => reply s .none 15
  | .fwdop (.body (.read m)) => reply s .none m
  | .fwdop (.body (.write bs)) => (s.homeWrite f.node f.line bs).send (.dataMsg ⟨q.src, q.tag, q.node, q.line, .none, 0, noData, none⟩)
  | .fwdop (.body (.atom a)) =>
    let (s, vals, bad) := s.farAtom a
    s.send (.atomret f.src f.tag f.node f.line vals bad)

/-- Dirty sectors of an owner reach the home (R317). -/
def State.takeWbdata (s : State) (f : Fwd) (d : LineData) : State := (s.homeWriteBack f.node f.line d).gotData f

/-- Returned values of an atomic reach the requester: its transaction is over, and what had joined the entry is served (R313). -/
def State.takeAtomret (s : State) (dst : Party) (tag node line : Nat) (vals : List (Nat × Nat)) (poison : Bool) : State :=
  let s := s.send (.doneMsg dst node line)
  match dst with
  | .half h =>
    match (s.half h).miss.find? fun m => m.line == line && m.tag == tag with
    | none => s
    | some m =>
      let s := s.dropMiss h line
      let isAtom (r : LlmReq) : Bool := match r.body with | .atom _ => true | _ => false
      match m.reqs.find? isAtom with
      | some r =>
        let s := match r.body with | .atom a => s.deliverAtom r.agent a.addr vals poison | _ => s
        (s.serveAll (m.reqs.erase r)).retryContribs h m.contribs
      | none => s.serveAll m.reqs
  | .fine core slot op => s.deliverAtom (.load core slot op) (128 * line) vals poison
  | .agent a => s.deliverAtom a (128 * line) vals poison

/-- Done ends a transaction; one whose owner data have not come stays for those (R313, R322). -/
def State.takeDone (s : State) (src : Party) (node line : Nat) : State :=
  let x := s.node node
  match x.txns.find? fun t => t.line == line && t.src == src && t.done with
  | none => s
  | some t =>
    let s := if t.acks = 0 ∧ !t.data then s.putNode node { x with txns := x.txns.erase t }
      else s.putNode node { x with txns := x.txns.map fun k => if k = t then { t with done := false } else k }
    s.afterTxn node

/-- Cmp ends WrNA, PutM, DropM and HoldEnd (R313, R318). -/
def State.takeCmp (s : State) (dst : Party) (tag line : Nat) (stale : Bool) : State :=
  match dst with
  | .half h =>
    let x := s.half h
    match x.miss.find? fun m => m.line == line && m.tag == tag with
    | some m =>
      match m.reqs with
      | r :: t =>
        (((s.dropMiss h line).accept r.agent).serveAll t).retryContribs h m.contribs
      | [] => s.dropMiss h line
    | none => s.putHalf h { x with wb := x.wb.filterMap fun b =>
        if b.line = line ∧ b.tag = tag then (if !stale || b.given then none else some { b with stale := true }) else some b }
  | .fine _ _ _ => s
  | .agent a => s.accept a

/-- The oldest parked forward of a line is served once no miss entry with its owner tag is open (R321). -/
def State.serveParked (s : State) (h line : Nat) : State :=
  let x := s.half h
  match x.parked.find? fun p => p.1 == line with
  | none => s
  | some (l, f, k) =>
    if x.miss.any fun m => m.line == line && m.tag == f.otag then s
    else (s.putHalf h { x with parked := x.parked.erase (l, f, k) }).serveFwd f k

/-- Halves declared lost: every home enters blocking mode, transactions of lost requesters are cancelled, forwards and Invs at
them count as answered; their scan begins (R324). -/
def State.loseHalves (s : State) (hs : List Nat) : State :=
  let lostP : Party → Bool
    | .half h => hs.contains h
    | .fine c _ _ => hs.contains (c / 32)
    | .agent a => match agentCore a with | some c => hs.contains (c / 32) | none => false
  let conv (i : Instr) : List Instr :=
    match i with
    | .fwds f => if hs.contains f.half then [.nodata f .fwds] else [i]
    | .fwdx f => if hs.contains f.half then [.nodata f .fwdx] else [i]
    | .fwdrd f => if hs.contains f.half then [.nodata f .fwdrd] else [i]
    | .recall f => if hs.contains f.half then [.nodata f .recall] else [i]
    | .fwdop f op => if hs.contains f.half then [.nodata f (.fwdop op)] else [i]
    | .inv h l n a => if hs.contains h then [.ack h l n a] else [i]
    | .dataMsg m => if lostP m.dst then [] else [i]
    | .grant d _ _ _ _ | .atomret d _ _ _ _ _ | .cmp d _ _ _ _ | .doneMsg d _ _ => if lostP d then [] else [i]
    | i => match reqOf i with | some q => if lostP q.src then [] else [i] | none => [i]
  let parked := (hs.flatMap fun h => (s.half h).parked).map fun p => Instr.nodata p.2.1 p.2.2
  let s : State := { s with flight := { s.flight with net := s.flight.net.flatMap conv ++ parked
                                                      llm := s.flight.llm.filter fun r => !hs.contains r.half } }
  (List.range 18).foldl (fun s n =>
    let x := s.node n
    let s := s.putNode n { x with lost := hs, txns := x.txns.filter (fun t => !(t.done && lostP t.src)), waits := x.waits.filter fun i => match reqOf i with | some q => !lostP q.src | none => true }
    s.setFld (aCoh n 0) 0 2 1) s

/-- The scan of a directory: pointers to lost halves are cleared; a line that one owned is poisoned in memory and its entry
becomes U (R324). -/
def State.scanLost (s : State) (n : Nat) : State :=
  let hs := (s.node n).lost
  (s.node n).dir.foldl (fun s (p : Nat × DirEnt) =>
    match p.2 with
    | .s ps => let l := ps.filter fun h => !hs.contains h; if l.isEmpty then s.setDir n p.1 none else
        let x := s.node n
        s.putNode n { x with dir := NMap.put x.dir p.1 (.s l) }
    | .x o _ _ =>
      if !hs.contains o then s else
      let s := (s.setDir n p.1 none).poisonLine n p.1
      ((s.flag (aCoh n 0x40) 2).satInc (aCoh n 0x48) 48 16).record { sev := 6, block := 7, code := 2, die := dieOfNode n, pa := some (128 * p.1) }
    | _ => s) s

end Sys2Proof.Machine
end

