-- ==== Sys2Proof/Machine/Matrix.lean ====
section
/-! DEFINITION. The matrix unit: issue checks of mxa and mxw, their arithmetic, starts and completions (spec 5, R156 to R160). -/

namespace Sys2Proof.Machine

/-- The element format of a format code (R113). -/
def codeFmt : Nat → Num.Fmt
  | 0 => .f32 | 1 => .bf16 | 2 => .f16 | 3 | 0xA => .e4m3 | 4 | 0xB => .e5m2 | 5 | 0xC => .e3m2 | 6 | 0xD => .e2m3
  | 7 | 0xE => .e2m1 | 8 => .s8 | 9 => .s4 | _ => .s32
/-- Element width in bits. -/
def codeWidth (c : Nat) : Nat := (codeFmt c).width
/-- Whether a code names a block format. -/
def codeBlock (c : Nat) : Bool := decide (0xA ≤ c) && decide (c ≤ 0xE)
/-- Whether mxa accepts a code (R133). -/
def mxaCode (c : Nat) : Bool := decide (c ≤ 4) || (decide (8 ≤ c) && decide (c ≤ 0xE))
def codeInt (c : Nat) : Bool := c == 8 || c == 9 || c == 0xF
/-- Rate class (R130). -/
def codeClass (c : Nat) : Nat := if c = 0 then 32 else if c ≤ 2 then 16 else if c = 9 ∨ c = 0xE then 4 else 8
/-- Step width of a class (R130). -/
def stepWidth (cls : Nat) : Nat := if cls = 32 then 2 else 128 / cls

/-- Fields of the mxa main descriptor (R136). -/
structure MxaD where
  fa : Nat
  fb : Nat
  zc : Bool
  spa : Nat
  bt : Bool
  pen : Bool
  pinv : Bool
  zen : Bool
  m : Nat
  n : Nat
  k : Nat
  aaddr : Nat
  baddr : Nat
  caddr : Nat
  astr : Nat
  bstr : Nat
  cstr : Nat
  paddr : Nat
  pbit : Nat
deriving DecidableEq, Repr

/-- Reads the main descriptor, addresses and strides in bytes (R134, R136). -/
def mxaD (d : W256) : MxaD :=
  { fa := dfld d 4 4, fb := dfld d 8 4, zc := dfld d 12 1 == 1, spa := dfld d 13 2, bt := dfld d 15 1 == 1,
    pen := dfld d 16 1 == 1, pinv := dfld d 17 1 == 1, zen := dfld d 18 1 == 1,
    m := 4 * (dfld d 20 6 + 1), n := 16 * (dfld d 26 4 + 1), k := 8 * (dfld d 30 11 + 1),
    aaddr := 32 * dfld d 41 13, baddr := 32 * dfld d 54 13, caddr := 32 * dfld d 67 12,
    astr := 32 * dfld d 79 13, bstr := 32 * dfld d 92 13, cstr := 32 * dfld d 105 12,
    paddr := 32 * dfld d 117 13, pbit := dfld d 130 8 }

/-- Fields of the plane descriptor, in bytes (R137). -/
structure PlaneD where
  ascl : Nat
  asstr : Nat
  bscl : Nat
  bsstr : Nat
  aph : Nat
  bph : Nat
  aseg : Nat
  asegstr : Nat
  bseg : Nat
  bsegstr : Nat
  md : Nat
  mdstr : Nat
  zmap : Nat
deriving DecidableEq, Repr

def planeD (d : W256) : PlaneD :=
  { ascl := 8 * dfld d 4 15, asstr := 8 * dfld d 19 12, bscl := 8 * dfld d 31 15, bsstr := 8 * dfld d 46 12,
    aph := dfld d 58 4, bph := dfld d 62 4, aseg := 8 * dfld d 66 15, asegstr := 8 * dfld d 81 10,
    bseg := 8 * dfld d 91 15, bsegstr := 8 * dfld d 106 10, md := 8 * dfld d 116 15, mdstr := 8 * dfld d 131 12,
    zmap := 8 * dfld d 143 15 }

/-- Logical K-blocks per step (R134). -/
def MxaD.f (a : MxaD) : Nat := 2 ^ a.spa
/-- K-blocks of the operation. -/
def MxaD.nb (a : MxaD) : Nat := cdiv a.k 32
/-- Step count (R134). -/
def MxaD.steps (a : MxaD) : Nat := cdiv a.m 4 * cdiv a.n (stepWidth (max (codeClass a.fa) (codeClass a.fb))) * cdiv a.k (32 * a.f)

/-- Formats, shape and sparsity of R133, R134, R135, R136, R141, R159. -/
def mxaMainOk (d : W256) : Bool :=
  let a := mxaD d
  dfld d 0 4 == 1 && dfld d 19 1 == 0 && dfld d 138 118 == 0 && mxaCode a.fa && mxaCode a.fb && (codeInt a.fa == codeInt a.fb)
  && a.spa != 3 && (a.spa == 0 || (!a.bt && a.fb != 0 && (a.spa == 1 || a.fb == 9 || a.fb == 0xE)))
  && (!(codeBlock a.fb && a.bt) || a.n % 32 == 0)
  && (!(codeBlock a.fa || (codeBlock a.fb && !a.bt)) || a.k % 32 == 0)
  && (a.spa == 0 || a.k % (32 * a.f) == 0)
  && decide (a.steps ≤ 16384) && decide (a.n * 4 ≤ a.cstr) && (!a.zen || (decide (a.m ≤ 128) && decide (a.nb ≤ 32)))

/-- Whether a plane descriptor is required (R137). -/
def MxaD.needsPlane (a : MxaD) : Bool := codeBlock a.fa || codeBlock a.fb || a.spa != 0 || a.zen

/-- Kind, reserved and unused fields of the plane descriptor (R135, R137). -/
def planeOk (a : MxaD) (d : W256) : Bool :=
  dfld d 0 4 == 2 && dfld d 158 98 == 0
  && (codeBlock a.fa || (dfld d 4 15 == 0 && dfld d 19 12 == 0))
  && (codeBlock a.fb || (dfld d 31 15 == 0 && dfld d 46 12 == 0))
  && (a.fa == 0xE || (dfld d 58 4 == 0 && dfld d 66 15 == 0 && dfld d 81 10 == 0))
  && (a.fb == 0xE || (dfld d 62 4 == 0 && dfld d 91 15 == 0 && dfld d 106 10 == 0))
  && (a.spa != 0 || (dfld d 116 15 == 0 && dfld d 131 12 == 0)) && (a.zen || dfld d 143 15 == 0)

/-- First address at or above which an access of `rows` rows of `span` bytes ends. -/
def extent (base stride rows span : Nat) : Nat := base + stride * (rows - 1) + span

/-- Bytes of one row of an operand's planes that the operation may read: elements, scales, segments (R134, R138, R139). -/
def aSpans (a : MxaD) (p : PlaneD) (kofs : Nat) : Nat × Nat × Nat :=
  let la := 32 * kofs + a.k
  (cdiv (codeWidth a.fa * la) 8, la / (if a.fa = 0xE then 16 else 32), 2 * ((p.aph + kofs + a.nb - 1) / 16 + 1))
def bSpans (a : MxaD) (p : PlaneD) (kofs : Nat) : Nat × Nat × Nat :=
  let g := if a.fb = 0xE then 16 else 32
  if a.bt then (cdiv (codeWidth a.fb * a.n) 8, a.n / g, 2 * ((p.bph + a.n / 32 - 1) / 16 + 1))
  else
    let la := 32 * kofs + a.k
    (if a.spa = 0 then cdiv (codeWidth a.fb * la) 8 else (kofs + a.nb) * (32 / a.f) * codeWidth a.fb / 8,
     la / g, 2 * ((p.bph + kofs + a.nb - 1) / 16 + 1))

/-- Ends of the local-memory ranges of an mxa (R147 step 3). -/
def mxaEnds (a : MxaD) (p : PlaneD) (kofs : Nat) : List Nat :=
  let (ae, as, ag) := aSpans a p kofs
  let (be, bs, bg) := bSpans a p kofs
  let br := if a.bt then 32 * kofs + a.k else a.n
  [extent a.aaddr a.astr a.m ae, extent a.baddr a.bstr br be]
  ++ (if codeBlock a.fa then [extent p.ascl p.asstr a.m as] else [])
  ++ (if codeBlock a.fb then [extent p.bscl p.bsstr br bs] else [])
  ++ (if a.fa = 0xE then [extent p.aseg p.asegstr a.m ag] else [])
  ++ (if a.fb = 0xE then [extent p.bseg p.bsegstr br bg] else [])
  ++ (if a.spa = 0 then [] else [extent p.md p.mdstr a.n (8 / a.f * (kofs + a.nb))])
  ++ (if a.pen then [a.paddr + 32] else []) ++ (if a.zen then [p.zmap + 128] else [])

/-- One past the last accumulator byte (R147 step 2). -/
def accEnd (caddr cstr m n : Nat) : Nat := caddr + cstr * (m - 1) + 4 * n

/-- The fault of the ranges of R147 steps 2 and 3. -/
def mxRanges (c : Ctx) (acc : Nat) (ends : List Nat) : Option FaultInfo :=
  if c.b.l = 0 ∨ c.b.l * 512 < acc then some { code := 0x04, lanes := c.p.mask }
  else if ends.any fun e => decide (c.b.l * 1024 < e) then some { code := 0x03, lanes := c.p.mask }
  else none

/-- The first fault of an mxa at issue (R139, R147). -/
def mxaFault (c : Ctx) (d d2 : W256) (x2 : Bool) (u : W64) : Option FaultInfo :=
  let a := mxaD d
  if !mxaMainOk d || (a.needsPlane && !x2) || (x2 && !planeOk a d2) || u >>> 16 != 0 then
    some { code := 0x0D, lanes := c.p.mask }
  else mxRanges c (accEnd a.caddr a.cstr a.m a.n) (mxaEnds a (planeD (if x2 then d2 else 0)) u.toNat)

/-- Fields of the mxw descriptor, in bytes (R144). -/
structure MxwD where
  fd : Nat
  int : Bool
  rnd : Nat
  sat : Bool
  clr : Bool
  rs : Bool
  m : Nat
  n : Nat
  caddr : Nat
  cstr : Nat
  daddr : Nat
  dstr : Nat
  rsaddr : Nat
deriving DecidableEq, Repr

def mxwD (d : W256) : MxwD :=
  { fd := dfld d 4 4, int := dfld d 8 1 == 1, rnd := dfld d 9 3, sat := dfld d 12 1 == 1, clr := dfld d 13 1 == 1,
    rs := dfld d 14 1 == 1, m := 4 * (dfld d 16 6 + 1), n := 16 * (dfld d 22 4 + 1), caddr := 32 * dfld d 26 12,
    cstr := 32 * dfld d 38 12, daddr := 32 * dfld d 50 13, dstr := 32 * dfld d 63 13, rsaddr := 32 * dfld d 76 13 }

/-- Descriptor checks of R135 and R144. -/
def mxwOk (d : W256) : Bool :=
  let a := mxwD d
  dfld d 0 4 == 3 && dfld d 15 1 == 0 && dfld d 89 167 == 0
  && (if a.int then [0, 8, 0xF].contains a.fd else decide (a.fd ≤ 4)) && decide (a.rnd ≤ 4)
  && decide (a.n * 4 ≤ a.cstr) && decide (a.n * codeWidth a.fd / 8 ≤ a.dstr)

/-- The first fault of an mxw at issue (R144, R147). -/
def mxwFault (c : Ctx) (d : W256) (xu : Bool) (u : W64) : Option FaultInfo :=
  let a := mxwD d
  if !mxwOk d || (xu && u >>> 32 != 0) then some { code := 0x0D, lanes := c.p.mask }
  else mxRanges c (accEnd a.caddr a.cstr a.m a.n)
    ([extent a.daddr a.dstr a.m (a.n * codeWidth a.fd / 8)] ++ (if a.rs then [a.rsaddr + 4 * a.m] else []))

/-- The instruction's offset from the task's code address in instructions (R115). -/
def Ctx.codeOfs (c : Ctx) : Nat := (c.p.pc + 2 ^ 48 - c.b.code) % 2 ^ 48 / 8

/-- Issues an operation of the unit: not ready while 8 wait, whatever its descriptors hold (R148); then its first fault, or the queue. -/
def mxQueue (isA : Bool) (w : XF) (d d2 : W256) (u : W64) (fault : Option FaultInfo) (c : Ctx) (s : State) : Eff :=
  if 8 ≤ c.c.mxq.length then .stall else
  match fault with
  | some f => .fault f
  | none =>
  let s := s.startToken c w.k.toNat
  let k := s.core c.core
  .go (s.putCore c.core { k with mxq := k.mxq ++ [⟨c.g.block, c.slot, w.k.toNat, d, d2, u, isA, c.codeOfs, c.g.index⟩] })

/-- mxa: a SUB that is not 0 is a condition of R136, so fault 0x0D (R147). -/
def execMxa (x : Site) (w : XF) (s : State) : Host.Outcome State Fault Refusal :=
  asyncIssue true x w (fun c s =>
    let d := c.g.desc w.d.toNat
    let d2 := if w.x2 then c.g.desc w.d2.toNat else 0
    let u := if w.xu then c.g.ureg w.ur.toNat else 0
    mxQueue true w d d2 u (if w.sub = 0 then mxaFault c d d2 w.x2 u else some { code := 0x0D, lanes := c.p.mask }) c s) s

/-- mxw: X2 = 1 and a SUB that is not 0 are conditions of R144, so fault 0x0D (R147). -/
def execMxw (x : Site) (w : XF) (s : State) : Host.Outcome State Fault Refusal :=
  asyncIssue true x w (fun c s =>
    let d := c.g.desc w.d.toNat
    let u := if w.xu then c.g.ureg w.ur.toNat else 0x3F800000
    mxQueue false w d 0 u (if w.sub = 0 && !w.x2 then mxwFault c d w.xu u else some { code := 0x0D, lanes := c.p.mask }) c s) s

/-- Element `i` of `w` bits of a plane (R112). -/
def planeBits (m : Mem) (base i w : Nat) : Nat := bits (m.readLE (base + i * w / 8) (w / 8 + 2)) (i * w % 8) w

/-- A stored element at plane index `i` and logical position `pos` of its row (R109, R110, R133, R138). -/
def stored (m : Mem) (code eb sb gb ph pos i : Nat) : Num.Val :=
  let x := Num.decode (codeFmt code) (planeBits m eb i (codeWidth code))
  if code = 0xE then Num.scaledSeg (m.readLE (gb + 2 * ((ph + pos / 32) / 16)) 2) (m.readLE (sb + pos / 16) 1) x
  else if codeBlock code then Num.scaled (m.readLE (sb + pos / 32) 1) x
  else x

/-- Positions of a block's products: K-position within the operation and the value of B′ (R131, R139, R142, R143). -/
def bBlock (m : Mem) (a : MxaD) (p : PlaneD) (kofs c b : Nat) : List (Nat × Num.Val) :=
  if a.bt then
    (List.range (min 32 (a.k - 32 * b))).map fun i =>
      let j := 32 * kofs + 32 * b + i
      (32 * b + i, stored m a.fb (a.baddr + a.bstr * j) (p.bscl + p.bsstr * j) (p.bseg + p.bsegstr * j) p.bph c c)
  else
    let eb := a.baddr + a.bstr * c
    let sb := p.bscl + p.bsstr * c
    let gb := p.bseg + p.bsegstr * c
    if a.spa = 0 then
      (List.range (min 32 (a.k - 32 * b))).map fun i =>
        let q := 32 * kofs + 32 * b + i
        (32 * b + i, stored m a.fb eb sb gb p.bph q q)
    else
      let e := 32 / a.f
      let x := m.readLE (p.md + p.mdstr * c + 8 / a.f * (kofs + b)) (8 / a.f)
      (List.range e).map fun i =>
        let pos := 4 * (i / (e / 8)) + bits x (2 * i) 2
        (32 * b + pos, stored m a.fb eb sb gb p.bph (32 * (kofs + b) + pos) (e * (kofs + b) + i))

/-- A[r][k] (R131, R139). -/
def aElem (m : Mem) (a : MxaD) (p : PlaneD) (kofs r k : Nat) : Num.Val :=
  let q := 32 * kofs + k
  stored m a.fa (a.aaddr + a.astr * r) (p.ascl + p.asstr * r) (p.aseg + p.asegstr * r) p.aph q q

/-- One block applied to an accumulator value (R124 to R126). -/
def blockStep (isInt : Bool) (c : Nat) (prods : List (Num.Val × Num.Val)) : Nat :=
  if isInt then Num.blockSumInt c (prods.map fun q => Num.Val.at 0 (Num.mul q.1 q.2))
  else Num.blockSum c (prods.map fun q => Num.mul q.1 q.2)

/-- Element (r, c) of the result, where `present b` says which blocks take part (R131, R157). -/
def mxaElem (b : Block) (a : MxaD) (p : PlaneD) (kofs r c : Nat) (present : Nat → Bool) : Nat :=
  ((List.range a.nb).filter present).foldl (fun acc k =>
      blockStep (codeInt a.fa) acc ((bBlock b.loc a p kofs c k).map fun kv => (aElem b.loc a p kofs r kv.1, kv.2)))
    (if a.zc then 0 else b.acc.readLE (a.caddr + a.cstr * r + 4 * c) 4)

/-- What an mxa writes (R140, R156 to R158, R160); nothing where its predicate is false. -/
def mxaWrites (b : Block) (o : MxOp) : List (Nat × List Byte) :=
  let a := mxaD o.d
  let p := planeD o.d2
  if a.pen && (bit (b.loc.readLE a.paddr 32) a.pbit == a.pinv) then [] else
  let rowsKept := (List.range a.m).filter fun r => a.zc || !a.zen || bits (b.loc.readLE (p.zmap + 4 * (r / 4)) 4) 0 a.nb != 0
  rowsKept.map fun r =>
    (a.caddr + a.cstr * r, ((List.range a.n).map fun c =>
      leBytes 4 (mxaElem b a p o.u.toNat r c fun k => !a.zen || bit (b.loc.readLE (p.zmap + 4 * (r / 4)) 4) k)).flatten)

/-- Element (r, c) of an mxw (R145): integers are converted directly where the uniform scale and every row scale are 1. -/
def mxwElem (b : Block) (o : MxOp) (a : MxwD) (r c : Nat) : Nat :=
  let v := b.acc.readLE (a.caddr + a.cstr * r + 4 * c) 4
  let t := if a.rs then b.loc.readLE (a.rsaddr + 4 * r) 4 else 0x3F800000
  let f := codeFmt a.fd
  let rnd := Num.random16 { seed := b.seed.toNat, inst := b.taskNo.toNat, ofs := o.ofs, blk := b.index, grp := o.grp } 0 ((r * a.n + c) % 2 ^ 16)
  let src : Num.Fmt := if a.int then .s32 else .f32
  let plain := !a.rs || (List.range a.m).all fun i => b.loc.readLE (a.rsaddr + 4 * i) 4 == 0x3F800000
  if a.int && o.u.toNat == 0x3F800000 && plain then Num.convert src f a.rnd a.sat rnd v
  else Num.encode f a.rnd a.sat rnd (Num.mul (Num.mul (Num.decode src v) (Num.decode .f32 o.u.toNat)) (Num.decode .f32 t))

/-- What an mxw writes to local memory. -/
def mxwWrites (b : Block) (o : MxOp) : List (Nat × List Byte) :=
  let a := mxwD o.d
  (List.range a.m).map fun r => (a.daddr + a.dstr * r,
    ((List.range a.n).map fun c => leBytes (codeWidth a.fd / 8) (mxwElem b o a r c)).flatten)

/-- What an mxw with CLR writes to the accumulator. -/
def mxwClears (o : MxOp) : List (Nat × List Byte) :=
  let a := mxwD o.d
  if a.clr then (List.range a.m).map fun r => (a.caddr + a.cstr * r, List.replicate (4 * a.n) 0) else []

/-- The accumulator span of an operation (R149). -/
def MxOp.span (o : MxOp) : Nat × Nat :=
  if o.mxa then let a := mxaD o.d; (a.caddr, accEnd a.caddr a.cstr a.m a.n)
  else let a := mxwD o.d; (a.caddr, accEnd a.caddr a.cstr a.m a.n)
/-- Whether it writes its span. -/
def MxOp.writes (o : MxOp) : Bool := o.mxa || (mxwD o.d).clr
/-- Whether one operation must wait for another (R149). -/
def MxOp.conflicts (o q : MxOp) : Bool :=
  o.block == q.block && decide (o.span.1 < q.span.2) && decide (q.span.1 < o.span.2) && (o.writes || q.writes)

/-- The first queued operation of a kind, with those queued before it. -/
def firstOf (isA : Bool) : List MxOp → Option (List MxOp × MxOp × List MxOp)
  | [] => none
  | o :: r => if o.mxa == isA then some ([], o, r) else (firstOf isA r).map fun t => (o :: t.1, t.2)

/-- The first operation of a kind that may start, where none of its kind runs (R148, R149), with the queue that remains. -/
def Core.startable (c : Core) (isA : Bool) : Option (MxOp × List MxOp) :=
  if !(if isA then c.mxaRun else c.mxwRun).isEmpty then none else
  match firstOf isA c.mxq with
  | none => none
  | some (before, o, after) =>
    if (before ++ (c.mxaRun ++ c.mxwRun).map MxRun.op).any o.conflicts then none else some (o, before ++ after)

/-- A queued mxa takes its first step: its predicate, bitmap and operands are read (R140, R151). -/
def execMxaStart (core : Nat) (s : State) : Host.Outcome State Fault Refusal :=
  let c := s.core core
  match c.startable true with
  | none => .next s
  | some (o, q) =>
    match NMap.find? c.blocks o.block with
    | none => .next s
    | some b => .next (s.putCore core { c with mxq := q, mxaRun := c.mxaRun ++ [{ op := o, acc := mxaWrites b o, loc := [] }] })

def execMxwStart (core : Nat) (s : State) : Host.Outcome State Fault Refusal :=
  let c := s.core core
  match c.startable false with
  | none => .next s
  | some (o, q) =>
    match NMap.find? c.blocks o.block with
    | none => .next s
    | some b => .next (s.putCore core { c with mxq := q, mxwRun := c.mxwRun ++ [{ op := o, acc := mxwClears o, loc := mxwWrites b o }] })

/-- The writes of an operation and the end of its token. -/
def State.mxDone (s : State) (core : Nat) (r : MxRun) : State :=
  let s := match NMap.find? (s.core core).blocks r.op.block with
    | some b => s.putBlock core r.op.block { b with acc := writePieces b.acc r.acc, loc := writePieces b.loc r.loc }
    | none => s
  s.endToken core r.op.slot r.op.block r.op.k .complete

/-- The token of the n-th running mxa becomes complete (R140, R151). -/
def execMxaComplete (core n : Nat) (s : State) : Host.Outcome State Fault Refusal :=
  let c := s.core core
  match c.mxaRun[n]? with
  | none => .next s
  | some r => .next ((s.putCore core { c with mxaRun := c.mxaRun.eraseIdx n }).mxDone core r)

/-- The token of the n-th running mxw becomes complete (R152). -/
def execMxwComplete (core n : Nat) (s : State) : Host.Outcome State Fault Refusal :=
  let c := s.core core
  match c.mxwRun[n]? with
  | none => .next s
  | some r => .next ((s.putCore core { c with mxwRun := c.mxwRun.eraseIdx n }).mxDone core r)

end Sys2Proof.Machine
end

