-- ==== Sys2Proof/Machine/Power.lean ====
section
/-! DEFINITION. Power limits, half clocks, budgets, droop, trips, telemetry, energy (spec 18). -/

namespace Sys2Proof.Machine

/-- Table entry of a clock, the clock of an entry; 57 entries (R514). -/
def stepOf (mhz : Nat) : Nat := (mhz - 600) / 25
def mhzOf (i : Nat) : Nat := 600 + 25 * i

/-- A half of a site, by which the record lists it. -/
def State.siteHalf (s : State) (h : Nat) : Nat := 2 * s.dieOfHalf h + h % 2

/-- The trimmed table voltage of a half at a clock, in 2.5 mV units (R514, R515). -/
def State.volt (s : State) (h mhz : Nat) : Nat :=
  match s.rlog.trims.find? fun t => t.1 == s.siteHalf h && t.2.1 == stepOf mhz with
  | some t => t.2.2
  | none => Config.voltage (s.siteHalf h) (stepOf mhz)

/-- PWR_HALF_STATUS.MV (R534). -/
def State.milliVolts (s : State) (h : Nat) : Nat := s.volt h (s.fld (aPwrHalf h) 0 11) * 5 / 2 % 2 ^ 12

def State.mhz (s : State) (h : Nat) : Nat := s.fld (aPwrHalf h) 0 11
def State.gated (s : State) (h : Nat) : Bool := s.fld (aPwrHalf h) 45 1 == 1
/-- A half of an enabled die whose clock runs (R513); a die that is being substituted runs nothing (R490, R551). -/
def State.runs (s : State) (h : Nat) : Bool := s.present (h / 2) && NMap.get 0 s.dieState (s.sites.getD (h / 2) 99) != 5 && !s.gated h
/-- PWR_HALF_CTRL.GATE in effect: the half drains or is gated (R513). -/
def State.gateSet (s : State) (h : Nat) : Bool := s.fld (aPwr (0x100 + 8 * h)) 0 1 == 1

def State.boost (s : State) : Bool := s.fld (aPwr 0) 0 1 == 1
def State.modeTarget (s : State) : Nat := if s.boost then s.fld (aPwr 0) 1 11 else 1800

/-- The limits of a Run half but the budget, with their codes (R516). -/
def State.otherLimits (s : State) (h : Nat) : List (Nat × Nat) :=
  [(0, s.modeTarget), (3, (s.halfPower h).thermal)] ++
  (if (s.diePower (h / 2)).slow && s.fld (aPwr 0x20) 23 1 == 0 then [(4, s.fld (aPwr 0x10) 0 11)] else []) ++
  (if s.fld (aLnk 0x20) 11 11 = 0 then [] else [(5, s.fld (aLnk 0x20) 11 11)]) ++
  [(6, s.fld (aPwrHalf h) 14 11)]

/-- The budget limit where the budget fixes it: code 2 while L equals the cap, else 1 (R516). -/
def State.budgetLimit (s : State) (h : Nat) : List (Nat × Nat) :=
  let x := s.halfPower h
  if x.binds then [(if (s.diePower (h / 2)).capped then 2 else 1, x.budget)] else []

/-- The lowest limit with its code; the lowest code of equal ones (R516). -/
def lowestLimit (l : List (Nat × Nat)) : Nat × Nat :=
  l.foldl (fun b x => if x.2 < b.2 ∨ (x.2 = b.2 ∧ x.1 < b.1) then x else b) (7, 2048)

/-- A half's clock moves to the lowest limit; core cycles already delivered stay counted. In boost mode it rises by at most one
step per 10 µs. A half whose gate was lifted runs again (R56, R513, R516). -/
def execClockChange (half : Nat) (s : State) : Host.Outcome State Fault Refusal :=
  if 64 ≤ half || !s.present (half / 2) || s.gateSet half then .next s else
  let (code, f) := lowestLimit (s.budgetLimit half ++ s.otherLimits half)
  let cur := s.mhz half
  let last := (NMap.get (0, 0) s.cycBase half).2
  let f := if s.boost && !s.gated half && decide (max cur 1800 < f) then (if last + 10000 ≤ s.time.toNat then max cur 1800 + 25 else cur) else f
  let s := if f = cur ∧ !s.gated half then s else s.syncCycles half
  .next ((((s.setFld (aPwrHalf half) 0 11 f).setFld (aPwrHalf half) 11 3 code).setFld (aPwrHalf half) 45 1 0).setFld (aLlm half 0x18) 7 1 0)

/-- Whether a block is resident on a half. -/
def State.resident (s : State) (h : Nat) : Bool := (List.range 32).any fun c => !(s.core (32 * h + c)).blocks.isEmpty

/-- A drained half stops its clock and drops its core rail; its near caches are dropped (R59, R216, R513). -/
def execHalfGated (half : Nat) (s : State) : Host.Outcome State Fault Refusal :=
  if 64 ≤ half || !s.gateSet half || s.gated half || s.resident half then .next s else
  let s := s.syncCycles half
  let s := ((s.setFld (aPwrHalf half) 45 1 1).setFld (aPwrHalf half) 11 3 7).setFld (aLlm half 0x18) 7 1 1
  .next { s with cores := List.map (fun (x : Nat × Core) => if x.1 / 32 = half then (x.1, { x.2 with near := [] }) else x) s.cores }

/-- L of R510; before the first measurement of the input its current term does not bind. -/
def State.limitNow (s : State) : Nat :=
  let n := ((List.range 8).filter fun i => bit (s.fld (aPwr 0x20) 14 8) i).length
  let dv := s.fld (aTel 0) 0 10
  min (min (s.fld (aPwr 8) 0 14) (1500 * n)) (if dv = 0 then 2 ^ 14 - 1 else 18 * dv)

/-- The enabled compute dies. -/
def State.dies (s : State) : List Nat := (List.range 32).filter s.present

/-- The budgets of R518 in 0.25 W for a pool given as 50 times its value: each die's demand up to the share, then the remainder
in proportion to the excess demands, scaled where the input exceeded L by more than 2 % (R521, R522). -/
def budgets (pool50 : Int) (limit input : Nat) (demand : List (Nat × Nat)) : List (Nat × Nat) :=
  let e := demand.length
  let p := pool50.toNat
  let need := demand.map fun d => (d.1, d.2 * 50 * e)
  let base := (need.map fun d => min d.2 p).sum
  let excess := (need.map fun d => d.2 - p).sum
  let rest := e * p - base
  need.map fun d =>
    let g := if excess = 0 then min d.2 p else min d.2 (min d.2 p + rest * (d.2 - p) / excess)
    let w := if e = 0 then 0 else g / (50 * e)
    (d.1, min 4095 (if 102 * limit < 100 * input then w * limit / input else w))

/-- M0 computes the pool from the last measurements and sends each die its budget for a period (R518). -/
def State.sendBudgets (s : State) (period : Nat) (scale : Bool) : State :=
  let l := 4 * s.fld (aPwr 0x20) 0 14
  let demand := s.dies.map fun d => (d, (NMap.get (0, 0) s.power.telem d).2)
  let used := (s.dies.map fun d => (NMap.get (0, 0) s.power.telem d).1).sum
  let pool : Int := 49 * (l : Int) - 50 * ((s.power.input : Int) - used)
  let cap := s.fld (aPwr 0x20) 0 14 == s.fld (aPwr 8) 0 14
  (budgets pool l (if scale then s.power.input else 0) demand).foldl (fun s x =>
    s.send (.budget (bugleTo 0x10 s.actDie (posOf (s.sites.getD x.1 0))) x.1 x.2 (period % 65536) cap (s.fld (aPwr 0x20) 22 1 == 1 && s.fld (aPwr 0x20) 23 1 == 0))) s

/-- LIMIT shows L (R510). Where L falls the current period's budgets are sent again; a rise waits for the next period's (R521). -/
def State.newLimit (s : State) : State :=
  let l := s.limitNow
  let t := s.setFld (aPwr 0x20) 0 14 l
  if l < s.fld (aPwr 0x20) 0 14 then t.sendBudgets (s.fld (aPwr 0x20) 24 16) false else t

/-- Whether every Run half of every enabled die has run at 600 MHz over a whole budget period (R522). -/
def State.floored (s : State) : Bool :=
  (List.range 64).all fun h => !s.runs h || (s.mhz h == 600 && decide ((NMap.get (0, 0) s.cycBase h).2 + 100000 ≤ s.time.toNat))

/-- A budget period begins: loans end, L rises if it may, the pool is dealt, stretching of the last period is judged, an
episode of R522 begins or ends (R518, R521, R522, R526, R527). -/
def execBudgetPeriodStart (input : Nat) (s : State) : Host.Outcome State Fault Refusal :=
  let p := s.time.toNat / 100000 % 65536
  let s : State := { s with power := { s.power with input := input, dies := NMap.mapV s.power.dies fun d => { d with loans := 0 } } }
  let s := (s.setFld (aPwr 0x20) 24 16 p).setFld (aPwr 0x20) 0 14 s.limitNow
  let l := 4 * s.fld (aPwr 0x20) 0 14
  let s := (List.range 64).foldl (fun (s : State) h =>
    let x := s.halfPower h
    let total := s.halfCycles h - x.start
    let hi := total < 100 * x.stretched
    let s := if hi then s.flag (aPwr 0x28) 3 else s
    if x.stretched = 0 ∧ NMap.find? s.power.halves h = none then s else
    s.putHalfPower h { x with stretched := 0, start := s.halfCycles h, binds := x.binds || hi,
                              budget := if hi then max 600 (min x.budget (s.mhz h) - 25) else x.budget }) s
  let excess := decide (102 * l < 100 * input) && s.floored
  let s := if excess && !s.power.above then ((s.flag (aPwr 0x28) 5).record { sev := 5, block := 4, code := 5, die := s.actDie }) else s
  let s : State := { s with power := { s.power with above := if excess then true else if input ≤ l then false else s.power.above } }
  .next (s.sendBudgets p true)

/-- A write of PWR_CAP by the owner (R8, R429, R521); other values are reserved. -/
def State.writeCap (s : State) (v : Nat) : State := (s.setReg (aPwr 8) (v % 2 ^ 14)).newLimit

/-- A die receives its budget: it replaces the old one and ends loans and the fall-back count (R518, R524, R525). -/
def execBudget (b : Bugle) (die watts period : Nat) (cap slow : Bool) (s : State) : Host.Outcome State Fault Refusal :=
  .next (s.bugleIn 0x10 b (.budget b die watts period cap slow) fun s =>
    if !s.present die then s else
    s.putDiePower die { s.diePower die with watts := watts, period := period, capped := cap, slow := slow, missed := 0, loans := 0 })

/-- Neighbours of a compute die: adjacent column of its compute row, same column of an adjacent compute row (R526). -/
def State.neighbours (s : State) (d e : Nat) : Bool :=
  let a := s.sites.getD d 99
  let b := s.sites.getD e 99
  decide (a < 36) && decide (b < 36) && ((a / 6 == b / 6 && (a % 6 == b % 6 + 1 || b % 6 == a % 6 + 1)) || (a % 6 == b % 6 && (a / 6 == b / 6 + 1 || b / 6 == a / 6 + 1)))

/-- A loan arrives: it holds until the end of its period, and is discarded where the period is another or the loans would exceed
half the die's own budget (R526). -/
def execLend (b : Bugle) (die watts period : Nat) (s : State) : Host.Outcome State Fault Refusal :=
  .next (s.bugleIn 0x11 b (.lend b die watts period) fun s =>
    let x := s.diePower die
    if !s.present die ∨ period ≠ s.fld (aPwr 0x20) 24 16 ∨ x.watts < 2 * (x.loans + watts) then s
    else s.putDiePower die { x with loans := x.loans + watts })

/-- The half's part of its die's budget in mW: what the other rails leave, in proportion to demand (R519). -/
def State.halfBudget (s : State) (h : Nat) (m : PowerReading) : Nat :=
  let x := s.diePower (h / 2)
  if m.demands = 0 then 0 else ((x.watts + x.loans) * 250 - m.other) * m.demand / m.demands

/-- Whether the power predicted at a clock keeps within a half budget (R520). -/
def State.fits (s : State) (h core hb f : Nat) : Bool :=
  decide (core * s.volt h f ^ 2 * f ≤ hb * s.volt h (s.mhz h) ^ 2 * s.mhz h)

/-- The highest step not above `top` that the half budget admits; 600 MHz where none does (R520, R522). -/
def State.budgetClock (s : State) (h core hb top : Nat) : Nat :=
  ((List.range 57).foldl (fun (b : Nat) i => if mhzOf i ≤ top ∧ s.fits h core hb (mhzOf i) then mhzOf i else b) 600)

/-- A loan of a die to a neighbour, of at most half of what it does not use (R526). -/
def State.lendTo (s : State) (d : Nat) (m : PowerReading) (to_ watts : Nat) : State :=
  let x := s.diePower d
  let idle := match x.lent with | some t => decide (t + 10000 ≤ s.time.toNat) | none => true
  if s.neighbours d to_ && idle && decide (m.die + 10000 < 250 * x.watts) && decide (2 * watts * 250 ≤ 250 * x.watts - m.die) then
    (s.putDiePower d { x with watts := x.watts - watts, lent := some s.time.toNat }).send (.lend (bugleTo 0x11 (posOf (s.sites.getD d 0)) (posOf (s.sites.getD to_ 0))) to_ watts (s.fld (aPwr 0x20) 24 16))
  else s

/-- A half computes its budget clock from its measured power; its die may lend (R519, R520, R526). In the fall-back of R524 the
clock stays at 1,000 MHz. -/
def execBudgetClockEvaluation (half : Nat) (m : PowerReading) (lend : Option (Nat × Nat)) (s : State) : Host.Outcome State Fault Refusal :=
  if 64 ≤ half || !s.runs half then .next s else
  let x := s.halfPower half
  let s := if 3 ≤ (s.diePower (half / 2)).missed then s else
    let hb := s.halfBudget half m
    let others := (lowestLimit (s.otherLimits half)).2
    let rise := x.budget + 25
    let must := if hb < m.core then s.mhz half - 25 else 2000
    let f := max 600 (s.budgetClock half m.core hb (min (min others rise) must))
    s.putHalfPower half { x with budget := f, binds := decide (f < others) }
  .next (match lend with | some (d, w) => s.lendTo (half / 2) m d w | none => s)

/-- A period without BUDGET 30 µs after its start; the third in a row sets every half of the die to 1,000 MHz (R524). -/
def execBudgetLost (die : Nat) (s : State) : Host.Outcome State Fault Refusal :=
  let x := s.diePower die
  if !s.present die || x.period == s.fld (aPwr 0x20) 24 16 then .next s else
  let s := s.putDiePower die { x with missed := x.missed + 1 }
  if x.missed + 1 ≠ 3 then .next s else
  let s := (List.range 2).foldl (fun (s : State) i => s.putHalfPower (2 * die + i) { s.halfPower (2 * die + i) with budget := 1000, binds := true }) s
  let (v, s) := (s.flag (aPwr 0x28) 2).freely 21
  .next (s.send (.errMsg (bugleTo 0x20 (posOf (s.sites.getD die 0)) s.actDie) ⟨v % 7, 4, 2, s.sites.getD die 0, 0, none, none, 0, .nothing⟩))

/-- Power and demand of a die for the next period's budgets, in 0.25 W (R518). -/
def execTelem (b : Bugle) (die power demand : Nat) (s : State) : Host.Outcome State Fault Refusal :=
  .next (s.bugleIn 0x21 b (.telem b die power demand) fun s => { s with power := { s.power with telem := NMap.put s.power.telem die (power, demand) } })

/-- The thermal clock of a half against TLIM: down one step at or above it, up one step per 100 µs below TLIM − 2 until it no
longer binds (R517). -/
def execThermalClockEvaluation (half temp : Nat) (s : State) : Host.Outcome State Fault Refusal :=
  if 64 ≤ half || !s.runs half then .next s else
  let s := s.setFld (aPwrHalf half) 37 8 (min temp 255)
  let x := s.halfPower half
  let lim := s.fld (aPwr 0x18) 0 8
  let others := (lowestLimit (s.budgetLimit half ++ (s.otherLimits half).filter fun l => l.1 != 3)).2
  if lim ≤ temp then .next (s.putHalfPower half { x with thermal := max 600 (min x.thermal (s.mhz half) - 25) })
  else if temp + 2 < lim ∧ x.thermal < 2000 ∧ x.raised + 100000 ≤ s.time.toNat then
    let t := x.thermal + 25
    .next (s.putHalfPower half { x with thermal := if others ≤ t then 2000 else t, raised := s.time.toNat })
  else .next s

/-- The ageing monitors of a half, margins in 0.1 % of the period: a short one raises the entry, or at the ceiling lowers
MAXMHZ to the highest step whose margin holds (R515). -/
def execAgeingMonitor (half : Nat) (margins : List Nat) (holds : Nat) (s : State) : Host.Outcome State Fault Refusal :=
  if 64 ≤ half || !s.runs half || margins.all (fun m => decide (80 ≤ m)) then .next s else
  let f := s.mhz half
  let v := s.volt half f
  let sh := s.siteHalf half
  if Config.ceiling sh (stepOf f) ≤ v then
    let (k, s) := ((s.setFld (aPwrHalf half) 14 11 (mhzOf (stepOf holds))).flag (aPwr 0x28) 1).freely 21
    .next ((s.record { sev := k % 7, block := 4, code := 1, die := s.dieOfHalf half, unit := half % 2 }).alert)
  else
    let new := (List.range 57).filterMap fun i =>
      if i = stepOf f then some (sh, i, v + 1)
      else if stepOf f < i ∧ s.volt half (mhzOf i) < v + 1 then some (sh, i, min (v + 1) (Config.ceiling sh i)) else none
    .next { s with rlog := { s.rlog with trims := new ++ s.rlog.trims.filter fun t => !(new.any fun n => n.1 == t.1 && n.2.1 == t.2.1) } }

/-- A droop detector fires: the half's clock period doubles (R527). -/
def execDroopDetected (half : Nat) (s : State) : Host.Outcome State Fault Refusal :=
  let x := s.halfPower half
  if 64 ≤ half || !s.runs half || x.stretch.isSome then .next s else
  let s := s.syncCycles half
  .next (s.putHalfPower half { x with stretch := some s.time.toNat })

/-- Every detector has been above its threshold for 64 cycles: the normal period resumes (R527). -/
def execDroopRecovered (half : Nat) (s : State) : Host.Outcome State Fault Refusal :=
  let x := s.halfPower half
  match x.stretch with
  | none => .next s
  | some _ =>
    let n := s.halfCycles half - (NMap.get (0, 0) s.cycBase half).1
    .next ((s.syncCycles half).putHalfPower half { x with stretch := none, stretched := x.stretched + n })

/-- A sensor crosses its trip point (R528). -/
def execThermalTrip (die : Nat) (s : State) : Host.Outcome State Fault Refusal := .next (if die < 60 then s.tripFire die else s)

/-- TRIP at the other dies and the management dies (R528). -/
def execTrip (b : Bugle) (die : Nat) (s : State) : Host.Outcome State Fault Refusal :=
  .next (s.bugleIn 6 b (.trip b die) fun s => s.trip die)

/-- 60 s after a trip a management die that has not tripped starts the module reset; a die that is still hot stops it for good
(R529). -/
def execTripRestart (hot : Bool) (s : State) : Host.Outcome State Fault Refusal :=
  if s.phase ≠ .tripped then .next s
  else if hot || (s.trips.contains 58 && s.trips.contains 59) then .next { s with phase := .stopped }
  else .next { s.restart 3 with trips := [] }

/-- A measurement round: input voltage in 0.1 V and power in mW, and the readings of dies; L follows the voltage (R510, R530). -/
def execTelemetrySample (dv input : Nat) (dies : List DieReading) (s : State) : Host.Outcome State Fault Refusal :=
  let s := s.setFld (aTel 0) 0 10 dv
  let s := dies.foldl (fun (s : State) r => if 60 ≤ r.die then s else
    (s.setFld (aTel (0x100 + 8 * r.die)) 16 8 (min r.temp 255)).setFld (aTel (0x100 + 8 * r.die)) 24 8 (min r.eye 255)) s
  let sums := dies.foldl (fun m r => NMap.upd 0 m r.die (· + r.power)) (NMap.upd 0 s.power.sums 60 (· + input))
  .next ({ s with power := { s.power with samples := s.power.samples + 1, sums := sums } }.newLimit)

/-- Energy of an interval is divided among slices and queues in pJ (R531, R532). -/
def execEnergyAttribution (shares : List EnergyShare) (s : State) : Host.Outcome State Fault Refusal :=
  .next (shares.foldl (fun (s : State) x =>
    let e := if x.whole = 0 then 0 else x.energy * x.part / x.whole
    let sl := s.slice x.slice
    if !s.exists? x.slice then s
    else match x.queue with
      | some q => s.putSlice x.slice { sl with qenergy := NMap.upd 0 sl.qenergy q (· + e) }
      | none => s.putSlice x.slice { sl with energy := NMap.upd 0 sl.energy (x.counter % 4) (· + e) }) s)

/-- An IBC fails: its bit, flag, record, ALERT_N, L; with fewer than 6 the module resets (R509, R510). -/
def execIbcFailure (ibc : Nat) (s : State) : Host.Outcome State Fault Refusal :=
  if 8 ≤ ibc || s.fld (aPwr 0x20) (14 + ibc) 1 = 0 then .next s else
  let (v, s) := ((s.setFld (aPwr 0x20) (14 + ibc) 1 0).flag (aPwr 0x28) 0).freely 21
  let s := (s.record { sev := v % 7, block := 4, code := 0, die := s.actDie, unit := ibc }).alert
  let n := ((List.range 8).filter fun i => bit (s.fld (aPwr 0x20) 14 8) i).length
  if 6 ≤ n then .next s.newLimit
  else
    let good := s.fld (aPwr 0x20) 14 8
    .next ((s.moduleReset 2).setFld (aPwr 0x20) 14 8 good)

/-- The coolant inlet has been above 40 °C for 1 s (R571). -/
def execCoolantHot (inlet outlet : Nat) (s : State) : Host.Outcome State Fault Refusal :=
  let s := (s.setFld (aTel 0x300) 0 8 (min inlet 255)).setFld (aTel 0x300) 8 8 (min outlet 255)
  .next (if 40 < inlet then (s.flag (aTel 0x300) 16).alert else s)

end Sys2Proof.Machine
end

