-- ==== Sys2Proof/Machine/SchedOps.lean ====
section
/-! DEFINITION. What scheduling shares: engine time, clusters and their holders, where blocks fit, pre-emption, completion
(R30 to R34, R453, R462, R468 to R477). -/

namespace Sys2Proof.Machine

/-- Bits of a task header or graph header. -/
def hfld (h : BitVec 512) (lo w : Nat) : Nat := bits h.toNat lo w

/-- The open window that covers a cluster. -/
def State.winOf (s : State) (k : Nat) : Option Nat := (List.find? (fun (x : Nat × Nat) => s.winHas x.1 k) s.windows.opened).map (·.1)

/-- The current slice of a cluster: the window's, the only namer, or the one that sharing chose (R453, R470, R472). -/
def State.holder (s : State) (k : Nat) : Option Nat :=
  match s.winOf k with
  | some w => some (s.winSlice w)
  | none => match s.namers k with
    | [sl] => some sl
    | [] => none
    | _ => (s.cluster k).cur

/-- The same for every block of a core, and of every core. -/
def State.chargeCore (s : State) (core : Nat) : State := NMap.foldV (s.core core).blocks s fun s slot b => s.chargeBlock core slot b
def State.chargeAll (s : State) : State := NMap.foldV s.cores s fun s core _ => s.chargeCore core

/-- Whether a slice has blocks to start or to restore (R470). -/
def State.hasReady (s : State) (sl : Nat) : Bool :=
  !(s.slice sl).saved.isEmpty || (s.slice sl).kernels.any fun k => k.tasks.any fun t => decide (t.st = .running) && t.lost.isNone && decide (t.started ≤ hfld t.hdr 128 16)

/-- Whether a cluster holds a resident block, of one slice or of any. -/
def State.residentOn (s : State) (k : Nat) (p : Block → Bool) : Bool := (List.range 8).any fun i => (s.core (8 * k + i)).blocks.any fun (b : Nat × Block) => p b.2

/-- The ready slice of least virtual time, ties to the lowest number. -/
def leastV (c : Cluster) : List Nat → Option Nat
  | [] => none
  | sl :: r => match leastV c r with
    | some t => if NMap.get 0 c.vt t < NMap.get 0 c.vt sl then some t else some sl
    | none => some sl

/-- A shared cluster moves to another slice where R470 lets it. -/
def State.clusterServe (s : State) (k : Nat) : State :=
  let ns := s.namers k
  if ns.length < 2 then s else
  let c := s.cluster k
  let free := match c.cur with
    | none => true
    | some sl => !(s.residentOn k fun b => b.slice == sl) && (c.stopped || !s.hasReady sl || !ns.contains sl)
  if !free then s else
  match leastV c (ns.filter s.hasReady) with
  | some sl => s.putCluster k { c with cur := some sl, since := s.time.toNat, stopped := false }
  | none => s

/-- A slice becomes ready: on its shared clusters a virtual time below the least of the other ready slices is raised to it (R470). -/
def State.becameReady (s : State) (sl : Nat) : State :=
  let s := s.chargeAll
  (List.range 256).foldl (fun (s : State) k =>
    if !s.names sl k || (s.namers k).length < 2 then s else
    let c := s.cluster k
    match leastV c ((s.namers k).filter fun t => t != sl && s.hasReady t) with
    | some t =>
      let s := if NMap.get 0 c.vt sl < NMap.get 0 c.vt t then s.putCluster k { c with vt := NMap.put c.vt sl (NMap.get 0 c.vt t) } else s
      s.clusterServe k
    | none => s.clusterServe k) s

/-- Whether a block's declaration fits in what a core has free (R30, R31). -/
def Core.fits (c : Core) (g v l : Nat) : Bool :=
  let bs := List.map (fun (x : Nat × Block) => x.2) c.blocks
  decide (bs.length < 16) && decide ((bs.map (·.g)).sum + g ≤ 48) && decide ((bs.map fun b => b.v * b.g).sum + v * g ≤ 2048) && decide ((bs.map (·.l)).sum + l ≤ 256)

/-- Whether a slice is paused for a copy of its unit or a transition (R461, R545). -/
def State.paused (s : State) (sl : Nat) : Bool := s.mgr.paused.any fun p => p.1 == sl

/-- Whether a slice may start or restore a block on a core now (R25, R453, R461, R470, R472, R513). -/
def State.mayPlace (s : State) (sl core : Nat) : Bool :=
  let k := core / 8
  let c := s.cluster k
  s.runs (core / 32) && !s.gateSet (core / 32) && s.holder k == some sl && !s.paused sl &&
  (!c.stopped || (s.winOf k).isSome) && (match c.guard with | some w => s.winSlice w == sl | none => true) &&
  (s.core core).blocks.all fun (b : Nat × Block) => b.2.slice == sl

/-- The group slots that a block's groups take: each the lowest free slot of the pipe with fewest groups (R34). -/
def placeGroups : Nat → List Nat → List Nat
  | 0, _ => []
  | n + 1, used =>
    let load (p : Nat) := (used.filter fun s => s % 4 == p).length
    let p := (List.range 4).foldl (fun b p => if load p < load b then p else b) 0
    let slot := ((List.range 12).map (fun i => 4 * i + p)).find? fun s => !used.contains s
    slot.getD 0 :: placeGroups n (slot.getD 0 :: used)

/-- The slots in use, and the lowest free block slot. -/
def Core.slots (c : Core) : List Nat := List.map (fun (x : Nat × Group) => x.1) c.groups
def Core.freeBlock (c : Core) : Nat := ((List.range 16).find? fun b => (NMap.find? c.blocks b).isNone).getD 0

/-- Registers of a starting group (R27), its one path at the code address (R37, R64). -/
def startGroup (bs i : Nat) (b : Block) (rank : Nat) : Group :=
  let v := lanes.foldl (fun m l => NMap.set 0 m l (BitVec.ofNat 32 (32 * i + l))) ([] : NMap W32)
  let u := [b.index, i, b.args, b.taskNo.toNat, rank, b.count].zipIdx.foldl (fun m x => NMap.set 0 m x.2 (BitVec.ofNat 64 x.1)) ([] : NMap W64)
  { block := bs, index := i, u := u, q := [], d := [], k := [], v := v,
    ents := [(0, .path { pc := b.code, mask := allLanes, wait := .run, since := 0, point := none, fence := none })],
    cur := 0, turn := 0, loop := false, clock := 1, exited := 0, ops := [] }

/-- Puts a block with its groups on a core; a change of the core's slice drops its near cache (R216). -/
def State.placeBlock (s : State) (core : Nat) (b : Block) (groups : Nat → List Group) : State :=
  let c := s.core core
  let bs := c.freeBlock
  let gs := groups bs
  let slots := placeGroups gs.length c.slots
  let near := if c.last = some b.slice then c.near else []
  s.putCore core { c with blocks := NMap.put c.blocks bs { b with charged := s.cycles core }, near := near, last := some b.slice
                          groups := (gs.zip slots).foldl (fun m x => NMap.put m x.2 x.1) c.groups }

/-- Starts a job (R462): the instance counter, the slice's counters, its queues, engines and fault record begin anew. -/
def State.jobStart (s : State) (sl : Nat) : State :=
  if !s.exists? sl || s.jobOf sl == 1 then s else
  let base := sl * 0x10000
  let s : State := { s with swin := s.swin.filter fun (x : Nat × W64) => !(decide (base + 0x9000 ≤ x.1) && decide (x.1 < base + 0x10000) && x.1 != base + 0xD828 && !(decide (base + 0xC000 ≤ x.1) && decide (x.1 < base + 0xC100)) && !(decide (base + 0xD040 ≤ x.1) && decide (x.1 < base + 0xD068))) }
  let s := s.putSlice sl { s.slice sl with taskCtr := 0, bells := [], launch := [], kernels := [], saved := [], model := none, energy := [], qenergy := [], charge := 0, charged := 0, landed := 0 }
  let s := NMap.foldV s.queues s fun s q _ => if s.fld (aCq q 0) 1 6 = sl then s.emptyQueue q sl else s
  let s : State := { s with engines := NMap.del s.engines sl }
  s.setFld (aSlc sl 0x40) 16 2 1

/-- A mover's transfers on queues of this module that a block issued, with items still to move, are abandoned where they stand; what is
queued behind them may start (R234, R475). -/
def Mover.abandonQueue (v : Mover) (bs : Nat) : Mover :=
  let out (r : MvRun) : Bool := r.op.block == bs && dfld r.op.d 0 4 == 7 && r.err.isNone && r.waits.isEmpty && decide (r.op.moved ≤ dfld r.op.d 93 16)
  { v with run := v.run.filter fun r => !out r, kept := v.kept ++ v.run.filter out }

/-- A block's queue waits of its own module are abandoned: their paths issue again, their mover operations are kept (R234, R390, R475). -/
def State.abandonQueue (s : State) (core bs : Nat) : State :=
  let s := NMap.foldV s.queues s fun s q x =>
    let mine (w : QWait) : Bool := match w.who with
      | .path c g _ _ _ _ _ => c == core && (match NMap.find? (s.core core).groups g with | some y => y.block == bs | none => false)
      | .mover c m => c == core && (match ((s.core core).mover m).run.getLast? with | some r => r.op.block == bs | none => false)
      | _ => false
    let gone := x.waits.filter mine
    if gone.isEmpty then s else
    gone.foldl (fun (s : State) w => match w.who with
      | .path c g op _ _ _ pc => s.updGroup c g fun y => (List.range 32).foldl (fun y e => match y.path? e with
          | some p => if p.wait = .queue op then { y.putPath e { p with wait := .run, pc := pc, since := y.clock } with clock := y.clock + 1 }.wakeCur else y
          | none => y) y
      | _ => s) (s.putQueue q { s.queue q with waits := (s.queue q).waits.filter fun w => !mine w })
  let c := s.core core
  s.putCore core { c with mv0 := c.mv0.abandonQueue bs, mv1 := c.mv1.abandonQueue bs }

/-- Mid-task pre-emption is requested for a block of a slice with a context area; others run to retirement (R475, R481). -/
def State.preemptBlock (s : State) (core bs : Nat) : State :=
  match NMap.find? (s.core core).blocks bs with
  | none => s
  | some b =>
    if b.saving || s.fld (aSlc b.slice 0x30) 24 24 = 0 then s
    else (s.abandonQueue core bs).putBlock core bs { b with saving := true }

/-- The same for the blocks of a cluster that `p` names; whether one of them cannot be saved. -/
def State.preempt (s : State) (k : Nat) (p : Block → Bool) : State :=
  (List.range 8).foldl (fun s i => NMap.foldV (s.core (8 * k + i)).blocks s fun s bs b => if p b then s.preemptBlock (8 * k + i) bs else s) s

/-- Context bytes of a block (R53). -/
def Block.contextBytes (b : Block) : Nat := b.g * (128 * b.v + 1536) + 1536 * b.l

/-- The lowest free place of `n` bytes in a slice's context area. -/
def State.contextPlace (s : State) (sl n : Nat) : Option Nat :=
  let base := s.fld (aSlc sl 0x30) 0 24 * 4096
  let top := base + s.fld (aSlc sl 0x30) 24 24 * 4096
  let sv := (s.slice sl).saved
  let cand := base :: sv.map fun x => x.ofs + x.size
  let ok := cand.filter fun o => decide (o + n ≤ top) && sv.all fun x => decide (o + n ≤ x.ofs) || decide (x.ofs + x.size ≤ o)
  ok.foldl (fun b o => match b with | some x => some (min x o) | none => some o) none

/-- A kernel whose tasks have all completed or been skipped: its item is pushed, then its interrupt sent (R437, R468). -/
def State.kernelDone (s : State) (sl stream : Nat) : State :=
  let x := s.slice sl
  match x.kernels.find? fun k => k.stream == stream with
  | none => s
  | some k =>
    if !(k.tasks.all fun t => t.st == .done || t.st == .skipped) then s else
    let s := s.putSlice sl { x with kernels := x.kernels.filter fun y => y.stream != stream }
    let skipped := (k.tasks.filter fun t => t.st == .skipped).length
    let item : Item := BitVec.ofNat 512 (hfld k.hdr 208 32 + s.time.toNat * 2 ^ 64 + skipped * 2 ^ 128)
    let s := if hfld k.hdr 21 1 = 1 ∧ s.qAllowed (hfld k.hdr 12 9) sl true then s.pushItem (hfld k.hdr 12 9) 3 item sl else s
    if hfld k.hdr 24 1 = 1 then s.send (.intrMsg (bugleTo 0x16 s.actDie (58 + s.portOf sl)) sl (hfld k.hdr 22 2) (s.gen sl)) else s

/-- Replaces task `i` of a stream's kernel. -/
def State.setTask (s : State) (sl stream i : Nat) (t : Task) : State :=
  let x := s.slice sl
  s.putSlice sl { x with kernels := x.kernels.map fun k => if k.stream = stream then { k with tasks := k.tasks.set i t } else k }

/-- A task that failed through the hardware is replayed where nothing escaped it, else its slice's job ends with reason 0x07
(R479, R548). -/
def State.tryReplay (s : State) (sl : Nat) (no : W64) (die : Nat) : State :=
  let effect := (s.slice sl).kernels.any fun k => k.tasks.any fun t => t.no == no && decide (t.st = .running) && t.effect
  let s := s.record { sev := if effect then 3 else 1, block := 10, code := 0x8008, die := die, slice := some sl, detail := no.toNat % 2 ^ 32 }
  if effect then s.jobEnd sl 7 0 else s.replay sl no none

end Sys2Proof.Machine
end

