-- ==== Sys2Proof/Machine/Mover.lean ====
section
/-! DEFINITION. The tensor movers: descriptors, issue checks, transfers with conversion, hints, queue transfers, completion,
errors and poison (R217 to R236, R292, R293). -/

namespace Sys2Proof.Machine

/-- One endpoint of a transfer: space, format, row 0, stride, whether the index list names its rows, scales from side bits,
scale plane and stride, segment plane, stride and phase (R220, R226). -/
structure MvEnd where
  sp : Nat
  fc : Nat
  base : Nat
  stride : Nat
  idx : Bool
  side : Bool
  scl : Nat
  sstr : Nat
  seg : Int
  segstr : Nat
  ph : Nat
deriving DecidableEq, Repr

/-- A transfer (R220). -/
structure Xfer where
  op : Nat
  src : MvEnd
  dst : MvEnd
  rows : Nat
  elems : Nat
  rnd : Nat
  sat : Bool
  hint : Nat
  cls : Nat
  iaddr : Nat
  iw : Nat
deriving DecidableEq, Repr

/-- The plane address that names the side bits (R226, R292). -/
def sideBits : Nat := 0xFFFFFFFFFFFF

/-- An endpoint from its descriptor fields; the addend goes to every non-local address modulo 2^48 (R221). -/
def mvEnd (sp fc addr stride add : Nat) (idx : Bool) (scl sstr segofs segstr ph : Nat) : MvEnd :=
  let side := (fc == 0xA || fc == 0xB) && sp == 1 && scl == sideBits
  let at_ (a : Nat) := if sp = 0 then a else (a + add) % 2 ^ 48
  let sc := if side then scl else at_ scl
  ⟨sp, fc, at_ addr, stride, idx, side, sc, sstr, (sc : Int) + sext 24 segofs, segstr, ph⟩

/-- The transfer that the descriptors and the addend give. -/
def xferOf (d d2 : W256) (u : W64) : Xfer :=
  let op := dfld d 4 2
  let add := u.toNat
  { op := op
    src := mvEnd (dfld d 6 2) (dfld d 10 4) (dfld d 32 48) (dfld d 160 32) add (op == 1) (dfld d2 4 48) (dfld d2 100 16) (dfld d2 132 24) (dfld d2 180 16) (dfld d2 212 4)
    dst := mvEnd (dfld d 8 2) (dfld d 14 4) (dfld d 80 48) (dfld d 192 32) add (op == 2) (dfld d2 52 48) (dfld d2 116 16) (dfld d2 156 24) (dfld d2 196 16) (dfld d2 216 4)
    rows := dfld d 128 16 + 1, elems := dfld d 144 16 + 1, rnd := dfld d 18 3, sat := dfld d 21 1 == 1, hint := dfld d 22 2, cls := dfld d 25 3
    iaddr := 32 * dfld d 224 13, iw := dfld d 237 1 }

/-- Row `i` of a plane (R221). -/
def mvRow (sp base stride i : Nat) : Nat := if sp = 0 then base + i * stride else (base + i * stride) % 2 ^ 48
/-- Segment entries that a row of `n` elements touches (R138). -/
def mvSegs (ph n : Nat) : Nat := (ph + n / 32 - 1) / 16 + 1
/-- Stored size that row starts are multiples of (R223). -/
def mvUnit (fc : Nat) : Nat := if fc = 0xA ∨ fc = 0xB then 32 else if fc = 0xC ∨ fc = 0xD then 24 else if fc = 0xE then 16 else max 1 (codeWidth fc / 8)
/-- Rows of the destination, and bytes of a source and of a destination row. -/
def Xfer.dstRows (x : Xfer) : Nat := if x.op = 3 then x.elems else x.rows
def Xfer.srcBytes (x : Xfer) : Nat := x.elems * codeWidth x.src.fc / 8
def Xfer.dstBytes (x : Xfer) : Nat := (if x.op = 3 then x.rows else x.elems) * codeWidth x.dst.fc / 8
/-- Scale bytes of a row. -/
def scaleBytes (fc n : Nat) : Nat := n / (if fc = 0xE then 16 else 32)

/-- Valid format pairs (R224). -/
def mvPair (sf df : Nat) : Bool :=
  sf == df || (decide (sf ≤ 2) && ([0, 1, 2, 3, 4, 8].contains df || codeBlock df)) ||
  (([3, 4, 8, 9].contains sf || codeBlock sf) && decide (df ≤ 2)) || (sf == 0xF && df == 0)

/-- Whether a row of `n` bytes at one endpoint meets a row of the other: the least row that ends above `lo` starts at or below
its end (R223). -/
def rowsMeet (lo n base stride rows m : Nat) : Bool :=
  let j := if stride = 0 then 0 else cdiv (lo + 1 - (base + m)) stride
  decide (j < rows) && decide (base + j * stride < lo + n) && decide (lo < base + j * stride + m)

/-- Reserved and unused fields of the plane descriptor (R226, R292). -/
def mvPlaneOk (x : Xfer) (d2 : W256) : Bool :=
  dfld d2 0 4 == 5 && dfld d2 220 36 == 0 &&
  (codeBlock x.src.fc || (dfld d2 4 48 == 0 && dfld d2 100 16 == 0)) && (codeBlock x.dst.fc || (dfld d2 52 48 == 0 && dfld d2 116 16 == 0)) &&
  (x.src.fc == 0xE || (dfld d2 132 24 == 0 && dfld d2 180 16 == 0 && dfld d2 212 4 == 0)) &&
  (x.dst.fc == 0xE || (dfld d2 156 24 == 0 && dfld d2 196 16 == 0 && dfld d2 216 4 == 0)) &&
  (x.dst.fc != 0xE || (if x.src.fc = 0xE then x.src.ph == x.dst.ph else x.dst.ph == 0)) &&
  (dfld d2 52 48 != sideBits || !codeBlock x.dst.fc || x.dst.side)

/-- Row starts of an endpoint are aligned; an indexed one by its address and stride (R223). -/
def mvAligned (e : MvEnd) (rows : Nat) : Bool :=
  e.base % mvUnit e.fc == 0 && ((rows == 1 && !e.idx) || e.stride % mvUnit e.fc == 0)

/-- The planes of a local endpoint: first byte, stride, rows, bytes of a row; elements, and with a block format scales and segments
(R221, R223, R226). -/
def MvEnd.planes (e : MvEnd) (rows rb elems : Nat) : List (Nat × Nat × Nat × Nat) :=
  [(e.base, e.stride, rows, rb)] ++ (if codeBlock e.fc then [(e.scl, e.sstr, rows, scaleBytes e.fc elems)] else []) ++
  (if e.fc = 0xE then [(e.seg.toNat, e.segstr, rows, 2 * mvSegs e.ph elems)] else [])

/-- Every condition of R219 to R226 on a transfer. -/
def xferOk (d d2 : W256) (x2 xu : Bool) (u : W64) : Bool :=
  let x := xferOf d d2 u
  let ws := codeWidth x.src.fc
  let wd := codeWidth x.dst.fc
  let blk := codeBlock x.src.fc || codeBlock x.dst.fc
  dfld d 28 4 == 0 && dfld d 238 18 == 0 && x2 == blk && xu == (dfld d 24 1 == 1) && decide (x.rnd ≤ 4) && mvPair x.src.fc x.dst.fc
  && (x.op == 1 || x.op == 2 || (x.iaddr == 0 && x.iw == 0)) && (!blk || decide (x.op < 2))
  && (x.op != 3 || ((ws == 8 || ws == 16 || ws == 32) && (wd == 8 || wd == 16 || wd == 32)))
  && (x.hint == 0 || x.src.sp == 1 || (x.src.sp == 2 && x.hint != 2))
  && x.elems * ws % 8 == 0 && x.elems * wd % 8 == 0 && (x.op != 3 || x.rows * wd % 8 == 0) && (!blk || x.elems % 32 == 0)
  && (!blk || mvPlaneOk x d2) && mvAligned x.src x.rows && mvAligned x.dst x.dstRows
  && (x.src.sp == 0 || x.dst.sp == 0 || decide (x.rows * x.elems * max ws wd / 8 ≤ 2 ^ 20))
  && (x.src.sp != 0 || x.dst.sp != 0 || x.src.idx || x.dst.idx ||
      !(x.src.planes x.rows x.srcBytes x.elems).any fun p => (List.range p.2.2.1).any fun r =>
        (x.dst.planes x.dstRows x.dstBytes x.elems).any fun q => rowsMeet (p.1 + r * p.2.1) p.2.2.2 q.1 q.2.1 q.2.2.1 q.2.2.2)

/-- Lowest and one past the highest local byte of the ranges that the descriptors fix at an endpoint (R231). -/
def mvRanges (e : MvEnd) (rows rb elems : Nat) : List (Int × Int) :=
  if e.sp ≠ 0 ∨ e.idx then [] else
  let span (base : Int) (stride n : Nat) : Int × Int := (base, base + stride * (rows - 1 : Nat) + n)
  [span e.base e.stride rb] ++ (if codeBlock e.fc then [span e.scl e.sstr (scaleBytes e.fc elems)] else []) ++
  (if e.fc = 0xE then [span e.seg e.segstr (2 * mvSegs e.ph elems)] else [])

/-- Conditions of a hint descriptor (R227). -/
def hintOk (d : W256) : Bool :=
  dfld d 125 131 == 0 && (if dfld d 119 1 = 1 then dfld d 4 115 == 0 else dfld d 108 8 != 0)

/-- Conditions of a queue descriptor (R230). -/
def qdOk (d : W256) : Bool :=
  dfld d 11 5 == 0 && dfld d 109 147 == 0 && dfld d 80 13 % 2 == 0 &&
  (if dfld d 4 1 = 1 then dfld d 7 2 == 0 || dfld d 7 2 == 2 else dfld d 5 2 == 0 && decide (dfld d 7 2 < 2))

/-- The first fault of a tmov at issue (R231). -/
def tmovFault (c : Ctx) (d d2 : W256) (x2 xu : Bool) (u : W64) : Option FaultInfo :=
  let bad (k : Nat) : Option FaultInfo := some { code := k, lanes := c.p.mask }
  let top : Int := c.b.l * 1024
  if dfld d 0 4 = 4 then
    if !xferOk d d2 x2 xu u then bad 0x0D else
    let x := xferOf d d2 u
    let ix : List (Int × Int) := if x.op = 1 ∨ x.op = 2 then [((x.iaddr : Int), (x.iaddr : Int) + x.rows * (if x.iw = 1 then 4 else 2))] else []
    if (mvRanges x.src x.rows x.srcBytes x.elems ++ mvRanges x.dst x.dstRows x.dstBytes x.elems ++ ix).any fun r => decide (r.1 < 0) || decide (top < r.2) then bad 0x03 else none
  else if dfld d 0 4 = 6 then (if x2 || xu || !hintOk d then bad 0x0D else none)
  else if dfld d 0 4 = 7 then
    if x2 || xu || !qdOk d then bad 0x0D
    else if c.b.l * 1024 < 32 * dfld d 80 13 + 64 * (dfld d 93 16 + 1) then bad 0x03 else none
  else bad 0x0D

/-- Operations held by a mover, counting those that run (R217). -/
def Mover.held (v : Mover) : Nat := v.queue.length + v.run.length

/-- The mover that takes an operation (R217); none where it is full. -/
def Core.pickMover (c : Core) (sel : Nat) : Option Nat :=
  let room (m : Nat) : Bool := decide ((c.mover m).queue.length < 8)
  if sel = 0 then
    (if room 0 && (!room 1 || decide (c.mv0.held ≤ c.mv1.held)) then some 0 else if room 1 then some 1 else none)
  else if room (sel - 1) then some (sel - 1) else none

/-- tmov: checks and queues the operation with the descriptors and addend it copies (R90, R217, R219, R231). The mover number 3 in SUB is a
reserved encoding of the word; SUB [7:2] that is not 0 breaks a condition of R219, so fault 0x0D. -/
def execTmov (x : Site) (w : XF) (s : State) : Host.Outcome State Fault Refusal :=
  asyncIssue (w.sub.toNat % 4 != 3) x w (fun c s =>
    match c.c.pickMover (w.sub.toNat % 4) with
    | none => .stall
    | some m =>
      let d := c.g.desc w.d.toNat
      let d2 := if w.x2 then c.g.desc w.d2.toNat else 0
      let u := if w.xu then c.g.ureg w.ur.toNat else 0
      match (if w.sub.toNat < 4 then tmovFault c d d2 w.x2 w.xu u else some { code := 0x0D, lanes := c.p.mask }) with
      | some f => .fault f
      | none =>
        let s := s.startToken c w.k.toNat
        let k := s.core c.core
        let v := k.mover m
        .go (s.putCore c.core (k.putMover m { v with queue := v.queue ++ [⟨c.g.block, c.slot, w.k.toNat, d, d2, u, c.codeOfs, c.b.index, c.g.index, c.p.pc, 0, c.c.sb.map (·.id), c.g.ops.map (·.id)⟩] }))) s

/-- Pieces of a range, cut where a 64 KiB boundary is crossed. -/
def pieces : Nat → Nat → Nat → List (Nat × Nat)
  | 0, _, _ => []
  | k + 1, a, n => if n = 0 then [] else
    let t := min n (65536 - a % 65536)
    (a, t) :: pieces k (a + t) (n - t)

/-- Where remote scratch lies among the keys of a mover's bytes. -/
def remoteKey (a : Nat) : Nat := 2 ^ 70 + a

/-- A stopped operation: poison, mover code or fault code; the object, or 1 + an address that no node backs (R232, R233). -/
structure MvStop where
  poison : Bool
  code : Nat
  obj : Nat
deriving DecidableEq, Repr

/-- The byte key of a non-local address with its page, or the error (R232). -/
def State.mvKey (s : State) (sl sp a : Nat) (wr : Bool) : (Nat × Option Page) ⊕ MvStop :=
  if sp = 1 then
    match s.translate sl a with
    | none => .inr ⟨false, 1, 0⟩
    | some (.mem pa p) => if wr && p.ro then .inr ⟨false, 2, 0⟩ else if (s.place pa).isNone then .inr ⟨false, 1, pa + 1⟩ else .inl (pa, some p)
    | some (.host port ha p) => if wr && p.ro then .inr ⟨false, 2, 0⟩ else .inl (hostKey port ha, none)
  else if sp = 2 then match s.scratchPa sl a with | some pa => .inl (pa, none) | none => .inr ⟨false, 3, 0⟩
  else .inl (remoteKey a, none)

/-- What a mover works with: block, transfer, bytes that have arrived and ranges whose read failed. -/
structure MvEnv where
  b : Block
  x : Xfer
  got : Mem
  bad : List (Nat × Nat × Nat)
deriving DecidableEq, Repr

/-- Reads a range of one space from local memory or from what has arrived (R221, R232, R233): poison read for a page of a shared object
is 0x09. -/
def State.mvRead (s : State) (v : MvEnv) (sp a n : Nat) : List Byte ⊕ MvStop :=
  if sp = 0 then (if a + n ≤ v.b.l * 1024 then .inl (v.b.loc.readBytes a n) else .inr ⟨false, 4, 0⟩)
  else (pieces (n / 65536 + 2) a n).foldl (fun acc p =>
    match acc with
    | .inr e => .inr e
    | .inl bs =>
      match s.mvKey v.b.slice sp (p.1 % 2 ^ 48) false with
      | .inr e => .inr e
      | .inl (k, pg) =>
        match v.bad.find? fun x => decide (x.1 < k + p.2) && decide (k < x.1 + x.2.1) with
        | some (_, _, 8) => .inr (match pg.bind Page.object with | some o => ⟨true, 9, o⟩ | none => ⟨true, 8, 0⟩)
        | some (_, _, c) => .inr ⟨false, c, 0⟩
        | none => .inl (bs ++ v.got.readBytes k p.2)) (.inl [])

/-- The tag of a burst, 0xFF where it carries none (R292, R293). -/
def State.burstTagged (s : State) (pa : Nat) : Bool :=
  match s.place pa with
  | some (n, ch, f) => s.fld (aMem n (0x100 + 8 * f)) (if ch < 16 then 1 else 3) 1 == 1
  | none => false
def State.burstTag (s : State) (v : MvEnv) (a : Nat) : Byte :=
  match s.mvKey v.b.slice 1 (a % 2 ^ 48) false with
  | .inl (k, _) => if k < 2 ^ 60 ∧ s.burstTagged k then BitVec.ofNat 8 (NMap.get 0 s.tags (k / 32)) else 0xFF
  | .inr _ => 0xFF

/-- Entry r of the index list (R221). -/
def MvEnv.index (v : MvEnv) (r : Nat) : Nat := if v.x.iw = 1 then v.b.loc.readLE (v.x.iaddr + 4 * r) 4 else v.b.loc.readLE (v.x.iaddr + 2 * r) 2
/-- The row number of an endpoint that row r addresses. -/
def MvEnv.rowNo (v : MvEnv) (e : MvEnd) (r : Nat) : Nat := if e.idx then v.index r else r
def MvEnv.rowAddr (v : MvEnv) (e : MvEnd) (r : Nat) : Nat := mvRow e.sp e.base e.stride (v.rowNo e r)
/-- First bytes of the scale and segment entries of row number `i`. -/
def MvEnd.sclAt (e : MvEnd) (i : Nat) : Nat := mvRow e.sp e.scl e.sstr i
def MvEnd.segAt (e : MvEnd) (i : Nat) : Nat := if e.sp = 0 then (e.seg + e.segstr * i).toNat else wrap 48 (e.seg + e.segstr * i)

/-- A source row: elements, scales, segments. -/
structure RawRow where
  el : List Byte
  sc : List Byte
  sg : List Byte
deriving DecidableEq, Repr

/-- Reads source row r with its planes. -/
def State.mvReadRow (s : State) (v : MvEnv) (r : Nat) : RawRow ⊕ MvStop :=
  let e := v.x.src
  let i := v.rowNo e r
  let a := v.rowAddr e r
  match s.mvRead v e.sp a v.x.srcBytes with
  | .inr f => .inr f
  | .inl el =>
    let n := scaleBytes e.fc v.x.elems
    let scales := if !codeBlock e.fc then .inl [] else if e.side then .inl ((List.range n).map fun j => s.burstTag v (a + 32 * j)) else s.mvRead v e.sp (e.sclAt i) n
    match scales with
    | .inr f => .inr f
    | .inl sc =>
      match (if e.fc = 0xE then s.mvRead v e.sp (e.segAt i) (2 * mvSegs e.ph v.x.elems) else .inl []) with
      | .inr f => .inr f
      | .inl sg => .inl ⟨el, sc, sg⟩

/-- Elements of `w` bits packed into bytes, and the reverse (R112). -/
def joinElems (w : Nat) (l : List Nat) : List Byte := leBytes (l.length * w / 8) (l.foldr (fun x acc => x + acc * 2 ^ w) 0)
def splitElems (w n : Nat) (bs : List Byte) : List Nat := let v := leNat bs; (List.range n).map fun i => bits v (w * i) w

/-- The value of an element at position c of a source row (R102 to R110, R138). -/
def rowVals (e : MvEnd) (n : Nat) (raw : RawRow) : List Num.Val :=
  (splitElems (codeWidth e.fc) n raw.el).zipIdx.map fun p =>
    let x := Num.decode (codeFmt e.fc) p.1
    if e.fc = 0xE then
      let k := (e.ph + p.2 / 32) / 16
      Num.scaledSeg (leNat ((raw.sg.drop (2 * k)).take 2)) ((raw.sc.getD (p.2 / 16) 0).toNat) x
    else if codeBlock e.fc then Num.scaled ((raw.sc.getD (p.2 / 32) 0).toNat) x
    else x

/-- A destination row formed from values: elements, scales, segments (R127, R128, R224, R225); `rnd c` serves element c. -/
def formRow (x : Xfer) (rnd : Nat → Nat → Nat → Nat) (vals : List Num.Val) : RawRow :=
  let f := codeFmt x.dst.fc
  let w := codeWidth x.dst.fc
  let pieces (n : Nat) := (Num.chunks n (vals.length / n + 1) vals).zipIdx
  if x.dst.fc = 0xE then
    let r := (pieces 512).map fun p => Num.toSegment x.rnd rnd (512 * p.2) p.1
    ⟨joinElems w (r.flatMap fun t => t.2.2), (r.flatMap fun t => t.2.1).map (BitVec.ofNat 8), r.flatMap fun t => leBytes 2 t.1⟩
  else if codeBlock x.dst.fc then
    let r := (pieces 32).map fun p => Num.toBlock f x.rnd (fun i => rnd (32 * p.2 + i)) p.1
    ⟨joinElems w (r.flatMap fun t => t.2), r.map fun t => BitVec.ofNat 8 t.1, []⟩
  else ⟨joinElems w (vals.zipIdx.map fun p => Num.encode f x.rnd x.sat (rnd p.2) p.1), [], []⟩

/-- Writes of an operation so far: local pieces, other pieces by byte key with the policy of their page, tags by sector. -/
structure MvOut where
  loc : List (Nat × List Byte)
  mem : List (Nat × Nat × List Byte)
  tag : List (Nat × Byte)
deriving DecidableEq, Repr

/-- Adds a write (R221, R232). -/
def State.mvPut (s : State) (v : MvEnv) (sp a : Nat) (bs : List Byte) (o : MvOut) : MvOut ⊕ MvStop :=
  if bs.isEmpty then .inl o
  else if sp = 0 then (if a + bs.length ≤ v.b.l * 1024 then .inl { o with loc := o.loc ++ [(a, bs)] } else .inr ⟨false, 4, 0⟩)
  else (pieces (bs.length / 65536 + 2) a bs.length).foldl (fun acc p =>
    match acc with
    | .inr e => .inr e
    | .inl o => match s.mvKey v.b.slice sp (p.1 % 2 ^ 48) true with
      | .inr e => .inr e
      | .inl (k, pg) => .inl { o with mem := o.mem ++ [(k, pg.elim 0 (·.policy), (bs.drop (p.1 - a)).take p.2)] }) (.inl o)

/-- Adds the writes of a destination row with its planes; scales of a side-bit destination go to the tags (R226, R292). -/
def State.mvPutRow (s : State) (v : MvEnv) (r : Nat) (row : RawRow) (o : MvOut) : MvOut ⊕ MvStop :=
  let e := v.x.dst
  let i := v.rowNo e r
  let a := v.rowAddr e r
  match s.mvPut v e.sp a row.el o with
  | .inr f => .inr f
  | .inl o =>
    let o := if e.side then
        .inl { o with tag := o.tag ++ row.sc.zipIdx.filterMap fun p => match s.mvKey v.b.slice 1 ((a + 32 * p.2) % 2 ^ 48) true with
          | .inl (k, _) => if k < 2 ^ 60 then some (k / 32, p.1) else none
          | .inr _ => none }
      else s.mvPut v e.sp (e.sclAt i) row.sc o
    match o with
    | .inr f => .inr f
    | .inl o => s.mvPut v e.sp (e.segAt i) row.sg o

/-- The writes of source row r (R221, R224, R225). -/
def State.mvRowOut (s : State) (v : MvEnv) (seed : Num.Seed) (r : Nat) (raw : RawRow) (o : MvOut) : MvOut ⊕ MvStop :=
  let x := v.x
  let rnd (c : Nat) := Num.random16 seed 0 (c % 2 ^ 16)
  if x.op = 3 then
    let w := codeWidth x.dst.fc / 8
    let els := if x.src.fc = x.dst.fc then splitElems (codeWidth x.src.fc) x.elems raw.el
      else (rowVals x.src x.elems raw).zipIdx.map fun p => Num.encode (codeFmt x.dst.fc) x.rnd x.sat (rnd (p.2 * x.elems + r)) p.1
    els.zipIdx.foldl (fun acc p => match acc with
      | .inr e => .inr e
      | .inl o => s.mvPut v x.dst.sp (mvRow x.dst.sp x.dst.base x.dst.stride p.2 + r * w) (leBytes w p.1) o) (.inl o)
  else s.mvPutRow v r (if x.src.fc = x.dst.fc then raw else formRow x (fun c => rnd (r * x.elems + c)) (rowVals x.src x.elems raw)) o

/-- Rows in order until one stops the operation: the writes, and what stopped it with the row and its address (R232). The
address is the source row's where the read failed, else the destination's. -/
def State.mvRows (s : State) (v : MvEnv) (seed : Num.Seed) : List Nat → MvOut → MvOut × Option (MvStop × Nat × Nat)
  | [], o => (o, none)
  | r :: rs, o =>
    match s.mvReadRow v r with
    | .inr e => (o, some (e, v.rowAddr v.x.src r, r))
    | .inl raw =>
      match s.mvRowOut v seed r raw o with
      | .inr e => (o, some (e, if v.x.op = 3 then v.x.dst.base else v.rowAddr v.x.dst r, r))
      | .inl o => s.mvRows v seed rs o

/-- The operation started n-th from the front among those running. -/
def State.mvRun? (s : State) (core m n : Nat) : Option MvRun := ((s.core core).mover m).run[n]?
/-- Changes one running operation. -/
def State.setRun (s : State) (core m n : Nat) (r : MvRun) : State :=
  let c := s.core core
  let v := c.mover m
  s.putCore core (c.putMover m { v with run := v.run.set n r })

/-- A range cut at multiples of `lim`. -/
def cutBy : Nat → Nat → Nat → Nat → List (Nat × Nat)
  | 0, _, _, _ => []
  | k + 1, lim, a, n => if n = 0 then [] else (a, min n (lim - a % lim)) :: cutBy k lim (a + min n (lim - a % lim)) (n - min n (lim - a % lim))

/-- The ranges outside local memory that a row reads, by key with the policy of their page; whether one of them has no translation. -/
def State.mvRowAsks (s : State) (v : MvEnv) (r : Nat) : List (Nat × Nat × Nat) × Bool :=
  let e := v.x.src
  let i := v.rowNo e r
  let rs := [(v.rowAddr e r, v.x.srcBytes)] ++ (if codeBlock e.fc && !e.side then [(e.sclAt i, scaleBytes e.fc v.x.elems)] else []) ++
    (if e.fc = 0xE then [(e.segAt i, 2 * mvSegs e.ph v.x.elems)] else [])
  (rs.flatMap fun p => pieces (p.2 / 65536 + 2) p.1 p.2).foldl (fun acc p =>
    if acc.2 then acc else match s.mvKey v.b.slice e.sp (p.1 % 2 ^ 48) false with
      | .inr _ => (acc.1, true)
      | .inl (k, pg) => (acc.1 ++ [(k, p.2, pg.elim 0 (·.policy))], false)) ([], false)
/-- Those of every row; rows after one that cannot be translated ask nothing. -/
def State.mvAsks (s : State) (v : MvEnv) : List (Nat × Nat × Nat) :=
  if v.x.src.sp = 0 then [] else
  ((List.range v.x.rows).foldl (fun (acc : List (Nat × Nat × Nat) × Bool) r =>
    if acc.2 then acc else let x := s.mvRowAsks v r; (acc.1 ++ x.1, x.2)) ([], false)).1

/-- The sectors that a list of ranges touches, each once. -/
def sectorsOf (l : List (Nat × Nat × Nat)) : List Nat := (l.flatMap fun p => (List.range ((p.1 + p.2.1 + 31) / 32 - p.1 / 32)).map (p.1 / 32 + ·)).eraseDups

/-- Sends the read of one line of the module for a mover operation: through the scratch window, to the LLM of its half under the
operation's class, hint and page policy, or by the fine path a burst at a time (R220, R239, R240, R250, R267, R288). -/
def State.mvAskLine (s : State) (core m sl : Nat) (x : Xfer) (pol line : Nat) (secs : List Nat) : State × List Nat :=
  let mask : BitVec 4 := secs.foldl (fun b k => b ||| (1#4 <<< (k % 4))) 0
  if isScratch line then
    let (id, s) := s.fresh
    ({ s with flight := { s.flight with scr := s.flight.scr ++ [⟨.mover core m id, sl, line, .read mask⟩] } }, [id])
  else if x.hint = 2 then
    secs.foldl (fun (acc : State × List Nat) k =>
      let (id, s) := acc.1.fresh
      (s.send (.rdfine ⟨(s.homeNode line).getD 0, .agent (.mover core m id), 0, line⟩ (k % 4)), acc.2 ++ [id])) (s, [])
  else
    let (id, s) := s.fresh
    ({ s with flight := { s.flight with llm := s.flight.llm ++ [⟨core / 32, .mover core m id, sl, x.cls, x.hint, pol, false, line, .read mask⟩] } }, [id])

/-- Sends the reads of an operation and gives their numbers: lines of the module; host memory in requests of up to 4,096 bytes, remote
scratch in gets of up to 256 bytes (R413, R438). -/
def State.mvAsk (s : State) (core m : Nat) (sl : Nat) (x : Xfer) (l : List (Nat × Nat × Nat)) : State × List Nat :=
  let mine := l.filter fun p => decide (p.1 < 2 ^ 60)
  let secs := sectorsOf mine
  let acc := ((secs.map (· / 4)).eraseDups).foldl (fun (acc : State × List Nat) line =>
    let pol := (mine.find? fun p => decide (p.1 / 128 ≤ line) && decide (line ≤ (p.1 + p.2.1 - 1) / 128)).elim 0 (·.2.2)
    let r := acc.1.mvAskLine core m sl x pol line (secs.filter fun k => k / 4 == line)
    (r.1, acc.2 ++ r.2)) (s, [])
  (l.filter fun p => decide (2 ^ 60 ≤ p.1)).foldl (fun (acc : State × List Nat) p =>
    if 2 ^ 70 ≤ p.1 then
      (cutBy (p.2.1 / 256 + 2) 256 (p.1 - 2 ^ 70) p.2.1).foldl (fun acc q =>
        let (s, id) := acc.1.remoteSend (core / 64) (.get core m (q.1 % 2 ^ 33) q.2) sl (bits q.1 33 15) 2 (q.1 % 2 ^ 33) q.2 []
        (s, acc.2 ++ [id])) acc
    else
      (cutBy (p.2.1 / 4096 + 2) 4096 (p.1 % 2 ^ 60) p.2.1).foldl (fun acc q =>
        let (id, s) := acc.1.fresh
        ({ s with hostReads := s.hostReads ++ [⟨id, .mover core m id, sl, s.gen sl, p.1 / 2 ^ 60 - 1, q.1, q.2⟩] }, acc.2 ++ [id])) acc) acc

/-- Sends the writes of an operation to one line of the module (R218, R239, R242, R250): through the scratch window, to the LLM of its
half, or with side bits to the home node, which invalidates every copy (R292). Bytes of a later row come later. -/
def State.mvWriteLine (s : State) (core m sl : Nat) (x : Xfer) (pol line : Nat) (bs : List (Nat × Byte)) : State × Nat :=
  let (id, s) := s.fresh
  (if isScratch line then { s with flight := { s.flight with scr := s.flight.scr ++ [⟨.mover core m id, sl, line, .write bs⟩] } }
   else if x.dst.side then s.send (.wrna ⟨(s.homeNode line).getD 0, .agent (.mover core m id), 0, line⟩ bs)
   else { s with flight := { s.flight with llm := s.flight.llm ++ [⟨core / 32, .mover core m id, sl, x.cls, 0, pol, false, line, .write bs⟩] } }, id)

/-- Sends the writes of an operation and gives their numbers: one for each line of the module, puts of up to 256 bytes to other
modules, and writes to hosts (R218, R413, R441). -/
def State.mvSend (s : State) (core m sl : Nat) (x : Xfer) (l : List (Nat × Nat × List Byte)) : State × List Nat :=
  let mine := (l.filter fun p => decide (p.1 < 2 ^ 60)).flatMap fun p => p.2.2.zipIdx.map fun b => (p.1 + b.2, p.2.1, b.1)
  let acc := ((mine.map (·.1 / 128)).eraseDups).foldl (fun (acc : State × List Nat) line =>
    let here := mine.filter fun b => b.1 / 128 == line
    let r := acc.1.mvWriteLine core m sl x ((here.head?.map (·.2.1)).getD 0) line (here.map fun b => (b.1 % 128, b.2.2))
    (r.1, acc.2 ++ [r.2])) (s, [])
  (l.filter fun p => decide (2 ^ 60 ≤ p.1)).foldl (fun (acc : State × List Nat) p =>
    if 2 ^ 70 ≤ p.1 then
      (cutBy (p.2.2.length / 256 + 2) 256 (p.1 - 2 ^ 70) p.2.2.length).foldl (fun acc q =>
        let (s, id) := acc.1.remoteSend (core / 64) (.put core m) sl (bits q.1 33 15) 1 (q.1 % 2 ^ 33) 0 ((p.2.2.drop (q.1 - (p.1 - 2 ^ 70))).take q.2)
        (s, acc.2 ++ [id])) acc
    else
      let (s, id) := acc.1.hostWrite (p.1 / 2 ^ 60 - 1) sl (p.1 % 2 ^ 60) p.2.2
      (s, acc.2 ++ [id])) acc

/-- Once every read has been answered the rows are processed: the local writes and tags are known, every other write is sent and awaited
(R194, R218, R232). -/
def State.mvWork (s : State) (core m n : Nat) : State :=
  match s.mvRun? core m n with
  | none => s
  | some r =>
    if r.ready || !r.waits.isEmpty || r.err.isSome || dfld r.op.d 0 4 != 4 then s else
    match NMap.find? (s.core core).blocks r.op.block with
    | none => s
    | some b =>
      let v : MvEnv := ⟨b, xferOf r.op.d r.op.d2 r.op.u, r.got, r.bad⟩
      let seed : Num.Seed := { seed := b.seed.toNat, inst := b.taskNo.toNat, ofs := r.op.ofs, blk := r.op.blk, grp := r.op.grp }
      let (o, f) := s.mvRows v seed (List.range v.x.rows) ⟨[], [], []⟩
      let s := if o.mem.any (fun p => decide (2 ^ 60 ≤ p.1)) || r.got.any (fun p => decide (2 ^ 60 ≤ p.1)) then s.markTask b.slice b.taskNo else s
      let s := match f with | some (⟨false, 1, pa + 1⟩, _) => s.unbackedAt pa | _ => s
      let (s, ids) := s.mvSend core m b.slice v.x o.mem
      s.setRun core m n { r with loc := o.loc, tag := o.tag, waits := ids, ready := true, err := f.map fun e => (e.1.poison, e.1.code, if e.1.poison then e.1.obj else 0, e.2.1, if v.x.src.idx || v.x.dst.idx then e.2.2 else 0) }

/-- The running operations of a mover whose reads have been answered are processed. -/
def State.mvSettle (s : State) (core m : Nat) : State := (List.range ((s.core core).mover m).run.length).foldl (fun s n => s.mvWork core m n) s

/-- A hint trains, replaces or stops a stream prefetcher of the core's half (R227, R228). -/
def State.hint (s : State) (core sl : Nat) (d : W256) : State :=
  let h := core / 32
  let x := s.half h
  let sid := dfld d 120 5
  let same := (List.find? (fun (p : Nat × Prefetch) => p.2.slice == sl && p.2.sid == sid) x.pfs).map (·.1)
  if dfld d 119 1 = 1 then
    match same with | some k => s.putHalf h { x with pfs := NMap.del x.pfs k } | none => s
  else
    let (t, s) := s.fresh
    let pf : Prefetch := ⟨sl, sid, dfld d 4 48, sext 32 (dfld d 52 32), dfld d 84 24 + 1, dfld d 108 8, dfld d 116 3, 0, none, t, []⟩
    let free := (List.range 32).find? fun k => (NMap.find? x.pfs k).isNone
    let oldestOwn := (List.foldl (fun (b : Option (Nat × Nat)) (p : Nat × Prefetch) =>
      if p.2.slice = sl then (match b with | some q => if p.2.trained < q.2 then some (p.1, p.2.trained) else b | none => some (p.1, p.2.trained)) else b) none x.pfs).map (·.1)
    match same.orElse fun _ => free.orElse fun _ => oldestOwn with
    | some k => s.putHalf h { x with pfs := NMap.put x.pfs k pf }
    | none => s.incSreg sl 0xC0A0

/-- Sends the next item of a queue transfer to another module (R230, R413). -/
def State.mvPush (s : State) (core m : Nat) (sl : Nat) (b : Block) (o : MvOp) : State × Nat :=
  let qh := dfld o.d 16 64
  s.remoteSend (core / 64) (.put core m) sl (bits qh 10 15) 5 (qh % 512) (dfld o.d 5 2) (b.loc.readBytes (qtSlot o.d o.moved) 64)

/-- Starts a queue transfer: the handle is checked, then each item acts as one blocking operation (R230, R232, R376). -/
def State.mvQueue (s : State) (core m : Nat) (b : Block) (o : MvOp) : State :=
  let n := ((s.core core).mover m).run.length - 1
  let qh := dfld o.d 16 64
  let push := dfld o.d 4 1 == 1
  let stop (c k : Nat) : State := match s.mvRun? core m n with
    | some r => s.setRun core m n { r with err := some (false, c, k, qtSlot o.d 0, 0) }
    | none => s
  if s.handleBad qh b.slice push then stop 7 0
  else if bit qh 9 then
    let (s, id) := (s.markTask b.slice b.taskNo).mvPush core m b.slice b o
    match s.mvRun? core m n with
    | some r => s.setRun core m n { r with waits := [id] }
    | none => s
  else if !s.qEn (qh % 512) then stop 8 6
  else if s.qFailed (qh % 512) then stop 8 7
  else
    let s := s.markTask b.slice b.taskNo
    match s.moverNext core m ⟨.mover core m, b.slice, [], dfld o.d 5 2, 0⟩ with
    | some w => s.qWait (qh % 512) w
    | none => s

/-- Whether a running operation has issued its last request (R236): a transfer when its writes are sent, a queue transfer when its last
item has moved. -/
def MvRun.issued (r : MvRun) : Bool :=
  r.err.isSome || (if dfld r.op.d 0 4 = 7 then decide (dfld r.op.d 93 16 < r.op.moved) else r.ready)

/-- Whether what happened before an operation lets it start (R194, R218, R230): the stores and the loads that its path had issued are
performed; a hint waits for nothing; a release at system scope waits for the acknowledgements too. -/
def State.mvMayStart (s : State) (core : Nat) (o : MvOp) : Bool :=
  let c := s.core core
  dfld o.d 0 4 == 6 ||
  ((c.sb.all fun e => !o.stores.contains e.id) && (NMap.foldV c.groups true fun b _ g => b && g.ops.all fun q => !o.loads.contains q.id) &&
   !(dfld o.d 0 4 == 7 && dfld o.d 7 2 == 2 && dfld o.d 9 2 == 3 && !s.unacked.isEmpty))

/-- The next operation of a mover starts (R236): a transfer asks for its source, a hint reaches a prefetcher, a queue transfer begins; one
of a block that is being saved is kept for its restore where it would wait (R234). -/
def execMoverOperationStart (core mover : Nat) (s : State) : Host.Outcome State Fault Refusal :=
  let s := s.mvSettle core mover
  let c := s.core core
  let v := c.mover mover
  match v.queue with
  | [] => .next s
  | o :: q =>
    if !(v.run.all MvRun.issued) || !s.mvMayStart core o then .next s else
    match NMap.find? c.blocks o.block with
    | none => .next s
    | some b =>
      let r : MvRun := ⟨o, [], [], none, [], [], [], dfld o.d 0 4 == 6⟩
      let n := v.run.length
      let s := s.putCore core (c.putMover mover { v with queue := q, run := v.run ++ [r] })
      .next (if dfld o.d 0 4 = 6 then s.hint core b.slice o.d
        else if dfld o.d 0 4 = 7 then
          let s := s.mvQueue core mover b o
          if b.saving then s.abandonQueue core o.block else s
        else
          let x := xferOf o.d o.d2 o.u
          let (s, ids) := s.mvAsk core mover b.slice x (s.mvAsks ⟨b, x, [], []⟩)
          (s.setRun core mover n { r with waits := ids }).mvWork core mover n)

/-- Performs what an operation writes at its completion (R218): local memory and tags. A tag for a burst without tags is lost (R293). -/
def State.mvWrites (s : State) (core : Nat) (r : MvRun) : State :=
  match NMap.find? (s.core core).blocks r.op.block with
  | none => s
  | some b =>
    let s := s.putBlock core r.op.block { b with loc := writePieces b.loc r.loc }
    r.tag.foldl (fun s p =>
      if s.burstTagged (32 * p.1) then { s with tags := NMap.set 0 s.tags p.1 p.2.toNat }
      else match s.place (32 * p.1) with | some (n, _, _) => s.flag (aMem n 0x28) 3 | none => s) s

/-- Takes a running operation off its mover. -/
def State.dropRun (s : State) (core m n : Nat) : State :=
  let c := s.core core
  let v := c.mover m
  s.putCore core (c.putMover m { v with run := v.run.eraseIdx n })

/-- Whether a running operation has done everything it asked for. -/
def MvRun.finished (r : MvRun) : Bool :=
  r.waits.isEmpty && (r.err.isSome || (if dfld r.op.d 0 4 = 7 then decide (dfld r.op.d 93 16 < r.op.moved) else r.ready))

/-- The end of an operation that has done everything it asked for: `f` is told of an error. -/
def State.mvEnd (s : State) (core m n : Nat) (f : State → MvRun → Option State) : State :=
  let s := s.mvSettle core m
  match s.mvRun? core m n with
  | none => s
  | some r => if !r.finished then s else (f ((s.dropRun core m n).mvWrites core r) r).getD s

/-- The token of an operation becomes complete with its writes performed (R218, R236). -/
def execMoverOperationComplete (core mover n : Nat) (s : State) : Host.Outcome State Fault Refusal :=
  .next (s.mvEnd core mover n fun s r => if r.err.isSome then none else some (s.endToken core r.op.slot r.op.block r.op.k .complete))

/-- An operation that an error stopped: earlier writes stay and the token becomes failed (R232). -/
def execMoverOperationFailed (core mover n : Nat) (s : State) : Host.Outcome State Fault Refusal :=
  .next (s.mvEnd core mover n fun s r => match r.err with
    | some (false, code, campion, addr, row) => some (s.endToken core r.op.slot r.op.block r.op.k (.failed ⟨code, campion, addr, row⟩))
    | _ => none)

/-- An operation that read poison: earlier writes stay, the token stays pending, and the issuing group raises program fault
0x08, or 0x09 for a shared object (R233). -/
def execMoverPoison (core mover n : Nat) (s : State) : Host.Outcome State Fault Refusal :=
  .next (s.mvEnd core mover n fun s r => match r.err with
    | some (true, code, obj, addr, _) => some (s.programFaultAt core r.op.slot r.op.pc { code := code, addr := addr, unit := obj })
    | _ => none)

end Sys2Proof.Machine
end

