-- ==== Sys2Proof/Machine/Link.lean ====
section
/-! DEFINITION. Link ports: arriving packets, remote operations, replay, retraining, time sync, sessions (spec 14, 17). -/

namespace Sys2Proof.Machine

/-- The enabled slice that holds a job number (R412). -/
def State.sliceOfJob (s : State) (job : Nat) : Option Nat :=
  (List.range 64).find? fun sl => s.exists? sl && s.fld (aSlc sl 8) 24 1 == 1 && s.jobNum sl == job

/-- The answer to a packet (R412, R413). -/
def replyTo (own : Nat) (p : Packet) (ty key : Nat) (bs : List Byte) : Packet :=
  { ty := ty, vc := 2, kidx := 0, seq := 0, ack := 0, xp := p.xp, src := own, dst := p.src, job := p.job, gen := p.gen, opid := p.opid, addr := p.addr, key := key, hops := 0, payload := bs }
def State.reply (s : State) (port : Nat) (p : Packet) (ty key : Nat) (bs : List Byte) : State :=
  s.linkSend (100 + portDie port) none (replyTo s.ownModule p ty key bs)

/-- The refusal of an arriving packet (R412). -/
def State.refuse (s : State) (port : Nat) (p : Packet) : State := (s.flag (aLnk 0x10) 3).reply port p 7 0 []

/-- The direction in which a packet that arrived on a torus port goes on (R401, R416). -/
def onward (port : Nat) : Nat := 2 * (port / 4) + (1 - port % 4 / 2)

/-- The port of a direction on the side where a packet arrived, or the other one (R407, R409). -/
def State.sidePort (s : State) (port d : Nat) : Option Nat :=
  match (dirPorts d).filter s.portUp with
  | [] => none
  | q :: r => some (if (q :: r).contains (4 * (d / 2) + 2 * (d % 2) + port % 2) then 4 * (d / 2) + 2 * (d % 2) + port % 2 else q)

/-- A copy of a ring multicast goes on with HOPS lowered by 1 (R416). -/
def State.multicastOn (s : State) (port : Nat) (p : Packet) : State :=
  if p.hops ≤ 1 ∨ 12 ≤ port then s else
  match s.sidePort port (onward port) with
  | some q => s.transmit q { p with hops := p.hops - 1, vc := s.vcOut p.vc (onward port) (some (port / 4)) }
  | none => s.flag (aLnk 0x10) 2

/-- A transit packet goes on (R409, R410). -/
def State.passOn (s : State) (port : Nat) (p : Packet) : State := s.linkSend (100 + portDie port) (if port < 12 then some (port / 4) else none) p

/-- Whether a port accepts a packet's key slot: the one in use, or the old one for 100 µs after a switch (R423). -/
def State.keyOk (s : State) (port : Nat) (p : Packet) : Bool :=
  p.kidx == s.fld (aPort port 8) 24 1 || ((s.portSt port).oldSlot == some p.kidx && decide (s.time.toNat < (s.portSt port).opened + 100000))

/-- A packet arrives at a port in order: acknowledged ones leave the replay store, a transit packet goes on, one for this module
is handled. Out of order, or under a key slot that is not accepted, it is discarded (R405, R423). -/
def State.ingress (s : State) (port : Nat) (p : Packet) (act : State → State) : State :=
  if 16 ≤ port || !s.portUp port || !s.keyOk port p then s else
  let x := s.portSt port
  let sent := x.sent.filter fun q => !decide ((p.ack + 65536 - q.seq) % 65536 < 32768)
  if p.seq ≠ x.rx then s.putPort port { x with sent := sent } else
  let s := s.putPort port { x with sent := sent, rx := (x.rx + 1) % 65536 }
  if p.hops ≠ 0 then act (s.multicastOn port p)
  else if p.dst ≠ s.ownModule then s.passOn port p
  else act s

/-- Whether an operation of a source module was seen in the last 100 µs (R407). -/
def State.dup (s : State) (p : Packet) : Bool :=
  s.seen.any fun e => e.1 == p.src && e.2.1 == p.opid && decide (s.time.toNat < e.2.2 + 100000)
def State.note (s : State) (p : Packet) : State :=
  { s with seen := (p.src, p.opid, s.time.toNat) :: s.seen.filter fun e => decide (s.time.toNat < e.2.2 + 100000) }

/-- A request for a slice of this module: duplicates are acknowledged again, an unknown job is refused, an adapter may send only
writes and pushes (R407, R411, R412). -/
def State.forJob (s : State) (port : Nat) (p : Packet) (act : Nat → State → State) : State :=
  if p.hops = 0 && p.ty != 2 && s.dup p then s.reply port p 6 0 [] else
  match s.sliceOfJob p.job with
  | none => s.refuse port p
  | some sl =>
    if 2 ^ 15 ≤ p.src ∧ p.ty ≠ 1 ∧ p.ty ≠ 5 then s.refuse port p
    else act sl (if p.hops = 0 then s.note p else s)

/-- Whether a scratch range lies in a slice's scratch. -/
def State.inScratch (s : State) (sl ofs n : Nat) : Bool :=
  (List.range ((ofs % 2 ^ 22 + n + (2 ^ 22 - 1)) / 2 ^ 22)).all fun i => (s.scrmap sl (ofs / 2 ^ 22 + i)).isSome

/-- A range of a slice's scratch written and read through the scratch window, unit by unit. -/
def scratchCuts (ofs n : Nat) : List (Nat × Nat) := cutBy (n / 2 ^ 22 + 2) (2 ^ 22) ofs n
def State.scratchWrite (s : State) (sl ofs : Nat) (bs : List Byte) : State :=
  (scratchCuts ofs bs.length).foldl (fun s c => match s.scratchPa sl c.1 with
    | some pa => s.engWrite (some (sl, 3)) pa ((bs.drop (c.1 - ofs)).take c.2)
    | none => s) s
def State.scratchRead (s : State) (sl ofs n : Nat) : State × List Byte × Bool :=
  (scratchCuts ofs n).foldl (fun (a : State × List Byte × Bool) c => match a.1.scratchPa sl c.1 with
    | some pa => let r := a.1.engRead (some (sl, 3)) pa c.2; (r.1, a.2.1 ++ r.2.1, a.2.2 || r.2.2)
    | none => (a.1, a.2.1 ++ List.replicate c.2 0, a.2.2)) (s, [], false)

/-- Arrived bytes of a collective, counted by stage and SEQ mod 4 (R419). -/
def State.arrive (s : State) (sl : Nat) (p : Packet) : State :=
  if p.hops = 0 then s else
  let e := s.engineOf sl
  s.putEngine sl { e with arrived := NMap.upd 0 e.arrived (4 * (p.key % 4) + p.key / 4 % 4) (· + p.payload.length) }

/-- Whether a packet is for scratch that is still being zeroed: it waits (R253). -/
def State.packetWaits (s : State) (p : Packet) (ofs n : Nat) : Bool :=
  (p.hops != 0 || p.dst == s.ownModule) && match s.sliceOfJob p.job with | some sl => s.zeroingAt sl ofs n | none => false

/-- A write from another module: a packet of a put, or a copy of a collective's input (R413, R418). -/
def execLinkWrite (port : Nat) (p : Packet) (s : State) : Host.Outcome State Fault Refusal :=
  .next (if s.packetWaits p p.addr p.payload.length then s else s.ingress port p fun s => s.forJob port p fun sl s =>
    if !s.inScratch sl p.addr p.payload.length then s.refuse port p
    else
      let s := (s.scratchWrite sl p.addr p.payload).arrive sl p
      if p.hops = 0 then s.reply port p 6 0 [] else s)

/-- A read request: the scratch bytes, pending contributions resolved, in a read response (R413). -/
def execLinkReadRequest (port : Nat) (p : Packet) (s : State) : Host.Outcome State Fault Refusal :=
  .next (if s.packetWaits p p.addr p.key then s else s.ingress port p fun s => s.forJob port p fun sl s =>
    if !s.inScratch sl p.addr p.key then s.refuse port p
    else
      let (s, bs, _) := s.scratchRead sl p.addr p.key
      s.reply port p 3 0 bs)

/-- The element type code of a link engine's TYPE (R416), and where an add packet carries it: above the scratch offset. -/
def typeOf (t : Nat) : Nat := [2, 5, 6, 0].getD (t % 4) 0
def addrType (ofs t : Nat) : Nat := ofs + t * 2 ^ 46

/-- Applies bytes as red.line.ord contributions with one key, line by line; whether a line was resolved early (R208, R417). -/
def State.addOrdered (s : State) (a : Agent) (sl ofs t key : Nat) (bs : List Byte) : State × Bool :=
  let before := s.sreg sl 0xC098
  let n := atyBytes (typeOf t)
  let s := (cutBy (bs.length / 128 + 2) 128 ofs bs.length).foldl (fun (s : State) c =>
    match s.scratchPa sl c.1 with
    | none => s
    | some pa =>
      let part := (bs.drop (c.1 - ofs)).take c.2
      let ls := (List.range (c.2 / n)).map fun i => (pa % 128 + n * i, leNat ((part.drop (n * i)).take n))
      let h := scratchHalf pa
      (s.countAccess h sl 3 (sliceOf (pa / 128)) true).takeContrib h ⟨a, sl, pa / 128, typeOf t, ls, some (BitVec.ofNat 32 key), 2 ^ 64⟩) s
  (s, s.sreg sl 0xC098 != before)

/-- An ordered add from another module; the acknowledgement says whether a line was resolved early. The key of a collective's
copy is its sender's coordinate (R417, R418). -/
def execLinkAdd (port : Nat) (p : Packet) (s : State) : Host.Outcome State Fault Refusal :=
  .next (if s.packetWaits p (p.addr % 2 ^ 46) p.payload.length then s else s.ingress port p fun s => s.forJob port p fun sl s =>
    let ofs := p.addr % 2 ^ 46
    if !s.inScratch sl ofs p.payload.length then s.refuse port p
    else
      let key := if p.hops = 0 then p.key else s.coordOf p.src (port / 4)
      let (s, early) := s.addOrdered (.port (portDie port)) sl ofs (p.addr / 2 ^ 46) key p.payload
      if p.hops = 0 then s.reply port p 6 (early.toNat * 256) []
      else
        let s := s.arrive sl p
        if early then s.putEngine sl { s.engineOf sl with early := true } else s)

/-- A push from another module: refused where the slice may not use the queue; else done, turned away, or waiting (R376, R413). -/
def execLinkQueuePush (port : Nat) (p : Packet) (s : State) : Host.Outcome State Fault Refusal :=
  .next (s.ingress port p fun s => s.forJob port p fun sl s =>
    let q := p.addr % 512
    let ack (s : State) (k : Nat) : State := s.reply port p 6 k []
    if !s.qAllowed q sl true then s.refuse port p
    else if !s.qEn q then ack s 6
    else if s.qFailed q then ack s 7
    else
      let items := (List.range (max 1 ((p.payload.length + 63) / 64))).map fun i => BitVec.ofNat 512 (leNat ((p.payload.drop (64 * i)).take 64))
      let w : QWait := ⟨.remote p.src p.job p.gen p.opid 2, sl, items, p.key % 4, 0⟩
      if s.qCan q w (!s.pushWaits q) then
        let r := s.qDo q w
        match r.fault with
        | some f => (ack r.s 7).qFault q f
        | none => State.qServe q qFuel (ack r.s 0)
      else if p.key / 4 % 2 = 1 then ack s 1
      else s.qWait q w)

/-- The running mover operation that awaits a remote operation. -/
def State.awaiting (s : State) (core m id : Nat) : Option Nat := ((s.core core).mover m).run.findIdx? fun r => r.waits.contains id

/-- Ends the link engine's command of a slice: its completion item is pushed, its buffer zeroed, the engine idle (R416, R418). -/
def State.engineFinish (s : State) (sl : Nat) : State :=
  let e := s.engineOf sl
  match e.cmd with
  | none => s
  | some (w, _) =>
    let len := ifld w 128 32
    let s := if ifld w 0 8 = 2 ∧ e.failed = 0 ∧ ifld w 320 32 ≠ 0xFFFFFFFF then s.scratchWrite sl (128 * ifld w 320 32) (List.replicate len 0) else s
    let kept := if e.failed = 0 then len else 0
    let s := s.putEngine sl { e with cmd := none, early := false, failed := 0, done := e.done + 1, bytes := e.bytes + kept }
    let item := complItem (ifld w 0 8) e.failed (ifld w 96 32) kept 0 0 0 0 0 s.time.toNat 0 ||| BitVec.ofNat 512 (e.early.toNat * 2 ^ 16)
    if s.qAllowed (ifld w 80 9) sl true then s.pushItem (ifld w 80 9) 3 item sl else s

/-- The first row of a transfer whose destination holds a remote address: its address, and its number where the transfer is indexed
(R232). -/
def failRow (b : Block) (r : MvRun) (a : Nat) : Nat × Nat :=
  let v : MvEnv := ⟨b, xferOf r.op.d r.op.d2 r.op.u, [], []⟩
  let e := v.x.dst
  let i := ((List.range v.x.rows).find? fun i => v.rowAddr e i ≤ a && decide (a < v.rowAddr e i + max e.stride 1)).getD 0
  (v.rowAddr e i, if v.x.src.idx || e.idx then i else 0)

/-- The end of one remote operation: status and bytes. 8 is a refusal, 9 a timeout (R410, R413, R414). -/
def State.remoteDone (s : State) (r : Remote) (status : Nat) (bs : List Byte) : State :=
  let s := { s with remotes := s.remotes.filter fun x => x.id != r.id }
  let key := remoteKey (r.dst * 2 ^ 33 + r.pkt.addr)
  let stop (core m n : Nat) (x : MvRun) (code campion : Nat) : State :=
    let at_ : Nat × Nat := if dfld x.op.d 0 4 = 7 then (qtSlot x.op.d x.op.moved, 0) else
      match NMap.find? (s.core core).blocks x.op.block with | some b => failRow b x (r.dst * 2 ^ 33 + r.pkt.addr) | none => (0, 0)
    s.setRun core m n { x with waits := x.waits.erase r.id, err := some (false, code, campion, at_.1, at_.2) }
  match r.kind with
  | .push core slot =>
    s.updGroup core slot fun g =>
      match (List.range 32).find? fun e => match g.path? e with | some p => p.wait == .queue r.id | none => false with
      | some e => (g.setU (r.pkt.key / 8) (BitVec.ofNat 64 status)).wake e
      | none => g
  | .get core m ofs len =>
    match s.awaiting core m r.id with
    | none => s
    | some n =>
      match s.mvRun? core m n with
      | none => s
      | some x =>
        let x := { x with waits := x.waits.erase r.id }
        s.setRun core m n (if status = 8 ∨ status = 9 then { x with bad := x.bad ++ [(key, len, if status = 8 then 5 else 6)] }
          else { x with got := x.got.writeBytes (remoteKey (r.dst * 2 ^ 33 + ofs)) bs })
  | .put core m =>
    match s.awaiting core m r.id with
    | none => s
    | some n =>
      match s.mvRun? core m n with
      | none => s
      | some x =>
        if status = 8 ∨ status = 9 then (if x.err.isSome then s.setRun core m n { x with waits := x.waits.erase r.id } else stop core m n x (if status = 8 then 5 else 6) 0)
        else if dfld x.op.d 0 4 ≠ 7 then s.setRun core m n { x with waits := x.waits.erase r.id }
        else if status ≠ 0 then stop core m n x 8 status
        else
          let x := { x with waits := [], op := { x.op with moved := x.op.moved + 1 } }
          let s := s.setRun core m n x
          if dfld x.op.d 93 16 < x.op.moved then s else
          match NMap.find? (s.core core).blocks x.op.block with
          | some b =>
            let (s, id) := s.mvPush core m r.slice b x.op
            s.setRun core m n { x with waits := [id] }
          | none => s
  | .engine sl =>
    let e := s.engineOf sl
    let f := if e.failed ≠ 0 then e.failed else if status = 8 then 4 else if status = 9 then 5 else 0
    let e := { e with failed := f, early := e.early || decide (256 ≤ status ∧ status ≠ 8 ∧ status ≠ 9) }
    let s := s.putEngine sl e
    if s.remotes.any fun x => x.kind == .engine sl then s else s.engineFinish sl

/-- Where an answer goes that arrives after its wait was abandoned: a push's status into its record, anything else into the
landing buffer where it has room (R476). -/
def State.landAnswer (s : State) (r : Remote) (status : Nat) (bs : List Byte) : State :=
  let x := s.slice r.slice
  let push := match r.kind with | .push .. => true | _ => false
  if !push ∧ s.fld (aSlc r.slice 0x38) 32 16 * 65536 < x.landed + bs.length then s.incSreg r.slice 0xD038
  else
    let va := s.fld (aSlc r.slice 0x38) 0 32 * 65536 + x.landed
    let s := if push then s else match s.translate r.slice va with
      | some (.mem pa p) => s.engWrite (some (r.slice, p.cls)) pa bs
      | _ => s
    let s := s.putSlice r.slice { s.slice r.slice with landed := if push then x.landed else x.landed + bs.length }
    { s with remotes := s.remotes.map fun y => if y.id = r.id then { y with answer := some (status, bs) } else y }

/-- An answer reaches this module: late ones of an earlier generation are discarded and counted (R412, R464). -/
def State.answered (s : State) (p : Packet) (status : Nat) : State :=
  match s.remotes.find? fun r => r.dst == p.src && r.opid == p.opid && r.answer.isNone with
  | none => s
  | some r =>
    if r.gen ≠ s.gen r.slice ∨ p.gen ≠ r.gen then ({ s with remotes := s.remotes.filter fun x => x.id != r.id }).incSreg r.slice 0xD028
    else if r.kept then s.landAnswer r status p.payload
    else s.remoteDone r status p.payload

/-- A read response (R413, R476). -/
def execLinkReadResponse (port : Nat) (p : Packet) (s : State) : Host.Outcome State Fault Refusal :=
  .next (s.ingress port p fun s => s.answered p 0)

/-- An acknowledgement, with a push's status (R412, R413). -/
def execLinkAcknowledgement (port : Nat) (p : Packet) (s : State) : Host.Outcome State Fault Refusal :=
  .next (s.ingress port p fun s => s.answered p p.key)

/-- A tunnelled access ended without its effect: CFG_HP_ERR.TUNNEL and its count (R449, R450). -/
def State.tunnelFail (s : State) (port : Nat) : State := (s.flag (aHpErr port) 5).satInc (aHpCnt port) 48 16

/-- A tunnelled read ends with a value; the next one that waits is sent (R450). -/
def State.tunnelEnd (s : State) (port m opid value : Nat) : State :=
  let x := s.host port
  if !x.tunnels.any (fun t => t.1 == opid && t.2.1 == m) then s else
  let left := x.tunnels.filter fun t => !(t.1 == opid && t.2.1 == m)
  let s := s.emit (.answer port value)
  match left.find? fun t => t.2.2.2.isSome with
  | some (o, n, since, some p) =>
    (s.putHost port { x with tunnels := left.map fun t => if t.1 = o ∧ t.2.1 = n then (o, n, since, none) else t }).linkSend (46 + s.actDie) none p
  | _ => s.putHost port { x with tunnels := left }

/-- ADDR of a management-tunnel packet: offset in [27:0], bytes in [31:28], 0 read, 1 write, 2 answer in [33:32], the host port of the
sender in [34], 1 in [35] (log 52). -/
def tunnelAddr (ofs size kind port : Nat) : Nat := ofs % 2 ^ 28 + size % 16 * 2 ^ 28 + kind * 2 ^ 32 + port * 2 ^ 34 + 2 ^ 35

/-- The refusal of a tunnelled access: a read returns all ones (R449). -/
def State.tunnelRefused (s : State) (p : Packet) : State :=
  let port := bits p.addr 34 1
  (if bits p.addr 32 2 = 0 then s.tunnelEnd port p.src p.opid (2 ^ (8 * bits p.addr 28 4) - 1) else s).tunnelFail port

/-- A refusal; port 16 stands for one that this module made itself (R410, R412, R449). -/
def State.refused (s : State) (p : Packet) : State := if bit p.addr 35 then s.tunnelRefused p else s.answered p 8
def execLinkRefusal (port : Nat) (p : Packet) (s : State) : Host.Outcome State Fault Refusal :=
  if port = 16 then .next (s.onNet (.linkRefusal 16 p) fun s => s.refused p)
  else .next (s.ingress port p fun s => s.refused p)

/-- LNK_RTIMEOUT has passed without an answer (R414). An abandoned wait goes on after its restore (R476). -/
def execRemoteTimeout (id : Nat) (s : State) : Host.Outcome State Fault Refusal :=
  match s.remotes.find? fun r => r.id == id with
  | none => .next s
  | some r =>
    if r.kept || decide (s.time.toNat < r.since + 1000000 * s.fld (aLnk 8) 0 7) then .next s
    else if r.gen ≠ s.gen r.slice then .next { s with remotes := s.remotes.filter fun x => x.id != id }
    else .next (s.remoteDone r 9 [])

/-- A record of the link block for a port. -/
def State.linkRec (s : State) (port sev code det : Nat) : State :=
  s.record { sev := sev, block := 6, code := code, die := 54 + portDie port, unit := port, detail := det }

/-- The management die tells every manager of a change of a port's width or state, and the pod manager (R406; log 45). -/
def State.portNotice (s : State) (port what : Nat) : State :=
  let s := (s.emit (.event 0 0x406 [port, what])).emit (.event 1 0x406 [port, what])
  if s.fld (aLnk 0x18) 39 1 = 0 then s else
  s.linkSend (46 + s.actDie) none { ty := 0xA, vc := 4, kidx := 0, seq := 0, ack := 0, xp := 0, src := s.ownModule, dst := s.fld (aLnk 0x18) 24 15, job := 0, gen := 0, opid := 0, addr := 0, key := 8 + what * 16 + port * 2 ^ 12, hops := 0, payload := [] }

/-- A port leaves service: its unacknowledged packets go on the other port of its direction in their order (R406, R407); a port
that goes down ends its session. -/
def State.portOut (s : State) (port st : Nat) : State :=
  let x := s.portSt port
  let up := s.portUp port
  let s := (s.setFld (aPort port 8) 0 2 st).putPort port { x with sent := [], session := if st = 0 then none else x.session, oldSlot := none, trained := false }
  let s := if up then (((s.flag (aLnk 0x10) 0).linkRec port 0 0 0).alert).portNotice port (if st = 0 then 0 else 1) else s
  if 12 ≤ port then s else
  let d := 2 * (port / 4) + port % 4 / 2
  match s.sidePort port d with
  | some q => x.sent.foldl (fun s p => s.transmit q p) s
  | none => s

/-- The other end asks for a replay from a sequence number: the packets are sent again; eight replays of one number start a
retrain; a tag failure is counted, and four within 1 ms take the port down (R405, R423). -/
def execLinkPacketReplay (port seq : Nat) (tag : Bool) (s : State) : Host.Outcome State Fault Refusal :=
  if 16 ≤ port || !s.portUp port then .next s else
  let x := s.portSt port
  let again := x.sent.filter fun p => decide ((p.seq + 65536 - seq) % 65536 < 32768)
  let n := if x.replays.1 = seq then x.replays.2 + 1 else 1
  let fails := if tag then s.time.toNat :: x.fails.filter fun t => decide (s.time.toNat < t + 1000000) else x.fails
  let (v, s) := s.freely 20
  let s := ((s.putPort port { x with replays := (seq, n), fails := fails }).satInc (aPort port 0x10) 40 16).linkRec port 0 (v % 2 ^ 16) 0
  let s := if tag then s.satInc (aPort port 0x10) 56 8 else s.satInc (aPort port 0x10) 24 16
  if 4 ≤ fails.length then .next ((s.flag (aLnk 0x10) 4).portOut port 0)
  else
    let s := again.foldl (fun s p => s.emit (.link port p)) s
    .next (if 8 ≤ n then s.portOut port 1 else s)

/-- The port retrains on its good lanes (R406). -/
def State.portRetrain (s : State) (port : Nat) (lanes : BitVec 8) : State :=
  if 16 ≤ port || s.fld (aPort port 0) 0 1 = 0 then s
  else
    let s := s.portOut port 1
    s.putPort port { s.portSt port with lanes := lanes }
def execPortRetrain (port : Nat) (lanes : BitVec 8) (s : State) : Host.Outcome State Fault Refusal := .next (s.portRetrain port lanes)

/-- A write of LNK_PORT_CFG with RETRAIN = 1, ignored while the port trains (R406, R425). -/
def State.cfgRetrain (s : State) (port : Nat) : State := if s.fld (aPort port 8) 0 2 = 1 then s else s.portRetrain port (s.portSt port).lanes
def execLnkPortCfgRetrain (host port : Nat) (s : State) : Host.Outcome State Fault Refusal :=
  .next (if 16 ≤ port then s else s.mgrWrite host (aPort port 0) fun s => s.cfgRetrain port)

/-- The widest width that good lanes and WIDTH allow: 0 eight, 1 four, 2 two, 3 none (R406). -/
def widthOf (lanes : BitVec 8) (cfg : Nat) : Nat :=
  let n := lanes.toNat
  if n = 255 ∧ cfg = 0 then 0 else if (n % 16 = 15 ∨ n / 16 = 15) ∧ cfg ≤ 1 then 1
  else if n % 4 = 3 ∨ n / 4 % 4 = 3 ∨ n / 16 % 4 = 3 ∨ n / 64 = 3 then 2 else 3

/-- Whether a neighbour obeys R401; an express port obeys it always. -/
def State.cabled (s : State) (port nbr nbrPort : Nat) : Bool :=
  if 12 ≤ port then true else
  let a := port / 4
  let plus := port % 4 / 2 == 0
  let c := s.coord a
  let want := if plus then (c + 1) % s.ring a else (c + s.ring a - 1) % s.ring a
  s.ring a ≠ 1 && s.coordOf nbr a == want && (List.range 3).all (fun b => b == a || s.coordOf nbr b == s.coord b) &&
    nbrPort == 4 * a + (if plus then 2 else 0) + port % 2

/-- The supported media (R560). -/
def Medium.ok (m : Sys2Proof.Medium) : Bool :=
  match m with
  | .passive l => decide (5 ≤ l) && decide (l ≤ 20)
  | .active l => decide (20 ≤ l) && decide (l ≤ 60)
  | .optical l => decide (60 ≤ l) && decide (l ≤ 1000)
  | .other => false

/-- Training has ended: width, neighbour, state; another medium keeps the port down. Without a session the port waits for its exchange
(R401, R406, R495, R560). -/
def execPortRetrainDone (port : Nat) (lanes : PortTest) (nbr nbrPort : Nat) (s : State) : Host.Outcome State Fault Refusal :=
  if 16 ≤ port || s.fld (aPort port 8) 0 2 ≠ 1 then .next s else
  let w := widthOf lanes.good (s.fld (aPort port 0) 1 2)
  let old := s.fld (aPort port 8) 2 2
  if !Medium.ok lanes.medium then .next (((s.setFld (aPort port 8) 0 2 0).putPort port { s.portSt port with session := none }).flag (aLnk 0x10) 0)
  else if w = 3 then .next (((((s.setFld (aPort port 8) 0 2 0).putPort port { s.portSt port with session := none }).flag (aLnk 0x10) 0).linkRec port 5 0 3).alert)
  else if !s.cabled port nbr nbrPort then .next ((s.setFld (aPort port 8) 0 2 0).flag (aLnk 0x10) 6)
  else
    let s := (((s.setFld (aPort port 8) 2 2 w).setFld (aPort port 8) 4 1 1).setFld (aPort port 8) 5 15 nbr).setFld (aPort port 8) 20 4 nbrPort
    let s := if old < w then (((s.flag (aLnk 0x10) 1).linkRec port 5 1 w).alert).portNotice port (2 + 4 * w) else s
    let x := s.portSt port
    let s := s.putPort port { x with trained := true, lanes := lanes.good, replays := (0, 0) }
    .next (if x.session.isSome then s.setFld (aPort port 8) 0 2 2 else s)

/-- One time-sync exchange is sent on a port (R404, R422). -/
def execTimeSyncExchange (port : Nat) (s : State) : Host.Outcome State Fault Refusal :=
  if 16 ≤ port || !s.portUp port then .next s
  else .next (s.transmit port { ty := 9, vc := 5, kidx := 0, seq := 0, ack := 0, xp := 0, src := s.ownModule, dst := s.fld (aPort port 8) 5 15, job := 0, gen := 0, opid := 0, addr := 0, key := s.fld (aLnk 0x30) 24 6, hops := 0, payload := leBytes 32 s.time.toNat })

/-- The port that disciplines the time base (R422). -/
def State.parentPort (s : State) : Option Nat := if s.fld (aLnk 0x28) 0 1 = 1 then none else some (s.fld (aLnk 0x30) 2 4)

/-- A time-sync frame with its measured offset in ns, the parent's time less the own: at most 1 ns per exchange, not backward after
DEV_READY; the first frame before it may step; 16 good exchanges lock (R422). -/
def execTimeSyncFrame (port : Nat) (p : Packet) (offset : Int) (s : State) : Host.Outcome State Fault Refusal :=
  .next (s.ingress port p fun s =>
    if s.parentPort ≠ some port then s else
    let first := s.fld (aLnk 0x30) 24 6 = 0
    let s := (s.setFld (aLnk 0x30) 8 16 (wrap 16 offset)).setFld (aLnk 0x30) 24 6 (p.key + 1)
    let good := if offset.natAbs ≤ 2 then s.syncs + 1 else 0
    let step : Int := if s.phase = .ready then (if 0 < offset then 1 else 0) else if first then offset else max (-1) (min 1 offset)
    let s := { s with syncs := min good 16, time := s.time + BitVec.ofInt 64 step }
    if 16 ≤ good then (s.setFld (aLnk 0x30) 0 1 1).setFld (aLnk 0x30) 1 1 0 else s)

/-- The parent port is lost: the alternate takes over, or the module holds over (R422). -/
def execTimeParentLost (port : Nat) (s : State) : Host.Outcome State Fault Refusal :=
  if s.parentPort ≠ some port then .next s
  else
    let s := ({ s with syncs := 0 }).setFld (aLnk 0x30) 0 1 0
    if s.fld (aLnk 0x28) 9 1 = 1 then .next (s.setFld (aLnk 0x30) 2 4 (s.fld (aLnk 0x28) 5 4))
    else .next (((s.setFld (aLnk 0x30) 1 1 1).flag (aLnk 0x10) 5).alert)

/-- A pace notice goes round its ring, and to M0 as a Bugle message: source, clock, cause (R420, R421). -/
def execPaceNotice (port : Nat) (p : Packet) (s : State) : Host.Outcome State Fault Refusal :=
  .next (s.ingress port p fun s => s.send (.pace ⟨54 + portDie port, s.actDie, 1, 2⟩ p.src (p.key % 2 ^ 11) (p.key / 2 ^ 11)))

/-- The key slot of a session (R423, R495). -/
def State.openSession (s : State) (port id : Nat) : State :=
  let x := s.portSt port
  s.putPort port { x with session := some id, opened := s.time.toNat, counter := 0, fails := [] }

/-- What this module checks of a peer (R495): its signature and chain, LOCK 0, its slot 1 where PEN is 1; an adapter on an express
port only where AEN is 1. -/
def State.peerOk (s : State) (port : Nat) (kx : LinkKx) : Bool :=
  let meas (i : Nat) : List Byte := (kx.quote.drop (56 + 32 * i)).take 32
  let allow (j : Nat) : List Byte := (List.range 4).flatMap fun w => leBytes 8 (s.reg (aSec (0x300 + 0x20 * j + 8 * w)))
  if 12 ≤ port ∧ kx.quote.isEmpty then s.fld (aSec 0x20) 1 1 == 1 && Config.sigOk 4 (kx.point ++ kx.sig)
  else Config.sigOk 3 (kx.quote ++ kx.sig) && (meas 8).headD 1 == 0 &&
    (s.fld (aSec 0x20) 0 1 == 0 || meas 1 == allow 0 || meas 1 == allow 1)

/-- The session exchange of a trained port, or a re-key (R423, R495). A refusal keeps the port down. -/
def execLinkSessionExchange (port : Nat) (kx : LinkKx) (s : State) : Host.Outcome State Fault Refusal :=
  let x := s.portSt port
  if 16 ≤ port || !x.trained || s.fld (aSec 0) 5 1 = 0 || s.fld (aSec 0) 0 2 = 2 then .next s
  else if s.peerOk port kx then
    let (id, s) := s.fresh
    .next ((s.openSession port id).setFld (aPort port 8) 0 2 2)
  else .next ((((s.flag (aSec 0x10) 3).satInc (aSec 0x18) 16 16).setFld (aPort port 8) 0 2 0).putPort port { x with session := none })

/-- One second after a refused exchange it is tried again (R495). -/
def execLinkSessionRetry (port : Nat) (s : State) : Host.Outcome State Fault Refusal :=
  if 16 ≤ port || !(s.portSt port).trained || (s.portSt port).session.isSome then .next s
  else .next (s.setFld (aPort port 8) 0 2 1)

/-- A session at 2^48 packets or 24 hours is re-keyed: the other key slot is used, the old one accepted for 100 µs (R423). -/
def execLinkRekey (port : Nat) (s : State) : Host.Outcome State Fault Refusal :=
  let x := s.portSt port
  if 16 ≤ port || !s.portUp port then .next s
  else
    let (id, s) := s.fresh
    let old := s.fld (aPort port 8) 24 1
    .next (((s.openSession port id).setFld (aPort port 8) 24 1 (1 - old)).putPort port
      { (s.openSession port id).portSt port with oldSlot := some old, sent := x.sent })

end Sys2Proof.Machine
end

