-- ==== Sys2Proof/Machine/Host.lean ====
section
/-! DEFINITION. Host ports: doorbells, reads and writes of host memory, function resets, links, ownership, IDE and TDISP states
(spec 15). -/

namespace Sys2Proof.Machine

/-- A doorbell write: the value waits in its doorbell until it reaches the coordinator; dropped where eight wait or no job runs
(R435). -/
def execSlcSDoorbell (port : Nat) (pasid : Option Nat) (stream value : Nat) (s : State) : Host.Outcome State Fault Refusal :=
  .next (s.tenant port pasid fun slice s =>
    let x := s.slice slice
    if 16 ≤ stream then s
    else if s.jobOf slice ≠ 1 || decide (8 ≤ (x.bells.filter fun b => b.1 == stream).length) then
      s.setSreg slice 0xA088 (min (s.sreg slice 0xA088 + 1) (2 ^ 32 - 1))
    else
      (s.putSlice slice { x with bells := x.bells ++ [(stream, BitVec.ofNat 64 value)] }).send (.doorbell (bugleTo 0x13 (58 + port) s.actDie) slice stream (value % 2 ^ 64)))

/-- A read of host memory is over: invalidations that waited for it alone complete (R439). -/
def State.endHostRead (s : State) (r : HostRead) : State :=
  let s : State := { s with hostReads := s.hostReads.erase r }
  let x := s.host r.port
  let left := x.invals.map fun i => (i.1, i.2.erase (r.id, r.addr))
  let ended := left.filter fun i => i.2.isEmpty
  if x.invals.isEmpty then s else
  ended.foldl (fun s i => s.emit (.atsDone r.port i.1)) (s.putHost r.port { x with invals := left.filter fun i => !i.2.isEmpty })

/-- The end of a host read: 0 with its bytes, 1 refused, 2 poisoned. A refusal is program fault 0x06 at the load's return or mover error 0x01,
poison goes to the reader; one of an ended job is discarded and counted (R439, R440, R446, R464). -/
def State.hostReadDone (s : State) (r : HostRead) (how : Nat) (bs : List Byte) : State :=
  let s := s.endHostRead r
  let k := hostKey r.port r.addr
  if r.gen ≠ s.gen r.slice then s.incSreg r.slice 0xD028
  else match r.agent with
  | .load core slot op =>
    match s.findOp core slot op with
    | none => s
    | some _ =>
      if how = 1 then s.updOp core slot op fun o => { o with wait := o.wait.erase (k / 32), refused := k / 32 :: o.refused }
      else
        let v : W256 := BitVec.ofNat 256 (leNat (bs.take 32))
        let i := k / 32 % 4
        s.updOp core slot op fun o => o.takeSectors (k / 128) ⟨(List.range 4).map fun j => if j = i then some v else none, if how = 2 then 15#4 else 0, 0⟩ (1#4 <<< i)
  | .mover core m id => s.updAwait core m id fun x =>
      if how = 0 then { x with got := x.got.writeBytes k (bs.take r.len) } else { x with bad := x.bad ++ [(k, r.len, if how = 2 then 8 else 1)] }
  | _ => s

/-- An outstanding read by its number and address, once it is sent: a port has at most 1,024 requests outstanding, later ones wait
(R426). -/
def State.hostRead? (s : State) (id addr : Nat) : Option HostRead :=
  match s.hostReads.find? fun r => r.id == id && r.addr == addr with
  | some r => if ((s.hostReads.filter fun x => x.port == r.port).take 1024).contains r then some r else none
  | none => none

/-- A completion: status 0 successful, 1 Unsupported Request, 2 Completer Abort, 3 poisoned, 4 translation refused (R439, R440). -/
def execHostReadCompletion (id addr status : Nat) (bytes : List Byte) (s : State) : Host.Outcome State Fault Refusal :=
  match s.hostRead? id addr with
  | none => .next s
  | some r =>
    let s := if status = 4 then s.flag (aHpErr r.port) 4 else if status = 0 then s else s.flag (aHpErr r.port) 3
    .next (s.hostReadDone r (if status = 0 then 0 else if status = 1 ∨ status = 4 then 1 else 2) bytes)

/-- 50 ms without a completion (R440). -/
def execHostReadTimeout (id addr : Nat) (s : State) : Host.Outcome State Fault Refusal :=
  match s.hostRead? id addr with
  | none => .next s
  | some r => .next (((s.flag (aHpErr r.port) 2).satInc (aHpCnt r.port) 32 16).hostReadDone r 2 [])

/-- A mover stops waiting for writes to hosts that have been acknowledged (R194). -/
def Mover.acked (v : Mover) (ids : List Nat) : Mover := { v with run := v.run.map fun r => { r with waits := r.waits.filter fun i => !ids.contains i } }

/-- The zero-length read has completed: the writes before it are acknowledged; the next read is sent for later ones (R441). -/
def execZeroLengthReadComplete (port : Nat) (s : State) : Host.Outcome State Fault Refusal :=
  let x := s.host port
  if x.covered.isEmpty then .next s else
  let s : State := { s with unacked := s.unacked.filter fun i => !x.covered.contains i
                            cores := NMap.mapV s.cores fun c => { c with mv0 := c.mv0.acked x.covered, mv1 := c.mv1.acked x.covered } }
  let s := s.putHost port { x with covered := x.waiting, waiting := [] }
  .next (if x.waiting.isEmpty then s else s.emit (.zeroRead port))

/-- An invalidation of a range of a slice's host addresses waits for the reads that used its entries; up to 32 wait (R426, R439). -/
def execAtsInvalidation (port tag slice addr len : Nat) (s : State) : Host.Outcome State Fault Refusal :=
  let x := s.host port
  if 2 ≤ port || 32 ≤ x.invals.length then .next s else
  let used := s.hostReads.filter fun r => r.port == port && r.slice == slice && decide (r.addr < addr + len) && decide (addr < r.addr + r.len)
  .next (if used.isEmpty then s.emit (.atsDone port tag)
    else s.putHost port { x with invals := x.invals ++ [(tag, used.map fun r => (r.id, r.addr))] })

/-- The TDI leaves CONFIG_LOCKED or RUN for ERROR (R444). -/
def State.tdiError (s : State) (port : Nat) : State :=
  let t := s.fld (aHpStatus port) 10 2
  if t = 1 ∨ t = 2 then s.setFld (aHpStatus port) 10 2 3 else s

/-- FLR of PF0: its configuration returns to its reset state and responses in its mailbox are discarded (R445). -/
def State.flr0 (s : State) (port : Nat) : State :=
  let x := s.host port
  let s := s.putHost port { x with cfg := List.filter (fun (e : Nat × W64) => !(decide (e.1 < 8) || (decide (0x10000 ≤ e.1) && decide (e.1 < 0x20000)))) x.cfg }
  let b := 0x100000 + 0x1000 * port
  (List.range 8).foldl (fun s i => s.setReg (b + 0x80 + 8 * i) 0) (s.setReg (b + 0x48) 0)

/-- FLR of PF1: the jobs of the port's slices end with reason 0x06; the TDI, moved to ERROR, returns to CONFIG_UNLOCKED
(R444, R445, R463). -/
def State.flr1 (s : State) (port : Nat) : State :=
  let s := (List.range 64).foldl (fun (s : State) sl => if s.exists? sl && s.portOf sl == port then s.jobEnd sl 6 0 else s) (s.tdiError port)
  s.setFld (aHpStatus port) 10 2 0

def execFlrPf0 (port : Nat) (s : State) : Host.Outcome State Fault Refusal := .next (if port < 2 then s.flr0 port else s)
def execFlrPf1 (port : Nat) (s : State) : Host.Outcome State Fault Refusal := .next (if port < 2 then s.flr1 port else s)

/-- Hot reset, link down or DPC at the host (R445). -/
def State.hostDown (s : State) (port : Nat) : State :=
  let s := if s.fld (aHpStatus port) 0 2 = 0 then s else s.putHost port { s.host port with down := s.time.toNat }
  ((s.setFld (aHpStatus port) 0 2 0).flr0 port).flr1 port
def execHostLinkDown (port : Nat) (s : State) : Host.Outcome State Fault Refusal := .next (if port < 2 then s.hostDown port else s)

/-- Training ends with a rate and width; a partner without FLIT mode leaves the link down, as does a failed management die (R16, R426). -/
def execHostLinkUp (port rate width : Nat) (flit : Bool) (s : State) : Host.Outcome State Fault Refusal :=
  if 2 ≤ port || 3 ≤ rate || 4 ≤ width || s.fld 0x100 (7 + port) 1 = 0 || s.phase = .off || s.phase = .delayed || [2, 7].contains (NMap.get 0 s.dieState (58 + port)) then .next s
  else if !flit then .next (s.flag (aHpErr port) 6)
  else .next (((s.setFld (aHpStatus port) 0 2 2).setFld (aHpStatus port) 2 2 rate).setFld (aHpStatus port) 4 3 width)

/-- Loss of a port's reference clock takes its link down (R568). -/
def execPcieRefclkLoss (port : Nat) (s : State) : Host.Outcome State Fault Refusal :=
  .next (if port < 2 then ((s.setFld 0x100 (7 + port) 1 0).flag 0x108 4).hostDown port else s)

/-- Ownership moves to the other local port, with a record and ALERT_N (R431). -/
def execOwnershipFailover (s : State) : Host.Outcome State Fault Refusal :=
  let o := s.fld aOwner 19 2
  if 2 ≤ o || s.fld aOwner 2 1 = 0 || s.fld (aHpStatus o) 0 2 ≠ 0 || s.fld (aHpStatus (1 - o)) 0 2 ≠ 2 || decide (s.time.toNat < (s.host o).down + 1000000000) then .next s
  else
    let (v, s) := (s.setFld aOwner 19 2 (1 - o)).freely 21
    .next ((s.record { sev := v % 7, block := 0, code := v / 8 % 2 ^ 16, die := s.actDie, unit := 1 - o }).alert)

/-- CFG_HP_STATUS.IDE after a stream changed (R451). -/
def State.ideState (s : State) (port : Nat) : State :=
  let on (i : Nat) : Bool := (NMap.get (0, false) (s.host port).streams i).1 == 1
  let sel := (List.range 4).any fun i => on (i + 1)
  s.setFld (aHpStatus port) 8 2 (if on 0 then (if sel then 3 else 1) else if sel then 2 else 0)

/-- Changes a stream; one that carries PF1 moves a locked TDI to ERROR (R443, R444). -/
def State.setStream (s : State) (port i st : Nat) (pf1 : Bool) : State :=
  let x := s.host port
  let old := NMap.get (0, false) x.streams i
  let s := if old.2 || pf1 then s.tdiError port else s
  (s.putHost port { s.host port with streams := NMap.put x.streams i (st, pf1) }).ideState port

/-- An integrity failure moves a stream to Insecure (R443). -/
def execIdeIntegrityFailure (port stream : Nat) (s : State) : Host.Outcome State Fault Refusal :=
  let x := NMap.get (0, false) (s.host port).streams stream
  .next (if 2 ≤ port ∨ x.1 ≠ 1 then s else (s.flag (aHpErr port) 7).setStream port stream 2 x.2)

/-- A TDISP request: 0 locks an unlocked interface, 1 starts a locked one, 2 stops it (R444; log 42). -/
def execTdispRequest (port start : Nat) (s : State) : Host.Outcome State Fault Refusal :=
  let t := s.fld (aHpStatus port) 10 2
  .next (if 2 ≤ port then s
    else if start = 0 ∧ t = 0 then s.setFld (aHpStatus port) 10 2 1
    else if start = 1 ∧ t = 1 then s.setFld (aHpStatus port) 10 2 2
    else if start = 2 then s.setFld (aHpStatus port) 10 2 0 else s)

end Sys2Proof.Machine
end

