-- ==== Sys2Proof/Machine/Mesh.lean ====
section
/-! DEFINITION. The panel mesh and Bugle: bridge links, route changes, broadcasts (spec 12). -/

namespace Sys2Proof.Machine

/-- The one number of a link of two facing edges. -/
def linkKey (d e l : Nat) : Nat := match facing d e with | some (d', e') => if d' < d then 8 * (4 * d' + e') + l else 8 * (4 * d + e) + l | none => 8 * (4 * d + e) + l
def State.blink (s : State) (d e l : Nat) : BLink := if (facing d e).isNone then { BLink.init with mode := 0 } else (NMap.find? s.mesh.links (linkKey d e l)).getD BLink.init

/-- Changes a register field of a link at the windows of its two ends (R361, R372). -/
def State.atEnds (s : State) (d e : Nat) (f : State → Nat → Nat → State) : State :=
  let one (s : State) (d e : Nat) : State := match s.windowOf d with | some w => f s w e | none => s
  match facing d e with | some (d', e') => one (one s d e) d' e' | none => s

/-- Puts a link in place and shows it in NET_EDGE_STATUS. -/
def State.putLink (s : State) (d e l : Nat) (x : BLink) : State :=
  ({ s with mesh := { s.mesh with links := NMap.put s.mesh.links (linkKey d e l) x } }).atEnds d e fun s w e =>
    (s.setFld (aDie w (8 + 8 * e)) (8 * l) 2 x.mode).setFld (aDie w (8 + 8 * e)) (8 * l + 2) 3 x.spares

/-- A link takes no new flit and tests its lanes; one that retrains or faces no die is left alone (R356, R361). -/
def State.startRetrain (s : State) (d e l : Nat) : State :=
  let x := s.blink d e l
  if 8 ≤ l || (facing d e).isNone || x.mode = 3 then s else s.putLink d e l { x with mode := 3, was := x.mode }

/-- A record of a bridge link; its event code where the spec gives none is a free value (R546; log 20). -/
def State.netRec (s : State) (d unit sev detail : Nat) : State :=
  let (v, s) := s.freely 20
  s.record { sev := sev, block := 7, code := v % 2 ^ 16, die := d, unit := unit, detail := detail }

/-- A replay on a link: counted at both ends; more than 1,024 in 1 ms start a retrain (R354, R355). -/
def execBridgeReplay (die edge link : Nat) (s : State) : Host.Outcome State Fault Refusal :=
  let x := s.blink die edge link
  if 8 ≤ link || (facing die edge).isNone || x.mode = 0 then .next s else
  let rs := s.time.toNat :: x.replays.filter fun t => decide (s.time.toNat < t + 1000000)
  let s := (s.putLink die edge link { x with replays := rs }).atEnds die edge fun s w e => s.satInc (aDie w (0x30 + 8 * e)) (8 * link) 8
  let s := s.netRec die link 0 0
  .next (if 1024 < rs.length then s.startRetrain die edge link else s)

/-- Link assignment entries of an edge (R339). -/
def homeTable : List Nat := (List.range 256).map (· % 8)
def State.table (s : State) (d e : Nat) : List Nat := (NMap.find? s.mesh.tables (4 * d + e)).getD homeTable

/-- Deals entries out in ascending order, each to the link in service that holds fewest, ties to the lowest (R358). -/
def dealOut (links : List Nat) (t : List Nat) (is : List Nat) : List Nat :=
  is.foldl (fun t i => match links with
    | [] => t
    | a :: r => t.set i (r.foldl (fun b l => if t.count l < t.count b then l else b) a)) t

/-- The table of an edge after a link went from mode `was` to `now`: entries leave a narrowed link, its own return to a wider one
(R358). -/
def State.moveEntries (s : State) (d e l was now : Nat) : State :=
  let t := s.table d e
  let links := (List.range 8).filter fun k => k != l && decide ((s.blink d e k).mode = 1 ∨ (s.blink d e k).mode = 2)
  let own := (List.range 256).filter fun i => t.getD i 8 == l
  let home := (List.range 256).filter fun i => i % 8 == l && t.getD i 8 != l
  let t' := if now < was then dealOut links t (if now = 0 then own else own.drop (own.length - own.length / 2))
    else (if now = 2 then home else home.take (16 - own.length)).foldl (fun t i => t.set i l) t
  if t' = t then s else
  let m := s.mesh
  let s : State := { s with mesh := { m with tables := NMap.put m.tables (4 * d + e) t', moving := if m.moving.contains (4 * d + e) then m.moving else (4 * d + e) :: m.moving } }
  match facing d e with
  | some (d', _) => s.send (.linkctl (bugleTo 0x17 (posOf d) (posOf d')) false)
  | none => s

/-- A die without a link in service on any edge (R360). -/
def State.dieCut (s : State) (d : Nat) : Bool :=
  (List.range 4).all fun e => (facing d e).isNone || (List.range 8).all fun l => (s.blink d e l).mode == 0

/-- Queues of an engine fail: their items are lost and the waiting operations end with status 0x07 (R550). -/
def State.failQueues (s : State) (p : Nat → Bool) : State :=
  (List.range 512).foldl (fun (s : State) q =>
    if !s.qEn q || !p (s.fld (aCq q 0) 7 7) then s else
    let x := s.queue q
    let s := (s.putQueue q { x with items := [], marks := Queue.init.marks, waits := [] }).flow q
    x.waits.foldl (fun s w => s.qDone w 7 []) (s.flag (aCq q 0x20) 2)) s

/-- A write of NET_LINK_CTRL (R361). -/
def State.linkCtrl (s : State) (w value : Nat) : State :=
  (List.range 32).foldl (fun s i => if bit value i then s.startRetrain (s.dieOfWindow w) (i / 8) (i % 8) else s) s
def execNetLinkCtrlRetrain (host w value : Nat) (s : State) : Host.Outcome State Fault Refusal :=
  .next (if w < 56 then s.mgrWrite host (aDie w 0x28) fun s => s.linkCtrl w value else s)

/-- The other end's flit number has arrived, or a die reports drained (R342, R358). -/
def execLinkctl (b : Bugle) (drained : Bool) (s : State) : Host.Outcome State Fault Refusal :=
  .next (s.bugleIn 0x17 b (.linkctl b drained) fun s =>
    let d := if b.src < 54 then dieAt (b.src % 6) (b.src / 6) else b.src
    let m := s.mesh
    if drained then { s with mesh := { m with drained := if m.drained.contains d then m.drained else d :: m.drained } }
    else { s with mesh := { m with moving := m.moving.filter fun k => k / 4 != d } })

/-- The grid position from which a die is reached: its own, or for a port or management die the nearest abutting grid position (R15, R340). -/
def towards (dst c r : Nat) : Nat × Nat :=
  if dst < 54 then (posOf dst % 6, posOf dst / 6)
  else if dst < 58 then (if dst < 56 then 0 else 5, if dst % 2 = 0 then min r 3 else max r 5)
  else (min (max c 2) 3, if dst = 58 then 0 else 8)

/-- The exit of a die towards another by the routes of the management firmware: along the row, then along the column (R340; log 43). -/
def defaultMesh (d dst : Nat) : Nat :=
  let home : Nat × Nat := if d < 54 then (posOf d % 6, posOf d / 6) else towards d (posOf dst % 6) (if dst < 54 then posOf dst / 6 else if dst < 58 then (if dst % 2 = 0 then 3 else 5) else if dst = 58 then 0 else 8)
  if d < 54 then
    let t := towards dst home.1 home.2
    if home.1 < t.1 then 1 else if t.1 < home.1 then 3 else if home.2 < t.2 then 2 else if t.2 < home.2 then 0
    else if dst < 56 then 3 else if dst < 58 then 1 else if dst = 58 then 0 else 2
  else if d < 58 then (if d % 2 = 0 then home.2 else home.2 - 5)
  else home.1 - 2

/-- The exit that a set of routes gives. -/
def meshExit (t : NMap Nat) (d dst : Nat) : Nat := (NMap.find? t (64 * d + dst)).getD (defaultMesh d dst)
def bugleExit (t : NMap (Nat × Nat)) (alt : Bool) (d dst : Nat) : Nat :=
  match NMap.find? t (64 * d + dst) with | some x => if alt then x.2 else x.1 | none => defaultMesh d dst

/-- The bridges of a route, as die and edge; none where it leaves by an edge that faces no die. -/
def walk (next : Nat → Nat) (dst : Nat) : Nat → Nat → List (Nat × Nat) → Option (List (Nat × Nat))
  | 0, _, acc => some acc
  | n + 1, d, acc => if d = dst then some acc else match facing d (next d) with
    | some (d', _) => walk next dst n d' (acc ++ [(d, next d)])
    | none => none

/-- Whether a dependency graph is acyclic: edges that nothing depends on further leave until none is left. -/
def acyclic : Nat → List ((Nat × Nat) × (Nat × Nat)) → Bool
  | 0, g => g.isEmpty
  | n + 1, g =>
    let g' := g.filter fun x => g.any fun y => y.1 == x.2
    if g'.isEmpty then true else if g'.length = g.length then false else acyclic n g'

/-- Dies that have an endpoint: neither in transit nor removed (R362). -/
def State.endpoints (s : State) : List Nat := (List.range 60).filter fun d => NMap.get 0 s.dieState d == 0 || NMap.get 0 s.dieState d == 4 || NMap.get 0 s.dieState d == 6

/-- The first rule of R341 that mesh routes break, by its row; Bugle routes join the dies that have not been removed (R364). -/
def State.routesBad (s : State) (r : MeshRoutes) : Option Nat :=
  let t : NMap Nat := r.mesh.foldl (fun m x => NMap.put m (64 * x.1 + x.2.1) x.2.2) []
  let bt : NMap (Nat × Nat) := r.bugle.foldl (fun m x => NMap.put m (64 * x.1 + x.2.1) x.2.2) []
  let ends := s.endpoints
  let pairs := ends.flatMap fun a => (ends.filter (· != a)).map fun b => (a, b)
  let paths := pairs.map fun p => walk (fun d => meshExit t d p.2) p.2 64 p.1 []
  let deps := (paths.flatMap fun p => match p with | some l => l.zip (l.drop 1) | none => []).eraseDups
  let on := (List.range 60).filter fun d => NMap.get 0 s.dieState d != 7
  let bugle (alt : Bool) := on.all fun a => on.all fun b => match walk (fun d => bugleExit bt alt d b) b 16 a [] with | some l => decide (l.length ≤ 15) | none => false
  if !acyclic 256 deps then some 1
  else if paths.any fun p => match p with | some l => decide (16 < l.length) | none => false then some 2
  else if paths.any Option.isNone then some 3
  else if paths.any fun p => match p with | some l => l.any fun x => (List.range 8).all fun k => (s.blink x.1 x.2 k).mode == 0 | none => false then some 4
  else if !bugle false || (!bt.isEmpty && !bugle true) then some 5
  else if bt.any fun (x : Nat × (Nat × Nat)) => x.2.1 == x.2.2 then some 6
  else none

/-- COMMIT with the next epoch and an instant at least 1 µs later goes to every die (R370, R540). -/
def State.sendCommit (s : State) (c : Commit) : State :=
  let (v, s) := s.freely 43
  let c := { c with instant := s.time.toNat + 1000 + v, sent := true }
  (List.range 60).foldl (fun (s : State) d => s.send (.commitMsg (bugleTo 1 s.actDie 63) d c.epoch c.instant)) { s with commit := some c }

/-- A commit is under way: COMMIT is sent, or the mesh is quiesced first where it changes routes; a repair runs the nodes in blocking mode
(R342, R359, R540). -/
def State.beginCommit (s : State) (c : Commit) : State :=
  let s : State := { s with commit := some c }
  if c.routes.isNone then s.sendCommit c else
  let s := s.send (.quiesce (bugleTo 3 s.actDie 63) true)
  if c.repair then (s.setFld (aNet 0) 0 2 2).send (.modeMsg (bugleTo 4 s.actDie 63) true) else s

/-- The epoch of the next commit. -/
def State.nextEpoch (s : State) : Nat := (s.fld aCommitStatus 32 32 + 1) % 2 ^ 32

/-- A repair commit is requested: it waits while another commit is under way or being checked (R543). -/
def State.requestRepair (s : State) (c : Commit) : State :=
  if s.commit.isSome || s.fld aCommitStatus 0 2 = 1 then { s with repairs := s.repairs ++ [c] } else s.beginCommit { c with epoch := s.nextEpoch }

/-- Whether all 8 links of some edge between two dies are down (R359). -/
def State.edgeDown (s : State) : Bool :=
  (List.range 60).any fun d => (List.range 4).any fun e => (facing d e).isSome && (List.range 8).all fun l => (s.blink d e l).mode == 0

/-- An edge without links: routes that avoid it are committed under quiesce, or the module resets where none meet R341 (R359). -/
def execRouteRepair (routes : Option MeshRoutes) (s : State) : Host.Outcome State Fault Refusal :=
  if s.fld (aNet 0) 0 2 ≠ 0 || !s.edgeDown then .next s else
  match routes with
  | none => .next (s.moduleReset 2)
  | some r => .next (if (s.routesBad r).isSome then s.moduleReset 2
      else s.requestRepair { epoch := 0, instant := 0, repair := true, routes := some r, moves := [], mask := none, sent := false })

/-- Interfaces stop injecting requests, or start again (R342). -/
def State.inject (s : State) : State :=
  let s := s.setFld (aNet 0) 0 2 0
  s.mesh.held.foldl (fun s i => s.send i) { s with mesh := { s.mesh with held := [], drained := [] } }
def execQuiesce (b : Bugle) (start : Bool) (s : State) : Host.Outcome State Fault Refusal :=
  .next (s.bugleIn 3 b (.quiesce b start) fun s =>
    if !start then (if s.commit.isSome then s else s.inject)
    else
      let s : State := { s with mesh := { s.mesh with drained := [] } }
      if s.fld (aNet 0) 0 2 = 0 then s.setFld (aNet 0) 0 2 1 else s)

/-- Whether a message crosses the seam link between the halves of a die (R273, R337). -/
def onSeam (i : Instr) : Bool := match msgEnds i with | some (_, .half a _, .half b _) => a / 2 == b / 2 | _ => false

/-- Whether a message is a packet of the mesh. -/
def onMesh (i : Instr) : Bool := !onSeam i && (chanOf i).isSome

/-- Every die has reported drained and no packet is in the mesh: the commit instant is set (R342). -/
def execMeshDrained (s : State) : Host.Outcome State Fault Refusal :=
  match s.commit with
  | none => .next s
  | some c =>
    let all := (List.range 60).all fun d => NMap.get 0 s.dieState d == 7 || s.mesh.drained.contains d
    .next (if s.fld (aNet 0) 0 2 = 0 || c.sent || !all || s.flight.net.any onMesh then s else s.sendCommit c)

/-- A drain has exceeded 1 ms (R342). -/
def execQslow (s : State) : Host.Outcome State Fault Refusal :=
  match s.commit with
  | some c => .next (if s.fld (aNet 0) 0 2 = 0 || c.sent then s else (s.flag (aNet 0x20) 2).moduleReset 2)
  | none => .next s

/-- A branch that has waited 4 µs is freed: counted, and its source is told the target. Only branches of REQ are converted: the rows that a
half's Vetch engine delivers before its completion (R173, R352, R353). -/
def execMulticastConversion (src dst : Nat) (s : State) : Host.Outcome State Fault Refusal :=
  .next (if s.fld (aNet 0) 0 2 ≠ 0 || (s.vetchOf src).done.isNone then s else (s.satInc (aNet 8) 0 32).send (.conversionNotice src dst))

/-- The source sends the packet again to the target of the notice; the target then counts (R352). -/
def execConversionNotice (src dst : Nat) (s : State) : Host.Outcome State Fault Refusal := .next (s.onNet (.conversionNotice src dst) fun s => s)

/-- A die receives epoch and instant; one that has passed resets the module (R370). -/
def execCommitMsg (b : Bugle) (die epoch instant : Nat) (s : State) : Host.Outcome State Fault Refusal :=
  .next (s.bugleIn 1 b (.commitMsg b die epoch instant) fun s =>
    if instant < s.time.toNat then (s.flag (aNet 0x20) 3).moduleReset 2 else s)

/-- A die slews towards the broadcast time plus the delay of its route, which was measured at training, by at most 1 ns (R371; log 44). -/
def execTimeMsg (b : Bugle) (die value : Nat) (s : State) : Host.Outcome State Fault Refusal :=
  .next (s.bugleIn 2 b (.timeMsg b die value) fun s =>
    if 60 ≤ die then s else
    let k := NMap.get 0 s.mesh.skew die
    let err : Int := ((value + Config.freeValue 44 die : Nat) : Int) - ((s.time.toNat : Int) + k)
    let k := k + (if 0 < err then 1 else if err < 0 then -1 else 0)
    let skew := NMap.set 0 s.mesh.skew die k
    let all := (List.range 60).map fun d => NMap.get 0 skew d
    let hi := all.foldl max 0
    let lo := all.foldl min 0
    ({ s with mesh := { s.mesh with skew := skew } }).setFld (aNet 0x18) 0 8 (min (hi - lo).toNat 255))

/-- Every ordering lane stops granting, to switch regime (R323). -/
def execModeMsg (b : Bugle) (blocking : Bool) (s : State) : Host.Outcome State Fault Refusal :=
  .next (s.bugleIn 4 b (.modeMsg b blocking) fun s =>
    (List.range 18).foldl (fun (s : State) n => (s.putNode n { s.node n with next := blocking.toNat }).setFld (aCoh n 0) 0 2 2) s)

/-- Halves are declared lost: the homes cancel and scan, the queues and Vetch commands of their engines are lost (R324, R550). -/
def execLost (b : Bugle) (halves : List Nat) (s : State) : Host.Outcome State Fault Refusal :=
  .next (s.bugleIn 5 b (.lost b halves) fun s =>
    let s := (s.loseHalves halves).failQueues fun e => halves.contains e
    halves.foldl (fun (s : State) h => s.putVetch h { s.vetchOf h with done := none }) s)

/-- Poisons sectors of the payload of a message that carries a line. -/
def poisonPayload (line : Nat) (mask : BitVec 4) (i : Instr) : Instr :=
  let bad (d : LineData) : LineData := { d with poison := d.poison ||| mask }
  match i with
  | .dataMsg m => if m.line = line then .dataMsg { m with data := bad m.data } else i
  | .putm q d => if q.line = line then .putm q (bad d) else i
  | .wbdata f k d => if f.line = line then .wbdata f k (bad d) else i
  | i => i

/-- What a unit does about an error that it has found in itself (R331, R363, R392, R425; log 68): flags and counts; a payload goes on with a
poison mark; a line of the far buffer is poisoned in memory and its entry becomes U; route tables, headers and directory entries are shared
machinery (R299). -/
def State.errFound (s : State) : ErrFound → State
  | .nothing => s
  | .flitCe => (s.flag (aNet 0x20) 0).satInc (aNet 0x28) 0 32
  | .flitUe line mask =>
    ({ s with flight := { s.flight with net := s.flight.net.map (poisonPayload line mask) } }.flag (aNet 0x20) 1).satInc (aNet 0x28) 32 16
  | .route => s.moduleReset 2
  | .dirCe n => if 18 ≤ n then s else (s.flag (aCoh n 0x40) 0).satInc (aCoh n 0x48) 0 32
  | .dirUe n => if 18 ≤ n then s else s.moduleReset 2
  | .farUe n line =>
    if !(s.node n).far.contains line then s else
    let s := (s.farFree n line).poisonLine n line
    (s.flag (aCoh n 0x40) 1).satInc (aCoh n 0x48) 32 16
  | .queueCe q => if q < 512 ∧ s.qEn q = true then s.qCorrected q else s
  | .queueUe q no => if q < 512 ∧ s.qEn q = true then s.qPoison q no else s
  | .fecCe p => if p < 16 then s.satInc (aPort p 0x10) 0 24 else s

/-- A die's error report, with what it found, reaches the acting management die, which writes an error record (R546). -/
def execErrMsg (b : Bugle) (r : ErrReport) (s : State) : Host.Outcome State Fault Refusal :=
  .next (s.bugleIn 0x20 b (.errMsg b r) fun s =>
    (s.record { sev := r.sev % 8, block := r.block % 16, code := r.code % 2 ^ 16, die := r.die, unit := r.unit, slice := r.slice.map (· % 64), pa := r.pa, detail := r.detail }).errFound r.found)

/-- A Bugle link is taken down; messages take their alternate exits; a die without a route resets the module (R369). -/
def execBugleLinkDown (die edge : Nat) (s : State) : Host.Outcome State Fault Refusal :=
  match facing die edge with
  | none => .next s
  | some (d', e') =>
    let key (d e : Nat) : Nat := match facing d e with | some (x, y) => min (4 * d + e) (4 * x + y) | none => 4 * d + e
    let s := ({ s with mesh := { s.mesh with bugleDown := if s.mesh.bugleDown.contains (key die edge) then s.mesh.bugleDown else key die edge :: s.mesh.bugleDown } }).flag (aNet 0x20) 4
    let cut (d : Nat) : Bool := (List.range 4).all fun e => (facing d e).isNone || s.mesh.bugleDown.contains (key d e)
    .next (if e' < 4 && (cut die || cut d') then s.moduleReset 2 else s)

end Sys2Proof.Machine
end

