-- ==== Sys2Proof/Machine/Sched.lean ====
section
/-! DEFINITION. Jobs, kernels, tasks and blocks (spec 2, 6, 16). -/

namespace Sys2Proof.Machine

/-- The manager starts or ends a job (R462, R463). -/
def execSlcCtrlStart (host slice : Nat) (s : State) : Host.Outcome State Fault Refusal :=
  .next (s.mgrWrite host (aSlc slice 0x48) fun s => s.jobStart slice)
def execSlcCtrlStop (host slice : Nat) (s : State) : Host.Outcome State Fault Refusal :=
  .next (s.mgrWrite host (aSlc slice 0x48) fun s => s.jobEnd slice 3 0)

/-- The tenant starts or ends its job (R462, R463). -/
def execSlcSJobctlStart (port : Nat) (pasid : Option Nat) (s : State) : Host.Outcome State Fault Refusal :=
  .next (s.tenant port pasid fun slice s => s.jobStart slice)
def execSlcSJobctlEnd (port : Nat) (pasid : Option Nat) (s : State) : Host.Outcome State Fault Refusal :=
  .next (s.tenant port pasid fun slice s => s.jobEnd slice 2 0)

/-- A doorbell value reaches the coordinator (R435, R466). -/
def execDoorbell (b : Bugle) (slice stream value : Nat) (s : State) : Host.Outcome State Fault Refusal :=
  .next (s.bugleIn 0x13 b (.doorbell b slice stream value) fun s =>
    let x := s.slice slice
    if s.jobOf slice ≠ 1 then s
    else s.putSlice slice { x with bells := x.bells.erase (stream, BitVec.ofNat 64 value), launch := x.launch ++ [(stream, BitVec.ofNat 64 value)] })

/-- The ends of the reads of a range of host memory; a byte that the host does not name is refused (log 55). -/
def hostEnds (fromHost : List (Nat × HostByte)) (a n : Nat) : List HostByte := (List.range n).map fun i => (fromHost.lookup (a + i)).getD (.refused false)

/-- The bytes at an address of host memory; none where the host refuses one (R438, R439). -/
def hostBytes (fromHost : List (Nat × HostByte)) (a n : Nat) : Option (List Byte) :=
  (hostEnds fromHost a n).mapM fun e => match e with | .ok b => some b | .poisoned _ => some 0 | .refused _ => none

/-- A read of host memory by a dispatcher or the coordinator: its bytes and whether they are poisoned, with the flags of its port (R439,
R440). -/
def State.hostFetch (s : State) (fromHost : List (Nat × HostByte)) (port a n : Nat) : State × Option (List Byte × Bool) :=
  let es := hostEnds fromHost a n
  let s := if es.any fun e => e == .refused true then s.flag (aHpErr port) 4 else s
  let s := if es.any fun e => e == .refused false || e == .poisoned false then s.flag (aHpErr port) 3 else s
  let s := if es.contains (.poisoned true) then (s.flag (aHpErr port) 2).satInc (aHpCnt port) 32 16 else s
  (s, (hostBytes fromHost a n).map fun bs => (bs, es.any fun e => match e with | .poisoned _ => true | _ => false))

/-- Reads bytes of a slice's pages with acquire semantics; none where a page is missing or the host refuses. An address that no memory
backs reads as ones (R285). -/
def State.readPages (s : State) (sl : Nat) (fromHost : List (Nat × HostByte)) : List (Nat × Nat) → State × Option (List Byte × Bool)
  | [] => (s, some ([], false))
  | (a, n) :: r =>
    let x : State × Option (List Byte × Bool) := match s.translate sl a with
      | some (.mem pa _) =>
        if (s.place pa).isNone && !isScratch (pa / 128) then (s.unbackedAt pa, some (List.replicate n 255, false))
        else let x := s.engRead (some (sl, 6)) pa n; (x.1, some x.2)
      | some (.host port ha _) => s.hostFetch fromHost port ha n
      | none => (s, none)
    match x with
    | (s, none) => (s, none)
    | (s, some h) => match s.readPages sl fromHost r with
      | (s, some (bs, p)) => (s, some (h.1 ++ bs, h.2 || p))
      | (s, none) => (s, none)
def State.readVa (s : State) (sl : Nat) (fromHost : List (Nat × HostByte)) (a n : Nat) : State × Option (List Byte × Bool) := s.readPages sl fromHost (cutBy (n / 65536 + 2) 65536 a n)

/-- Whether a graph header is valid on its own (R467). -/
def graphOk (h : BitVec 512) : Bool :=
  hfld h 26 38 == 0 && hfld h 112 16 == 0 && hfld h 240 272 == 0 && hfld h 22 2 != 3

/-- Whether a task header is valid: reserved fields, WIN with BOUND (R467). -/
def headerOk (h : BitVec 512) : Bool :=
  hfld h 58 6 == 0 && hfld h 120 8 == 0 && hfld h 156 4 == 0 && hfld h 300 212 == 0 && !(hfld h 144 1 == 1 && hfld h 160 32 == 0)

/-- A task that has not started. -/
def Task.fresh (h : BitVec 512) (ins : List Nat) : Task :=
  { hdr := h, inputs := ins, st := .waiting, no := 0, started := 0, retired := [], begun := none, effect := false, deferred := false, dies := [], lost := none }

/-- The tasks of a graph; 0 invalid, 1 a declaration outside R28 (R466, R467). -/
def State.readTasks (s : State) (sl : Nat) (fromHost : List (Nat × HostByte)) (g n : Nat) : Nat → State × (List Task ⊕ Nat)
  | 0 => (s, .inl [])
  | k + 1 =>
    match s.readTasks sl fromHost g n k with
    | (s, .inr e) => (s, .inr e)
    | (s, .inl ts) =>
      match s.readVa sl fromHost (g + 64 * (1 + k)) 64 with
      | (s, none) => (s, .inr 0)
      | (s, some (bs, _)) =>
        let h : BitVec 512 := BitVec.ofNat 512 (leNat bs)
        let nin := hfld h 272 12
        match s.readVa sl fromHost (g + 64 * (n + 1) + 2 * hfld h 284 16) (2 * nin) with
        | (s, none) => (s, .inr 0)
        | (s, some (tb, _)) =>
          let ins := (List.range nin).map fun i => leNat ((tb.drop (2 * i)).take 2)
          if !headerOk h || ins.any fun i => decide (k ≤ i) then (s, .inr 0)
          else if 128 < hfld h 112 8 then (s, .inr 1)
          else (s, .inl (ts ++ [Task.fresh h ins]))

/-- The next launch value of a stream: a doorbell's, or words 1:0 of the launch queue's next item (R466). -/
def State.nextLaunch (s : State) (sl stream : Nat) : State × Option Nat :=
  let x := s.slice sl
  if stream = 16 then
    if s.fld (aSlc sl 0) 46 1 = 0 then (s, none) else
    match s.popCmd (s.fld (aSlc sl 0) 47 9) with
    | (s, some (w, _)) => (s, some (ifld w 0 64))
    | (s, none) => (s, none)
  else match x.launch.find? fun l => l.1 == stream with
    | some l => (s.putSlice sl { x with launch := x.launch.erase l }, some l.2.toNat)
    | none => (s, none)

/-- A launched kernel starts after the previous one of its stream; its whole graph is checked first (R466, R467). -/
def execKernelStart (slice stream : Nat) (fromHost : List (Nat × HostByte)) (s : State) : Host.Outcome State Fault Refusal :=
  let x := s.slice slice
  if s.jobOf slice ≠ 1 || 16 < stream || x.kernels.any (fun k => k.stream == stream || !k.swapped) then .next s else
  match s.nextLaunch slice stream with
  | (s, none) => .next s
  | (s, some v) =>
    let bad (s : State) : State := s.jobEnd slice 9 0
    if v % 64 ≠ 0 ∨ 2 ^ 48 ≤ v then .next (bad s) else
    match s.readVa slice fromHost v 64 with
    | (s, none) => .next (bad s)
    | (s, some (bs, p)) =>
      let h : BitVec 512 := BitVec.ofNat 512 (leNat bs)
      let n := hfld h 0 12 + 1
      if p then .next (s.engineFault slice 1 8 0 0 v) else
      if !graphOk h || (hfld h 25 1 == 1 && !s.inScratch slice 0 (hfld h 128 32)) then .next (bad s) else
      match s.readTasks slice fromHost v n n with
      | (s, .inr 1) => .next (s.engineFault slice 1 0x0B 0 0 0)
      | (s, .inr _) => .next (bad s)
      | (s, .inl ts) =>
        let y := s.slice slice
        let swap := hfld h 25 1 == 1 && (match y.model with | some m => m.1 != hfld h 192 16 | none => true)
        .next (s.putSlice slice { y with kernels := y.kernels ++ [{ stream := stream, graph := v, hdr := h, tasks := ts, swapped := !swap }] })

/-- Copies between scratch and the slice's pages, piece by piece; poison goes with the sectors that are loaded. -/
def State.copyOut (s : State) (sl va n : Nat) : State :=
  (cutBy (n / 4096 + 2) 4096 0 n).foldl (fun (s : State) c =>
    let r := s.scratchRead sl c.1 c.2
    match r.1.translate sl (va + c.1) with
    | some (.mem pa p) => r.1.engWrite (some (sl, p.cls)) pa r.2.1
    | some (.host port a _) => (r.1.hostWrite port sl a r.2.1).1
    | none => r.1) s
def State.copyIn (s : State) (sl : Nat) (fromHost : List (Nat × HostByte)) (va n : Nat) : State :=
  (cutBy (n / 32 + 2) 32 0 n).foldl (fun (s : State) c =>
    let r : State × List Byte × Bool := match s.translate sl (va + c.1) with
      | some (.mem pa p) => s.engRead (some (sl, p.cls)) pa c.2
      | some (.host port a _) => let h := s.hostFetch fromHost port a c.2; (h.1, h.2.getD ([], false))
      | none => (s, [], false)
    let t := r.1.scratchWrite sl c.1 r.2.1
    if !r.2.2 then t else match t.scratchPa sl c.1 with | some pa => t.setPoison (pa / 32) true | none => t) s

/-- Whether a slice maps a range: for a read the host returns the bytes of its host pages, for a write no page is read-only. -/
def State.mapsRange (s : State) (sl : Nat) (fromHost : Option (List (Nat × HostByte))) (va n : Nat) : Bool :=
  (cutBy (n / 4096 + 2) 4096 va n).all fun c => match s.translate sl c.1, fromHost with
    | some (.mem _ p), none | some (.host _ _ p), none => !p.ro
    | some (.mem _ _), some _ => true
    | some (.host _ a _), some h => (hostBytes h a c.2).isSome
    | none, _ => false

/-- The swap of a waiting kernel once it is the slice's only one: the old scratch is written back, the new image loaded (R478). -/
def execModelSwap (slice : Nat) (fromHost : List (Nat × HostByte)) (s : State) : Host.Outcome State Fault Refusal :=
  let x := s.slice slice
  match x.kernels with
  | [k] =>
    if k.swapped || s.sliceZeroing slice then .next s else
    let img := hfld k.hdr 64 48
    let ilen := hfld k.hdr 128 32
    let old := match x.model with | some (_, i, w) => (i, w) | none => (0, 0)
    let absent := (cutBy (old.2 / 4096 + 2) 4096 old.1 old.2).any fun c => (s.translate slice c.1).isNone
    if absent then .next (s.engineFault slice 1 6 0 0 old.1) else
    if !s.mapsRange slice none old.1 old.2 then .next (s.engineFault slice 1 7 0 0 old.1) else
    if !s.mapsRange slice (some fromHost) img ilen then .next (s.engineFault slice 1 6 0 0 img) else
    let s := (s.copyOut slice old.1 old.2).copyIn slice fromHost img ilen
    .next (s.putSlice slice { s.slice slice with model := some (hfld k.hdr 192 16, img, hfld k.hdr 160 32), kernels := [{ k with swapped := true }] })
  | _ => .next s

/-- The 32-byte word of a task's predicate and whether it is poisoned; none where its space has no such address (R162). -/
def State.predicateWord (s : State) (sl : Nat) (fromHost : List (Nat × HostByte)) (h : BitVec 512) : State × Option (List Byte × Bool) :=
  let a := hfld h 224 48
  if hfld h 146 1 = 1 then
    match s.scratchPa sl a with
    | some p => let r := s.engRead (some (sl, 6)) p 32; (r.1, some r.2)
    | none => (s, none)
  else s.readVa sl fromHost a 32

/-- The predicate of a task: whether it runs, or the fault of R164 (R162). -/
def State.taskPredicate (s : State) (sl : Nat) (fromHost : List (Nat × HostByte)) (h : BitVec 512) : State × (Bool ⊕ Nat) :=
  if hfld h 145 1 = 0 then (s, .inl true) else
  match s.predicateWord sl fromHost h with
  | (s, none) => (s, .inr 6)
  | (s, some (_, true)) => (s, .inr 8)
  | (s, some (bs, false)) => (s, .inl (bit (leNat bs) (hfld h 148 8) != (hfld h 147 1 == 1)))

/-- A task whose inputs are all complete: its predicate is read; it is skipped, or receives its number and is dispatched to the dies
whose clusters its slice names or holds (R162 to R164, R468, R469). -/
def execTaskReady (slice stream task : Nat) (fromHost : List (Nat × HostByte)) (s : State) : Host.Outcome State Fault Refusal :=
  match (s.slice slice).kernels.find? fun k => k.stream == stream with
  | none => .next s
  | some k =>
    match k.tasks[task]? with
    | none => .next s
    | some t =>
      let doneIn (i : Nat) : Bool := match k.tasks[i]? with | some u => decide (u.st = .done) || decide (u.st = .skipped) | none => false
      if !k.swapped || t.st ≠ .waiting || !(t.inputs.all doneIn) || (hfld t.hdr 145 2 == 3 && s.sliceZeroing slice) then .next s else
      let no := (s.slice slice).taskCtr
      let s := s.putSlice slice { s.slice slice with taskCtr := no + 1 }
      match s.taskPredicate slice fromHost t.hdr with
      | (s, .inr c) => .next (s.engineFault slice 1 c no.toNat 0 (hfld t.hdr 224 48))
      | (s, .inl false) => .next (((s.setTask slice stream task { t with st := .skipped, no := no }).incSreg slice 0xD018).kernelDone slice stream)
      | (s, .inl true) =>
        let s := (s.setTask slice stream task { t with st := .running, no := no }).becameReady slice
        .next ((List.range 32).foldl (fun (s : State) d =>
          if s.present d && (List.range 8).any fun j => s.usesCluster slice (8 * d + j) then
            s.send (.dispatch (bugleTo 0x14 s.actDie (posOf (s.sites.getD d 0))) d slice no.toNat false)
          else s) s)

/-- A die's dispatcher receives a task, or the order to pre-empt its blocks (R366, R469, R475). -/
def execDispatch (b : Bugle) (die slice no : Nat) (preempt : Bool) (s : State) : Host.Outcome State Fault Refusal :=
  .next (s.bugleIn 0x14 b (.dispatch b die slice no preempt) fun s =>
    if preempt then (List.range 8).foldl (fun s j => s.preempt (8 * die + j) fun x => x.slice == slice && x.taskNo == BitVec.ofNat 64 no) s
    else s.updTask slice (BitVec.ofNat 64 no) fun t => { t with dies := t.dies ++ [die] })

/-- The open window of a slice that covers a cluster and leaves a task its bound (R473). -/
def State.windowFor (s : State) (sl k bound : Nat) : Bool :=
  match s.winOf k with
  | some w => s.winSlice w == sl && decide (s.time.toNat + bound ≤ NMap.get 0 s.windows.opened w)
  | none => false

/-- The tasks of a slice that have blocks to start, in ascending instance number (R469). -/
def insertTask (t : Nat × Nat × Task) : List (Nat × Nat × Task) → List (Nat × Nat × Task)
  | [] => [t]
  | u :: r => if t.2.2.no.toNat ≤ u.2.2.no.toNat then t :: u :: r else u :: insertTask t r
def State.readyTasks (s : State) (sl : Nat) : List (Nat × Nat × Task) :=
  ((s.slice sl).kernels.flatMap fun k => (k.tasks.zipIdx.filter fun t => decide (t.1.st = .running) && t.1.lost.isNone && decide (t.1.started ≤ hfld t.1.hdr 128 16)).map fun t => (k.stream, t.2, t.1)).foldr insertTask []

/-- G, V and L of a task (R466). -/
def Task.decl (t : Task) : Nat × Nat × Nat := (hfld t.hdr 48 5 + 1, 8 * (hfld t.hdr 53 5 + 1), 2 * hfld t.hdr 112 8)

/-- Whether the next block of a task may start on a core: placement, its dispatcher has the task, the window rules (R469, R473). -/
def State.mayStart (s : State) (sl core : Nat) (t : Task) (winReady : Bool) : Bool :=
  let win := hfld t.hdr 144 1 == 1
  s.mayPlace sl core && t.dies.contains (core / 64) &&
  (if win then (if t.started = 0 then s.windowFor sl (core / 8) (hfld t.hdr 160 32) else (s.winOf (core / 8)).isSome)
   else (s.winOf (core / 8)).isNone || !winReady) &&
  (s.core core).fits t.decl.1 t.decl.2.1 t.decl.2.2

/-- Among the cores where a block fits, the one with fewest resident blocks, ties to the lowest number (R469). -/
def State.pickCore (s : State) (cores : List Nat) : Option Nat :=
  cores.foldl (fun b c => match b with
    | some d => if (s.core c).blocks.length < (s.core d).blocks.length then some c else some d
    | none => some c) none

/-- The block that a task starts next (R27, R30). -/
def State.newBlock (s : State) (sl stream i : Nat) (t : Task) : Block :=
  { slice := sl, gen := s.gen sl, stream := stream, task := i, taskNo := t.no, index := t.started, count := hfld t.hdr 128 16 + 1,
    g := t.decl.1, v := t.decl.2.1, l := t.decl.2.2, code := hfld t.hdr 0 48, args := hfld t.hdr 64 48, seed := BitVec.ofNat 32 (hfld t.hdr 192 32),
    loc := [], acc := [], arrive := [], async := 0, saving := false, charged := 0 }

/-- The slice's dispatchers start the next block of its first ready task; a windowed task for which no open window leaves time is
deferred and counted, and the next task is served (R469, R473). -/
def State.startFrom (s : State) (sl : Nat) (winReady : Bool) : List (Nat × Nat × Task) → State
  | [] => s
  | (stream, i, t) :: r =>
    let cores := (List.range 2048).filter fun c => s.mayStart sl c t winReady
    match s.pickCore cores with
    | some c =>
      let b := s.newBlock sl stream i t
      let rank := s.coreRank sl c
      let s := s.setTask sl stream i { t with started := t.started + 1, begun := some (t.begun.getD s.time.toNat), deferred := false }
      s.placeBlock c b fun bs => (List.range b.g).map fun g => startGroup bs g b rank
    | none =>
      if hfld t.hdr 144 1 = 1 ∧ t.started = 0 ∧ !((List.range 256).any fun k => s.windowFor sl k (hfld t.hdr 160 32)) then
        State.startFrom (if t.deferred then s else (s.setTask sl stream i { t with deferred := true }).incSreg sl 0xD030) sl winReady r
      else s

/-- BLOCK_START of a slice (R469). -/
def execBlockStart (slice : Nat) (s : State) : Host.Outcome State Fault Refusal :=
  if s.jobOf slice ≠ 1 then .next s else
  let ts := s.readyTasks slice
  .next (s.startFrom slice (ts.any fun t => hfld t.2.2.hdr 144 1 == 1) ts)

/-- The last block of a task has retired: the task completes; its kernel may (R468). -/
def State.taskDone (s : State) (sl : Nat) (no : W64) : State :=
  (s.slice sl).kernels.foldl (fun s k =>
    k.tasks.zipIdx.foldl (fun (s : State) t =>
      if t.1.no = no ∧ t.1.st = .running ∧ t.1.retired.length = hfld t.1.hdr 128 16 + 1 then
        ((s.setTask sl k.stream t.2 { t.1 with st := .done }).incSreg sl 0xD010).kernelDone sl k.stream
      else s) s) s

/-- Whether every group of a block has exited and every write of the block is performed, as its release at device scope asks: its stores and
contributions accepted, its atomics returned (R50, R194). A load whose result no lane takes holds nothing up. -/
def Core.groupsDone (c : Core) (block : Nat) : Bool :=
  (c.groups.all fun (g : Nat × Group) => g.2.block != block || (g.2.exited == allLanes && g.2.ops.all fun o => match o.dst with | .vec .. | .uni .. => true | _ => false)) &&
  c.sb.all fun e => e.block != block

/-- A block whose groups have all exited and whose asynchronous operations have completed retires and releases what it held; its
task, kernel and cluster follow (R50, R51, R468, R470). -/
def execBlockRetire (core block : Nat) (s : State) : Host.Outcome State Fault Refusal :=
  match NMap.find? (s.core core).blocks block with
  | none => .next s
  | some b =>
    if !((s.core core).groupsDone block) || b.async ≠ 0 then .next s else
    let s := s.chargeBlock core block b
    let c := s.core core
    let s := s.putCore core { c with blocks := NMap.del c.blocks block, groups := NMap.keepV c.groups fun g => g.block != block }
    let s := s.updTask b.slice b.taskNo fun t => { t with retired := b.index :: t.retired }
    let whole := (s.slice b.slice).kernels.any fun k => k.tasks.any fun t => t.no == b.taskNo && decide (t.st = .running) && t.retired.length == b.count
    let s := if whole then s.send (.doneBugle (bugleTo 0x15 (posOf (s.dieOfHalf (core / 32))) s.actDie) b.slice b.taskNo.toNat) else s
    .next ((s.taskDone b.slice b.taskNo).clusterServe (core / 8))

/-- The coordinator takes a die's report; the task completed when its last block retired (R366, R468). -/
def execDoneBugle (b : Bugle) (slice no : Nat) (s : State) : Host.Outcome State Fault Refusal :=
  .next (s.bugleIn 0x15 b (.doneBugle b slice no) fun s => s)

/-- An interrupt of a slice leaves by its port behind its host writes; one of an earlier generation is discarded and counted
(R437, R464). -/
def execIntrMsg (b : Bugle) (slice index gen : Nat) (s : State) : Host.Outcome State Fault Refusal :=
  .next (s.bugleIn 0x16 b (.intrMsg b slice index gen) fun s =>
    if gen ≠ s.gen slice then s.incSreg slice 0xD028 else s.emit (.msix (s.portOf slice) 1 (4 * slice + index % 4) 0))

/-- A task that has not completed within its bound ends the job with program fault 0x0C (R49, R474). -/
def execTaskOverrun (slice no : Nat) (s : State) : Host.Outcome State Fault Refusal :=
  let t := (s.slice slice).kernels.findSome? fun k => k.tasks.find? fun t => t.no == BitVec.ofNat 64 no && decide (t.st = .running) && t.begun.isSome
  match t with
  | none => .next s
  | some t =>
    let lim := hfld t.hdr 160 32 * (if hfld t.hdr 144 1 = 1 then 1 else s.fld (aSlc slice 0) 38 8)
    .next (if lim = 0 then s else s.engineFault slice 1 0x0C no 0 0)

/-- An uncorrectable error in a core, matrix unit or mover: the task's blocks stop and the task is replayed, or its job ends (R154,
R233, R548). -/
def execHardwareErrorInCore (core block : Nat) (s : State) : Host.Outcome State Fault Refusal :=
  match NMap.find? (s.core core).blocks block with
  | none => .next s
  | some b => .next (s.tryReplay b.slice b.taskNo (s.dieOfHalf (core / 32)))

end Sys2Proof.Machine
end

