-- ==== Sys2Proof/Machine/Window.lean ====
section
/-! DEFINITION. Shared clusters, reserved windows, and pre-emption with save and restore (R470 to R477). -/

namespace Sys2Proof.Machine

/-- QUANTUM has passed: where another naming slice has a ready block, the current slice's blocks start there no more (R470). -/
def execClusterQuantumExpiry (cluster : Nat) (s : State) : Host.Outcome State Fault Refusal :=
  let s := s.chargeAll
  let c := s.cluster cluster
  match c.cur with
  | some sl =>
    if (s.namers cluster).length < 2 || !((s.namers cluster).any fun t => t != sl && s.hasReady t) then .next s
    else .next ((s.putCluster cluster { c with stopped := true }).clusterServe cluster)
  | none => .next (s.clusterServe cluster)

/-- DRAIN has passed: blocks still resident are pre-empted mid-task, those of a paused slice too (R461, R470). -/
def execDrainExpiry (cluster : Nat) (s : State) : Host.Outcome State Fault Refusal :=
  let s := s.preempt cluster fun b => s.paused b.slice
  let c := s.cluster cluster
  if !c.stopped then .next s
  else .next ((s.preempt cluster fun b => c.cur == some b.slice).clusterServe cluster)

/-- A window cycle begins with the table that is in effect now (R471). -/
def execWindowCycleStart (s : State) : Host.Outcome State Fault Refusal :=
  let cfg := s.reg 0x240000
  if bits cfg 17 1 = 0 then .next { s with windows := { s.windows with table := [] } }
  else
    let table := (List.range 64).map fun w => if s.fld (0x240100 + 16 * w) 0 1 = 1 then (s.reg (0x240100 + 16 * w), s.reg (0x240108 + 16 * w)) else (0, 0)
    let s := s.setFld 0x240010 0 32 (s.fld 0x240010 0 32 + 1)
    .next { s with windows := { s.windows with table := table, cycus := bits cfg 0 17, origin := s.time.toNat / (1000 * max 1 (bits cfg 0 17)) * (1000 * bits cfg 0 17) } }

/-- Whether a window of the table is in force. -/
def State.winOn (s : State) (w : Nat) : Bool := bit (s.windows.table.getD w (0, 0)).1 0

/-- Changes the clusters of a window. -/
def State.overWindow (s : State) (w : Nat) (f : State → Nat → State) : State := ((List.range 256).filter fun k => s.winHas w k && s.present (k / 8)).foldl f s

/-- GUARD before a window opens, blocks of other slices stop starting on its clusters (R472). -/
def execWindowGuard (w : Nat) (s : State) : Host.Outcome State Fault Refusal :=
  if !s.winOn w then .next s else .next (s.overWindow w fun s k => s.putCluster k { s.cluster k with guard := some w })

/-- A window opens: its slice holds its clusters; blocks of other slices are pre-empted mid-task, and LATE counts an opening that a
block which cannot be saved delays (R472, R475). -/
def execWindowOpen (w : Nat) (s : State) : Host.Outcome State Fault Refusal :=
  if !s.winOn w then .next s else
  let a := (s.windows.table.getD w (0, 0)).1
  let sl := s.winSlice w
  let s := s.chargeAll
  let s : State := { s with windows := { s.windows with opened := NMap.put s.windows.opened w (s.windows.origin + 1000 * (bits a 7 17 + bits a 24 17)) } }
  let s := s.putSlice sl { s.slice sl with kernels := (s.slice sl).kernels.map fun k => { k with tasks := k.tasks.map fun t => { t with deferred := false } } }
  let s := s.overWindow w fun s k => (s.putCluster k { s.cluster k with guard := none }).preempt k fun b => b.slice != sl
  let late := (List.range 256).any fun k => s.winHas w k && s.residentOn k fun b => b.slice != sl && !b.saving
  .next (if late then s.satInc 0x240010 32 16 else s)

/-- A window closes: its clusters return under sharing, and its slice's blocks are pre-empted where the slice no longer holds them
(R472). -/
def execWindowClose (w : Nat) (s : State) : Host.Outcome State Fault Refusal :=
  if (NMap.find? s.windows.opened w).isNone then .next s else
  let sl := s.winSlice w
  let s : State := { s.chargeAll with windows := { s.windows with opened := NMap.del s.windows.opened w } }
  .next (s.overWindow w fun s k =>
    let s := s.clusterServe k
    if s.holder k = some sl then s else s.preempt k fun b => b.slice == sl)

/-- Whether a mover operation waits for nothing but remote operations whose waits were abandoned (R475, R476). -/
def State.abandoned (s : State) (r : MvRun) : Bool :=
  r.err.isNone && !r.waits.isEmpty && r.waits.all fun i => s.remotes.any fun x => x.id == i && x.kept

/-- Such operations of a block leave their mover, where what is queued behind them may then start (R234). -/
def State.keepAbandoned (s : State) (core bs : Nat) : State :=
  let out (r : MvRun) : Bool := r.op.block == bs && s.abandoned r
  let go (v : Mover) : Mover := { v with run := v.run.filter fun r => !out r, kept := v.kept ++ v.run.filter out }
  let c := s.core core
  s.putCore core { c with mv0 := go c.mv0, mv1 := go c.mv1 }

/-- The kept operations of a block on a mover. -/
def Mover.keptOf (v : Mover) (bs : Nat) : List MvRun := v.kept.filter fun r => r.op.block == bs

/-- Whether a mover holds an operation of a block that must still complete (R234). -/
def Mover.holds (v : Mover) (bs : Nat) : Bool := (v.queue.any fun o => o.block == bs) || v.run.any fun r => r.op.block == bs

/-- Kept operations of a block resume on their movers: a queue transfer of this module goes first in its queue, to begin at its next
item; any other takes what has landed, its requests without an answer being sent again under their numbers (R234, R476). -/
def State.resumeMovers (s : State) (core : Nat) (ms : List (Nat × MvRun)) : State :=
  let isQ (r : MvRun) : Bool := dfld r.op.d 0 4 == 7 && r.waits.isEmpty
  let add (m : Nat) (w : Mover) : Mover :=
    let mine := (ms.filter fun x => x.1 == m).map (·.2)
    { w with queue := (mine.filter isQ).map (·.op) ++ w.queue, run := w.run ++ mine.filter fun r => !isQ r }
  let c := s.core core
  s.putCore core { c with mv0 := add 0 c.mv0, mv1 := add 1 c.mv1 }

/-- Abandoned remote operations go on: what has landed is taken, the others are sent again under their numbers (R476). -/
def State.resumeRemotes (s : State) (core sl : Nat) (mine : List Remote) : State :=
  let s : State := { s with remotes := s.remotes.map fun r => (mine.find? fun x => x.id == r.id).getD r }
  let s := mine.foldl (fun (s : State) r => match r.answer with
    | some (st, bytes) => s.remoteDone r st bytes
    | none => { s.remoteAgain (core / 64) r with remotes := (s.remotes.map fun x => if x.id = r.id then { x with since := s.time.toNat } else x) }) s
  if s.remotes.any fun r => r.slice == sl && r.kept then s else s.putSlice sl { s.slice sl with landed := 0 }

/-- A wait of a path on another module that is over for the save: abandoned (R476). -/
def State.pathsKept (s : State) (core bs : Nat) : Bool :=
  s.remotes.all fun r => match r.kind with
    | .push c slot => c != core || (match NMap.find? (s.core c).groups slot with | some g => g.block != bs | none => true) || r.kept
    | _ => true

/-- Whether everything that a saved block must wait for is over (R155, R194, R234, R475): its matrix and mover operations but the
abandoned ones, its loads and atomics, its stores in the core's buffer, its waits on other modules. -/
def State.saveReady (s : State) (core block : Nat) : Bool :=
  let c := s.core core
  !((c.mxq.any fun o => o.block == block) || (c.mxaRun.any fun r => r.op.block == block) || (c.mxwRun.any fun r => r.op.block == block) ||
    (c.groups.any fun (g : Nat × Group) => g.2.block == block && !g.2.ops.isEmpty) || (c.sb.any fun e => e.block == block) ||
    c.mv0.holds block || c.mv1.holds block) && s.pathsKept core block

/-- The abandoned remote operations of a block of `core`, placed on the core and the slots where it goes on. -/
def State.remotesOf (s : State) (core : Nat) (groups : List (Nat × Group)) (movers : List (Nat × MvRun)) : List Remote :=
  let waitsOn (g : Group) (id : Nat) : Bool := (List.range 32).any fun e => match g.path? e with | some p => p.wait == .queue id | none => false
  (s.remotes.filter fun r => r.kept).filterMap fun r =>
    match r.kind with
    | .push _ _ => (groups.find? fun x => waitsOn x.2 r.id).map fun x => { r with kind := .push core x.1, kept := false }
    | .put _ m => if (movers.any fun x => x.2.waits.contains r.id) then some { r with kind := .put core m, kept := false } else none
    | .get _ m o l => if (movers.any fun x => x.2.waits.contains r.id) then some { r with kind := .get core m o l, kept := false } else none
    | .engine _ => none

/-- The context of a block is in the context area: its bytes there are free values, since the layout is not given (log 24); a block that
does not fit runs on to retirement, its abandoned operations resuming (R53, R155, R475). -/
def execBlockSaveComplete (core block : Nat) (s : State) : Host.Outcome State Fault Refusal :=
  match NMap.find? (s.core core).blocks block with
  | none => .next s
  | some b =>
    let c := s.core core
    let gs := List.filter (fun (g : Nat × Group) => g.2.block == block) c.groups
    let movers := (c.mv0.keptOf block).map (fun r => (0, r)) ++ (c.mv1.keptOf block).map fun r => (1, r)
    if !b.saving || !s.saveReady core block then .next s else
    match s.contextPlace b.slice b.contextBytes with
    | none =>
      if !(movers.all fun x => (c.mover x.1).run.all MvRun.issued) then .next s else
      let s := s.putBlock core block { b with saving := false }
      let out (v : Mover) : Mover := { v with kept := v.kept.filter fun r => r.op.block != block }
      let c := s.core core
      let s := ((s.putCore core { c with mv0 := out c.mv0, mv1 := out c.mv1 }).resumeMovers core movers).resumeRemotes core b.slice (s.remotesOf core gs movers)
      .next (if (s.winOf (core / 8)).isSome && s.holder (core / 8) != some b.slice then s.satInc 0x240010 32 16 else s)
    | some ofs =>
      let s := (s.chargeBlock core block b).incSreg b.slice 0xD020
      let s := s.scratchWrite b.slice ofs ((List.range b.contextBytes).map fun i => BitVec.ofNat 8 (Config.freeValue 24 (s.free + i)))
      let s : State := { s with free := s.free + b.contextBytes }
      let sv : Saved := { block := { b with saving := false }, groups := gs.map (·.2), ofs := ofs, size := b.contextBytes, movers := movers }
      let c := s.core core
      let s := s.putCore core { c with blocks := NMap.del c.blocks block, groups := NMap.keepV c.groups fun g => g.block != block, mv0 := c.mv0.without (· == block), mv1 := c.mv1.without (· == block) }
      .next ((s.putSlice b.slice { s.slice b.slice with saved := (s.slice b.slice).saved ++ [sv] }).clusterServe (core / 8))

/-- 50 µs after the request for pre-emption a wait on another module is abandoned: its pending-receive record is kept (R475, R476). -/
def execRemoteWaitAbandon (id : Nat) (s : State) : Host.Outcome State Fault Refusal :=
  let saving (core : Nat) (bs : Nat) : Bool := match NMap.find? (s.core core).blocks bs with | some b => b.saving | none => false
  match s.remotes.find? fun r => r.id == id with
  | none => .next s
  | some r =>
    let of_ : Option (Nat × Nat) := match r.kind with
      | .push core slot => (NMap.find? (s.core core).groups slot).map fun g => (core, g.block)
      | .put core m | .get core m _ _ => (((s.core core).mover m).run.find? fun x => x.waits.contains id).map fun x => (core, x.op.block)
      | .engine _ => none
    .next (match of_ with
      | some (core, bs) =>
        if saving core bs then State.keepAbandoned { s with remotes := s.remotes.map fun x => if x.id = id then { x with kept := true } else x } core bs else s
      | none => s)

/-- A saved block resumes on a core of its slice where it fits: every field of its context is as saved, its groups taking slots by the rule of
R34 in the order of the slots that they left (log 66); abandoned operations take what has landed or are sent again under their
numbers (R54, R476, R477). -/
def execBlockRestore (slice index core : Nat) (s : State) : Host.Outcome State Fault Refusal :=
  match (s.slice slice).saved[index]? with
  | none => .next s
  | some v =>
    if 2048 ≤ core || !s.mayPlace slice core || !(s.core core).fits v.block.g v.block.v v.block.l || !(v.movers.all fun x => ((s.core core).mover x.1).run.all MvRun.issued) then .next s else
    let bs := (s.core core).freeBlock
    let slots := placeGroups v.groups.length (s.core core).slots
    let s := s.putSlice slice { s.slice slice with saved := (s.slice slice).saved.eraseIdx index }
    let s := s.placeBlock core v.block fun bs => v.groups.map fun g => { g with block := bs }
    let slotAt (g : Nat) : Nat := ((v.groups.zip slots).find? fun x => x.1.index == g).elim 0 (·.2)
    let movers := v.movers.map fun x => (x.1, { x.2 with op := { x.2.op with block := bs, slot := slotAt x.2.op.grp } })
    .next ((s.resumeMovers core movers).resumeRemotes core slice (s.remotesOf core (slots.zip v.groups) movers))

end Sys2Proof.Machine
end

