-- ==== Sys2Proof/Machine/Check.lean ====
section
/-! DEFINITION. The consistency check of a commit (R542): each rule group over the staging copy. Where a rule is broken by objects
together, the later of them is reported (log 46). -/

namespace Sys2Proof.Machine

/-- A field of the staging copy. -/
def State.stg (s : State) (a lo w : Nat) : Nat := bits (s.stagedReg a) lo w
def State.stgOn (s : State) (a : Nat) : Bool := s.stg a 0 1 == 1

/-- The lowest object below `n` that `p` names. -/
def lowest (n : Nat) (p : Nat → Bool) : Option Nat := (List.range n).find? p

/-- Whether a slice is staged enabled, names a cluster, owns a queue. -/
def State.stgSlice (s : State) (sl : Nat) : Bool := s.stgOn (aSlc sl 0)
def State.stgNames (s : State) (sl k : Nat) : Bool := bit (s.stagedReg (aSlc sl 0x10 + 8 * (k / 64))) (k % 64)
def State.stgOwns (s : State) (q sl : Nat) : Bool := s.stgOn (aCq q 0) && s.stg (aCq q 0) 1 6 == sl
/-- Entry `i` of a slice's staged scratch map. -/
def State.stgScr (s : State) (sl i : Nat) : Option (Nat × Nat) :=
  let v := bits (s.stagedReg (aSlc sl 0x400 + 8 * (i / 4))) (16 * (i % 4)) 16
  if bit v 15 then some (bits v 0 6, bits v 6 5) else none
/-- The slice and number of each register of a scratch map that may hold an entry: the others read 0, their reset value. -/
def State.scrRegs (s : State) : List (Nat × Nat) :=
  (((List.map (fun (x : Nat × W64) => x.1) s.staged ++ List.map (fun (x : Nat × W64) => x.1) s.regs).filter fun a => decide (0x200000 ≤ a) && decide (a < 0x240000) && decide (0x400 ≤ a % 0x1000) && decide (a % 0x1000 < 0x800)).map
    fun a => ((a - 0x200000) / 0x1000, (a % 0x1000 - 0x400) / 8)).eraseDups
/-- Whether bytes `[ofs, ofs + n)` lie in a slice's staged scratch map. -/
def State.stgScrHolds (s : State) (sl ofs n : Nat) : Bool :=
  n == 0 || (decide (ofs + n ≤ 2 ^ 31) && (List.range ((ofs + n - 1) / 2 ^ 22 - ofs / 2 ^ 22 + 1)).all fun i => (s.stgScr sl (ofs / 2 ^ 22 + i)).isSome)

/-- Module clusters of a half. -/
def halfClusters (h : Nat) : List Nat := (List.range 4).map (4 * h + ·)

/-- The number of the object whose register lies at an address (R542). -/
def objectOf (a : Nat) : Nat :=
  if a < 0x200000 then 0
  else if a < 0x240000 then (a - 0x200000) / 0x1000
  else if a < 0x300000 then (if 0x240100 ≤ a then (a - 0x240100) / 16 else 0)
  else if a < 0x500000 then 0
  else if a < 0x600000 then (if a < 0x508000 then (a - 0x500000) / 0x40 else (a - 0x508000) / 8)
  else if a < 0x700000 then (if 0x600400 ≤ a then (a - 0x600400) / 8 else if 0x600100 ≤ a then (a - 0x600100) / 0x20 else 0)
  else if a < 0xC00000 then (a - 0x800000) / 0x10000
  else if a < 0x1000000 then (a - 0xC00000) / 0x4000
  else 2 * ((a - 0x1000000) / 0x40000) + a % 0x200 / 0x100

/-- Whether a staged register holds a reserved encoding in an ST field (R8). -/
def reservedSt (a v : Nat) : Bool := (regFields a).any fun f => f.acc == .st && (decide (bits v f.lo f.w < f.min) || decide (f.max < bits v f.lo f.w))

/-- Group 0x01: reserved encodings. -/
def State.checkReserved (s : State) : Option Nat :=
  (s.staged.filterMap fun (x : Nat × W64) => if reservedSt x.1 x.2.toNat then some (objectOf x.1) else none).foldl
    (fun b i => match b with | some j => some (min i j) | none => some i) none

/-- Group 0x02: Vetch engines (R167). -/
def State.vetchOn (s : State) (h : Nat) : Bool := s.stgOn (aVetch h 0)
def State.checkVetch (s : State) : List (Option Nat) :=
  let own (h : Nat) : Nat := s.stg (aVetch h 0) 1 6
  [lowest 64 fun h => s.vetchOn h && !(s.stgSlice (own h) && (halfClusters h).any fun k => s.stgNames (own h) k),
   lowest 64 fun h => s.vetchOn h && !s.stgOwns (s.stg (aVetch h 0) 7 9) (own h),
   lowest 64 fun h => s.vetchOn h && s.stgOn (aPwr (0x100 + 8 * h))]

/-- Group 0x03: LLM (R278). -/
def State.stgHome (s : State) (i : Nat) : Nat := bits (s.stagedReg (aLlm 0 0x2000 + 8 * (i / 8))) (8 * (i % 8)) 6
def State.goesOff (s : State) (h : Nat) : Bool := !s.stgOn (aLlm h 0)
def State.checkLlm (s : State) : List (Option Nat) :=
  let pu (h : Nat) : Nat := s.stg (aLlm h 8) 0 5
  let home := (List.range 1024).map s.stgHome
  let units := s.scrRegs.flatMap fun x => (List.range 4).filterMap fun k => (s.stgScr x.1 (4 * x.2 + k)).map fun u => (x.1, 4 * x.2 + k, u)
  [lowest 64 fun h => decide (24 < s.stg (aLlm h 0x10) 0 5),
   lowest 64 fun h => decide (s.stg (aLlm h 0x10) 0 5 < pu h),
   lowest 64 fun sl => units.any fun x => x.1 == sl && (decide (pu x.2.2.1 ≤ x.2.2.2) || units.any fun y => (decide (y.1 < sl) || (y.1 == sl && y.2.1 != x.2.1)) && y.2.2 == x.2.2),
   lowest 64 fun h => home.contains h && (!s.stgOn (aLlm h 0) || !s.present (h / 2)),
   lowest 64 fun h => s.goesOff h && (home.contains h || pu h != 0 || s.fld (aLlm h 0x18) 7 1 == 0 || s.vetchOn h),
   lowest 64 fun h => s.goesOff h && s.fld (aLlm h 8) 0 5 != 0 && pu h != s.fld (aLlm h 8) 0 5]

/-- Whether a unit is granted or being granted. -/
def State.allocated (s : State) (u : Nat) : Bool := (NMap.find? s.mgr.grants u).isSome || (match s.mgr.grant with | some g => g.1 == u | none => false)
def State.allocations (s : State) : List Nat := List.map (fun (x : Nat × UnitUse) => x.1) s.mgr.grants ++ (match s.mgr.grant with | some g => [g.1] | none => [])
/-- Near units of a node and side; hash units of a stripe. -/
def isHashUnit (u : Nat) : Bool := bit u 15
def nearUnit (n d u : Nat) : Nat := n * 2 ^ 10 + d * 2 ^ 9 + u

/-- Group 0x04: memory nodes (R304). Attributes of a frame's side: class in bit 0, tag in bit 1. -/
def sideAttr (v : Nat) (d : Nat) : Nat := bits v (2 * d) 2
def State.checkMem (s : State) : List (Option Nat) :=
  let hf := s.stg (aMem 0 0x10) 0 6
  let set := (List.range 18).filter fun n => bit (s.stg (aMem 0 0x10) 8 18) n
  let attr (n f d : Nat) : Nat := sideAttr (s.stagedReg (aMem n (0x100 + 8 * f))) d
  let old (n f d : Nat) : Nat := sideAttr (s.reg (aMem n (0x100 + 8 * f))) d
  let ref := set.headD 0
  let one (b : Bool) : Option Nat := if b then some 0 else none
  [one (hf % 2 == 1 || decide (48 < hf)),
   one (set.any (fun n => s.fld (aMem n 0) 0 1 == 1) || (set.isEmpty && hf != 0)),
   one ((hf != s.hframes && s.allocations.any fun u => !isHashUnit u || decide (hf ≤ bits u 8 6)) ||
        (set != s.hashNodes && s.allocations.any isHashUnit)),
   lowest 18 fun n => set.contains n && (List.range hf).any fun f => attr n f 0 != attr n f 1 || attr n f 0 != attr ref f 0,
   lowest 18 fun n => (List.range ((48 - hf) / 2)).any fun u => (List.range 2).any fun d => attr n (hf + 2 * u) d != attr n (hf + 2 * u + 1) d,
   lowest 18 fun n => (List.range 48).any fun f => (List.range 2).any fun d => attr n f d == 2,
   lowest 18 fun n => (List.range 48).any fun f => (List.range 2).any fun d => attr n f d != old n f d &&
     (if f < s.hframes then s.hashNodes.contains n && s.allocations.any fun u => isHashUnit u && bits u 8 6 == f
      else s.allocated (nearUnit n d ((f - s.hframes) / 2))),
   lowest 18 fun n => s.stgOn (aMem n 0) && (set.contains n || s.allocations.any fun u => (!isHashUnit u && bits u 10 5 == n) || (isHashUnit u && s.hashNodes.contains n))]

/-- Group 0x06: queues (R398, R373). -/
def State.checkQueues (s : State) : List (Option Nat) :=
  let eng (q : Nat) : Nat := s.stg (aCq q 0) 7 7
  let on (q : Nat) : Bool := s.stgOn (aCq q 0)
  let full (q : Nat) : Bool := decide ((if eng q < 64 then 16 else 64) < ((List.range (q + 1)).filter fun p => on p && eng p == eng q).length)
  let slots (q : Nat) : Nat := s.stg (aCq q 0x10) 0 24
  let hi (q : Nat) : Nat := s.stg (aCq q 0x18) 0 25
  let same (q lo w : Nat) : Bool := s.stg (aCq q 0) lo w == s.fld (aCq q 0) lo w
  [lowest 512 fun q => decide (67 < eng q) || (on q && ((decide (eng q < 64) && !s.present (eng q / 2)) || full q)),
   lowest 512 fun q => slots q % 32 != 0 || decide (16777184 < slots q) || s.stg (aCq q 8) 0 6 != 0 ||
     (s.stg (aCq q 0) 15 1 == 0 && slots q != 0 && !s.stgScrHolds (s.stg (aCq q 0) 1 6) (s.stg (aCq q 8) 0 48) (64 * slots q)),
   lowest 512 fun q => decide (hi q ≤ s.stg (aCq q 0x18) 25 25) || decide (32 + slots q < hi q),
   lowest 512 fun q => s.stg (aCq q 0) 24 1 == 1 && s.stg (aCq q 0) 18 6 == s.stg (aCq q 0) 1 6,
   lowest 512 fun q => s.fld (aCq q 0) 0 1 == 1 && !(same q 1 6 && same q 7 7 && same q 14 1 && same q 15 1 && same q 18 6 && same q 24 1 &&
     s.stg (aCq q 8) 0 48 == s.fld (aCq q 8) 0 48 && slots q == s.fld (aCq q 0x10) 0 24),
   lowest 8 fun i => (List.range 2).any fun k => s.stg (aCqG (8 * i)) (10 * k) 1 == 1 &&
     (let q := s.stg (aCqG (8 * i)) (10 * k + 1) 9; !on q || eng q != 64 + i / 2)]

/-- Whether a port die is down: it has failed, has been turned off, or is resetting. -/
def State.pdDown (s : State) (p : Nat) : Bool := NMap.get 0 s.dieState (54 + p) != 0

/-- Group 0x07: links (R424). -/
def State.checkLink (s : State) : List (Option Nat) :=
  let t := aLnk 0x28
  let off (p : Nat) : Bool := !s.stgOn (aPort p 0)
  let one (b : Bool) : Option Nat := if b then some 0 else none
  [one ((List.range 3).any fun a => decide (s.stg (aLnk 0) (5 * a) 5 < s.stg (aLnk 0) (15 + 5 * a) 5)),
   one (if s.stgOn t then s.stg t 1 4 != 0 || s.stg t 9 1 == 1 else off (s.stg t 1 4) || (s.stg t 9 1 == 1 && off (s.stg t 5 4))),
   lowest 64 fun sl => s.stgOn (aLnk (0x400 + 8 * sl)) && (!s.stgOwns (s.stg (aLnk (0x400 + 8 * sl)) 3 9) sl || s.pdDown (s.stg (aLnk (0x400 + 8 * sl)) 1 2) || s.stg (aSlc sl 8) 24 1 == 0),
   lowest 16 fun p => s.stg (aPort p 0) 1 2 == 3]

/-- Dimension order from any module of the torus (R408). -/
def State.defaultFrom (s : State) (m dst : Nat) : Option Nat :=
  ((List.range 3).find? fun a => s.coordOf dst a != s.coordOf m a).map fun a =>
    let d := (s.coordOf dst a + s.ring a - s.coordOf m a) % s.ring a
    if 2 * d ≤ s.ring a then 2 * a else 2 * a + 1
/-- The neighbour of a module in a ring direction, and whether the link crosses the dateline. -/
def State.ringStep (s : State) (m d : Nat) : Nat × Bool :=
  let a := d / 2
  let c := s.coordOf m a
  let n := s.ring a
  let c' := if d % 2 = 0 then (c + 1) % n else (c + n - 1) % n
  let unit := if a = 0 then 1 else if a = 1 then s.ring 0 else s.ring 0 * s.ring 1
  (m - c * unit + c' * unit, if d % 2 = 0 then c' == 0 else c == 0)
/-- The channels of a link route, as 8 × module + direction and virtual channel; none where it does not arrive. An express exit ends
the walk: the table names no module behind it (R411). -/
def State.linkWalk (s : State) (next : Nat → Option Nat) (dst : Nat) : Nat → Nat → Nat → Nat → List (Nat × Nat) → Option (List (Nat × Nat))
  | 0, _, _, _, _ => none
  | n + 1, m, dim, vc, acc =>
    if m = dst then some acc else
    match next m with
    | none => none
    | some d =>
      if 6 ≤ d then some acc else
      let (m', dl) := s.ringStep m d
      let vc := if dl then 1 else if dim = d / 2 then vc else 0
      s.linkWalk next dst n m' (d / 2) vc (acc ++ [(8 * m + d, vc)])

/-- Group 0x08: a staged link route set has a cycle, or leaves two of its modules without a route (R410). -/
def State.checkLinkRoutes (s : State) : List (Option Nat) :=
  match s.stagedLink with
  | none => [none, none]
  | some r =>
    let mods := (r.map (·.1)).eraseDups
    let next (dst m : Nat) : Option Nat := match r.find? fun x => x.1 == m && x.2.1 == dst with | some x => some x.2.2.1 | none => s.defaultFrom m dst
    let paths := mods.flatMap fun a => (mods.filter (· != a)).map fun b => s.linkWalk (next b) b 128 a 3 0 []
    let deps := (paths.flatMap fun p => match p with | some l => l.zip (l.drop 1) | none => []).eraseDups
    [if acyclic deps.length deps then none else some 0, if paths.any Option.isNone then some 0 else none]

/-- The part of a cluster's time that a window takes, by staged register: enabled, slice, opening, length, clusters. -/
def State.stgWin (s : State) (w lo n : Nat) : Nat := s.stg (0x240100 + 16 * w) lo n
def State.stgWinHas (s : State) (w k : Nat) : Bool := bit (s.stagedReg (0x240108 + 16 * w)) (k / 8) && bit (s.stagedReg (0x240108 + 16 * w)) (32 + k % 8)
def State.stgWinOn (s : State) (w : Nat) : Bool := s.stgWin w 0 1 == 1

/-- Whether something still names a slice that a commit would destroy (R457). -/
def State.stillNamed (s : State) (sl : Nat) : Bool :=
  (List.range 512).any (fun q => s.stgOn (aCq q 0) && (s.stg (aCq q 0) 1 6 == sl || (s.stg (aCq q 0) 24 1 == 1 && s.stg (aCq q 0) 18 6 == sl))) ||
  (List.range 64).any (fun h => s.vetchOn h && s.stg (aVetch h 0) 1 6 == sl) ||
  s.stgOn (aLnk (0x400 + 8 * sl)) || (List.range 64).any (fun w => s.stgWinOn w && s.stgWin w 1 6 == sl) ||
  (List.range 512).any (fun i => (s.stgScr sl i).isSome) || s.mgr.grants.any (fun (x : Nat × UnitUse) => x.2 == .slice sl) ||
  (match s.mgr.grant with | some g => g.2.1 == .slice sl | none => false)

/-- Group 0x09: slices (R458, R457, R432). -/
def State.checkSlices (s : State) : List (Option Nat) :=
  let winBad (w : Nat) : Bool := s.stgWinOn w && (decide (s.stg 0x240000 0 17 < s.stgWin w 7 17 + s.stgWin w 24 17) || s.stgWin w 24 17 == 0 || !s.stgSlice (s.stgWin w 1 6) ||
    (List.range 32).any (fun d => bit (s.stagedReg (0x240108 + 16 * w)) d && !s.present d) ||
    (List.range w).any fun v => s.stgWinOn v && decide (s.stgWin v 7 17 < s.stgWin w 7 17 + s.stgWin w 24 17) && decide (s.stgWin w 7 17 < s.stgWin v 7 17 + s.stgWin v 24 17) &&
      (List.range 256).any fun k => s.stgWinHas v k && s.stgWinHas w k)
  [lowest 64 fun sl => s.stgSlice sl && (List.range 256).any fun k => s.stgNames sl k && (!s.present (k / 8) || decide (8 < ((List.range (sl + 1)).filter fun t => s.stgSlice t && s.stgNames t k).length)),
   lowest 64 fun sl => s.stgSlice sl && s.stg (aSlc sl 8) 24 1 == 1 && (List.range sl).any fun t => s.stgSlice t && s.stg (aSlc t 8) 24 1 == 1 && s.stg (aSlc t 8) 0 24 == s.stg (aSlc sl 8) 0 24,
   lowest 64 fun sl => s.stgSlice sl && (!s.stgScrHolds sl (4096 * s.stg (aSlc sl 0x30) 0 24) (4096 * s.stg (aSlc sl 0x30) 24 24) || (s.stg (aSlc sl 0x38) 32 16 != 0 && s.stg (aSlc sl 8) 24 1 == 0)),
   lowest 64 fun sl => s.stgSlice sl && s.stg (aSlc sl 0) 46 1 == 1 && !s.stgOwns (s.stg (aSlc sl 0) 47 9) sl,
   if s.stg 0x240000 0 17 < 10 ∨ 100000 < s.stg 0x240000 0 17 then some 0 else lowest 64 winBad,
   lowest 64 fun sl => s.exists? sl && !s.stgSlice sl && s.stillNamed sl,
   lowest 64 fun sl => s.stgSlice sl && (List.range sl).any fun t => s.stgSlice t && s.stg (aSlc t 0) 1 21 == s.stg (aSlc sl 0) 1 21]

/-- Group 0x0A: security (R507). -/
def State.checkSec (s : State) : List (Option Nat) :=
  let bind (sl : Nat) : Nat := aSec (0x400 + 8 * sl)
  [lowest 64 fun sl => s.stgOn (bind sl) && (!s.stgSlice sl || !s.stgOwns (s.stg (bind sl) 1 9) sl),
   if s.stgOn (aSec 0x20) && (List.range 8).all (fun i => s.stagedReg (aSec (0x300 + 8 * i)) == 0) then some 0 else none,
   if s.fld (aSec 0) 0 2 = 0 then none else lowest 64 s.stgSlice]

/-- Group 0x0B: power (R533). -/
def State.checkPower (s : State) : List (Option Nat) :=
  let step (v lo hi : Nat) : Bool := decide (lo ≤ v) && decide (v ≤ hi) && v % 25 == 0
  [if step (s.stg (aPwr 0) 1 11) 1800 2000 then none else some 0,
   if step (s.stg (aPwr 0x10) 0 11) 600 1800 then none else some 0,
   lowest 64 fun h => s.stgOn (aPwr (0x100 + 8 * h)) && (!s.present (h / 2) || ((List.range 64).any fun w => s.stgWinOn w && (halfClusters h).any (s.stgWinHas w)))]

/-- The rule groups with the results of their rows, in order (R542). -/
def State.checks (s : State) : List (Nat × List (Option Nat)) :=
  [(1, [s.checkReserved]), (2, s.checkVetch), (3, s.checkLlm), (4, s.checkMem),
   (5, match s.stagedMesh with
       | some r => (List.range 6).map fun i => if s.routesBad r = some (i + 1) then some 0 else none
       | none => []),
   (6, s.checkQueues), (7, s.checkLink), (8, s.checkLinkRoutes), (9, s.checkSlices), (10, s.checkSec), (11, s.checkPower)]

/-- The first failure: RULE and INDEX (R542). -/
def State.firstFailure (s : State) : Option (Nat × Nat) :=
  s.checks.findSome? fun g => (g.2.zipIdx).findSome? fun r => r.1.map fun i => (256 * g.1 + r.2 + 1, i)

end Sys2Proof.Machine
end

