-- ==== Sys2Proof/Machine/Transition.lean ====
section
/-! DEFINITION. Measurement slots, transitions and pauses (R461, R487 to R489, R545). -/

namespace Sys2Proof.Machine

/-- Slot 8: LOCK in byte 0, the unlock count in bytes 1 and 2 (R487). -/
def State.securityState (s : State) : BitVec 256 := BitVec.ofNat 256 (s.fld (aSec 0) 0 2 + s.rlog.unlocks % 65536 * 256)

/-- Slot 6: the record with its substitutions and retirements (R487, R535). -/
def State.recordSlot (s : State) : BitVec 256 :=
  Config.recordDigest (s.rlog.retired ++ [100] ++ s.rlog.failed ++ [100] ++ (s.rlog.subs.flatMap fun x => [x.1, x.2]) ++ [100] ++ s.rlog.trims.flatMap fun t => [t.1, t.2.1, t.2.2])

/-- Slot 9: number and digest of each loaded object, ascending (R487). -/
def State.objectSlot (s : State) : BitVec 256 :=
  Config.sha256 (s.sec.objects.flatMap fun (x : Nat × BitVec 256) => leBytes 4 x.1 ++ leBytes 32 x.2.toNat)

/-- A slot of the stable epoch; slot 9 is current (R487, R490). -/
def State.slot (s : State) (i : Nat) : BitVec 256 :=
  if i = 9 then s.objectSlot else if 10 ≤ i then 0
  else match NMap.find? s.sec.meas i with
    | some d => d
    | none => if i = 8 then BitVec.ofNat 256 (s.rlog.unlocks % 65536 * 256) else Config.powerOnDigest i

/-- A slot will change when the transition ends; the transition begins where none is in progress (R488). -/
def State.changeSlot (s : State) (i : Nat) (d : BitVec 256) : State :=
  { s with sec := { s.sec with pend := NMap.put s.sec.pend i d } }.setFld (aSec 0) 6 1 1

/-- A part of a transition begins, and ends (R488). -/
def State.beginPart (s : State) (k : Nat) : State :=
  { s with mgr := { s.mgr with changes := if s.mgr.changes.contains k then s.mgr.changes else k :: s.mgr.changes } }.setFld (aSec 0) 6 1 1
def State.endPart (s : State) (k : Nat) : State := { s with mgr := { s.mgr with changes := s.mgr.changes.filter (· != k) } }

/-- State and generation of a physical die (R490, R491). -/
def State.setDie (s : State) (d st : Nat) : State := { s with dieState := NMap.set 0 s.dieState d st }
def State.dieReset (s : State) (d : Nat) : State := { s with dieGen := NMap.put s.dieGen d ((NMap.get 0 s.dieGen d + 1) % 65536) }

/-- Slices that `p` names pause: no block of theirs starts (R461, R545). -/
def State.pause (s : State) (why : Nat) (p : Nat → Bool) : State :=
  { s with mgr := { s.mgr with paused := s.mgr.paused ++ ((List.range 64).filter fun sl => s.exists? sl && p sl && !s.mgr.paused.contains (sl, why)).map fun sl => (sl, why) } }
/-- What paused them has ended. -/
def State.resume (s : State) (why : Nat) (p : Nat → Bool) : State :=
  { s with mgr := { s.mgr with paused := s.mgr.paused.filter fun x => !(x.2 == why && p x.1) } }
/-- Whether a slice holds a cluster or a queue on a logical die, node 32 + n, port die 50 + p or management die 54 + m by NET window
(R545). -/
def State.onDie (s : State) (w sl : Nat) : Bool :=
  (w < 32 && (List.range 8).any fun j => s.names sl (8 * w + j)) ||
  (List.range 512).any fun q => s.qEn q && s.qOwner q == sl && (let e := s.fld (aCq q 0) 7 7; (decide (w < 32) && e / 2 == w && decide (e < 64)) || (decide (50 ≤ w) && decide (w < 54) && e == w + 14))
/-- Whether no block of a slice that something paused is resident. -/
def State.quiet (s : State) (why : Nat) : Bool := s.cores.all fun (x : Nat × Core) => x.2.blocks.all fun (b : Nat × Block) => !s.mgr.paused.contains (b.2.slice, why)

/-- The tables of a die are measured anew, and its trims are gone (R544). -/
def State.remeasure (s : State) (d : Nat) : State :=
  let mine (sh : Nat) : Bool := sh / 2 == s.sites.getD d 99
  let new := (List.range 2).flatMap fun i => (List.range 57).map fun k => (2 * s.sites.getD d 99 + i, k, Config.recalVoltage (2 * s.sites.getD d 99 + i) k)
  { s with rlog := { s.rlog with trims := new ++ s.rlog.trims.filter fun t => !mine t.1 } }

/-- Every part of the transition has ended and the affected dies are in service: MEPOCH advances, the new values become the stable
measurements, paused slices run on (R488, R544, R545). -/
def execTransitionEnd (s : State) : Host.Outcome State Fault Refusal :=
  if s.fld (aSec 0) 6 1 = 0 || !s.mgr.changes.isEmpty || !s.quiet 1 then .next s else
  let s := s.mgr.recal.foldl (fun s d => s.remeasure d) s
  let s : State := { s with mgr := { s.mgr with recal := [] } }
  let s : State := { s with sec := { s.sec with meas := s.sec.pend.foldl (fun m (x : Nat × BitVec 256) => NMap.put m x.1 x.2) s.sec.meas, pend := [] }
                            dieState := List.filter (fun (x : Nat × Nat) => !(decide (4 ≤ x.2) && decide (x.2 ≤ 6))) s.dieState }
  .next ((((s.setFld (aSec 0) 6 1 0).setFld (aSec 8) 0 32 ((s.fld (aSec 8) 0 32 + 1) % 2 ^ 32))).resume 1 fun _ => true)

end Sys2Proof.Machine
end

