-- ==== Sys2Proof/Machine/Commit.lean ====
section
/-! DEFINITION. Commits: the staging copy, the instant at which every staged value takes effect, repair commits, the loss and the
substitution of compute dies (R9, R23, R540 to R543, R549 to R551). -/

namespace Sys2Proof.Machine

def State.commitState (s : State) : Nat := s.fld aCommitStatus 0 2

/-- A write of CFG_COMMIT.GO: the check begins, or waits behind a repair commit (R540, R541, R543). -/
def State.commitGo (s : State) : State :=
  if s.commitState ≠ 0 then s.flag 0x28 1 else s.setFld aCommitStatus 0 2 (if s.commit.isSome then 3 else 1)
def execCfgCommitGo (host : Nat) (s : State) : Host.Outcome State Fault Refusal := .next (s.mgrWrite host 0x10 State.commitGo)

/-- A write of CFG_COMMIT.DISCARD: every staged value is its value in effect again (R541). -/
def State.commitDiscard (s : State) : State :=
  if s.commitState ≠ 0 then s.flag 0x28 1 else { s with staged := [], stagedMesh := none, stagedLink := none }
def execCfgCommitDiscard (host : Nat) (s : State) : Host.Outcome State Fault Refusal := .next (s.mgrWrite host 0x10 State.commitDiscard)

/-- The next repair commit that waits begins; an owner commit that waited behind the last one is checked (R543). -/
def State.nextCommit (s : State) : State :=
  match s.repairs with
  | c :: r => ({ s with repairs := r }).beginCommit { c with epoch := s.nextEpoch }
  | [] => if s.commitState = 3 then s.setFld aCommitStatus 0 2 1 else s

/-- The check is complete: a failure names the first broken rule and keeps the staging copy; otherwise COMMIT goes out (R540, R542). -/
def execCommitCheckDone (s : State) : Host.Outcome State Fault Refusal :=
  if s.commitState ≠ 1 || s.commit.isSome then .next s else
  match s.firstFailure with
  | some (rule, index) =>
    let s := ((((s.setFld aCommitStatus 0 2 0).setFld aCommitStatus 2 1 0).setFld aCommitStatus 3 1 1).setFld aCommitStatus 4 16 rule).setFld aCommitStatus 20 12 index
    .next ((s.pf0 3).nextCommit)
  | none =>
    .next ((s.setFld aCommitStatus 0 2 2).beginCommit { epoch := s.nextEpoch, instant := 0, repair := false, routes := s.stagedMesh, moves := [], mask := none, sent := false })

/-- The registers with every staged value in effect (R9). -/
def State.withStaged (s : State) : State :=
  s.staged.foldl (fun (s : State) (x : Nat × W64) =>
    let m := accMask x.1 .st
    s.setReg x.1 (s.reg x.1 - (s.reg x.1 &&& m) + (x.2.toNat &&& m))) s

/-- Slices that the commit destroys end, and lose their pages and key handles (R457, R499). -/
def State.destroySlices (s : State) : State :=
  (List.range 64).foldl (fun (s : State) sl =>
    if !s.exists? sl || s.stgSlice sl then s else
    let s := s.jobEnd sl 4 0
    let s := s.putSlice sl { s.slice sl with pages := [] }
    ({ s with sec := { s.sec with handles := List.filter (fun (x : Nat × (BitVec 288 × Nat)) => x.1 / 4 != sl) s.sec.handles } }).setFld (aSlc sl 0x40) 40 1 0) s

/-- Slices that the commit creates (R456): no job, and counters that begin at 0. -/
def State.createSlices (old s : State) : State :=
  (List.range 64).foldl (fun (s : State) sl =>
    if old.exists? sl || !s.exists? sl then s else
    let s : State := { s with swin := NMap.clear s.swin (sl * 0x10000) ((sl + 1) * 0x10000) }
    ((s.putSlice sl Slice.init).setFld (aSlc sl 0x40) 40 1 1).setFld (aSlc sl 0x40) 16 2 0) s

/-- Addresses leave their home half: their pending contributions are resolved and their holds end (R247). -/
def State.leaveHomes (old s : State) : State :=
  NMap.foldV old.halves s fun s h x =>
    let moved (l : Nat) : Bool := !isScratch l && old.homeHalf l == h && s.homeHalf l != h
    let s := ((x.pend.map fun p => p.c.line).eraseDups.filter moved).foldl (fun s l => s.resolveEarly h l) s
    ((x.lines.filter fun (e : Nat × Line) => e.2.hold && moved e.1).map (·.1)).foldl (fun (s : State) l => s.dropHold h l) s

/-- Scratch units of a half: newly pinned ways are emptied; returned ways and units with a new owner are zeroed in ascending order
(R253). -/
def State.repin (old s : State) (h : Nat) : State :=
  let n0 := old.fld (aLlm h 0x18) 2 5
  let n1 := s.fld (aLlm h 8) 0 5
  let owners (t : State) (u : Nat) : List Nat := (List.range 64).filter fun sl => (List.range 512).any fun i => t.scrmap sl i == some (h, u)
  let dirty := (List.range 24).filter fun u => (decide (n1 ≤ u) && decide (u < n0)) || (decide (u < n1) && !(owners s u).isEmpty && owners s u != owners old u)
  let lines := (s.half h).lines.filter fun (e : Nat × Line) => let u := 2 * (15 - e.2.way) + cacheSet e.1 / 2048; (e.2.st == .s || !(s.half h).miss.any fun m => m.line == e.1) && decide (e.2.way ≤ 15) && decide (n0 ≤ u) && decide (u < n1)
  let s := s.setFld (aLlm h 0x18) 2 5 n1
  let s := (lines.map (·.1)).foldl (fun s l => s.evict h l false) s
  if dirty.isEmpty then s else s.putHalf h { s.half h with zeroing := (s.half h).zeroing ++ dirty.filter fun u => !(s.half h).zeroing.contains u }

/-- LLM power and clock gating of a half (R276, R277, R513). -/
def State.switchHalf (old s : State) (h : Nat) : State :=
  let p0 := old.fld (aLlm h 0) 0 1
  let p1 := s.fld (aLlm h 0) 0 1
  let s := if p0 = 1 ∧ p1 = 0 then s.setFld (aLlm h 0x18) 0 2 3 else s
  if !old.gateSet h && s.gateSet h then (halfClusters h).foldl (fun s k => s.preempt k fun _ => true) s else s

/-- The broadcast mask: halves with LLM_CTRL.PWR = 1 on a present die (R319). -/
def State.setBmask (s : State) : State :=
  s.setReg (aCoh 0 0x50) ((List.range 64).foldl (fun v h => if s.fld (aLlm h 0) 0 1 = 1 ∧ s.present (h / 2) then v + 2 ^ h else v) 0)

/-- Frame sides whose class or tag changed are rewritten; a node that retires is zeroised (R302, R305). -/
def State.changeFrames (old s : State) (n : Nat) : State :=
  let changed := (List.range 48).flatMap fun f => ([false, true].filter fun d => sideAttr (old.reg (aMem n (0x100 + 8 * f))) d.toNat != sideAttr (s.reg (aMem n (0x100 + 8 * f))) d.toNat).map fun d => (f, d)
  let s := if changed.isEmpty then s else
    (s.putNode n { s.node n with rewriting := (s.node n).rewriting ++ changed.filter fun c => !(s.node n).rewriting.contains c }).setFld (aMem n 8) 4 1 1
  if old.fld (aMem n 0) 0 1 = 0 ∧ s.fld (aMem n 0) 0 1 = 1 then (s.setFld (aMem n 8) 0 2 2).beginPart (200 + n) else s

/-- Queues: disabling ends the waits and empties, enabling starts empty; thresholds and pins are judged anew (R391, R393). -/
def State.changeQueues (old s : State) : State :=
  (List.range 512).foldl (fun (s : State) q =>
    match old.qEn q, s.qEn q with
    | true, false =>
      let x := s.queue q
      let s := ((s.putQueue q Queue.init).setFld (aCq q 0x20) 2 1 0).flow q
      x.waits.foldl (fun s w => s.qDone w 6 []) s
    | false, true => ((s.putQueue q Queue.init).setFld (aCq q 0x20) 2 1 0).flow q
    | true, true => s.flow q
    | false, false => s) s

/-- Vetch engines enabled or disabled (R165, R168). -/
def State.changeVetch (old s : State) (h : Nat) : State :=
  match old.fld (aVetch h 0) 0 1 == 1, s.fld (aVetch h 0) 0 1 == 1 with
  | false, true => (s.putVetch h Vetch.init).setFld (aVetch h 8) 0 2 1
  | true, false => (s.putVetch h Vetch.init).setFld (aVetch h 8) 0 2 0
  | _, _ => s

/-- Link ports enabled, which then train, or disabled; link engines newly bound begin idle (R406, R407, R416). -/
def State.changePorts (old s : State) : State :=
  let s := (List.range 16).foldl (fun (s : State) p =>
    match old.fld (aPort p 0) 0 1 == 1, s.fld (aPort p 0) 0 1 == 1 with
    | true, false => s.portOut p 0
    | false, true => s.setFld (aPort p 8) 0 2 1
    | _, _ => s) s
  (List.range 64).foldl (fun (s : State) sl => if old.fld (aLnk (0x400 + 8 * sl)) 0 1 = s.fld (aLnk (0x400 + 8 * sl)) 0 1 then s else { s with engines := NMap.del s.engines sl }) s

/-- Mesh and Bugle routes take effect, and the interfaces inject again (R342, R369). -/
def State.loadRoutes (s : State) (epoch : Nat) : Option MeshRoutes → State
  | none => s
  | some r =>
    let m := s.mesh
    let s : State := { s with mesh := { m with routes := r.mesh.foldl (fun t x => NMap.put t (64 * x.1 + x.2.1) x.2.2) [], bugle := r.bugle.foldl (fun t x => NMap.put t (64 * x.1 + x.2.1) x.2.2) [] } }
    (s.setFld (aNet 0) 32 32 epoch).inject

/-- Every staged value takes effect together (R9). -/
def State.applyStaged (s : State) (epoch : Nat) : State :=
  let s := s.destroySlices
  let t := s.withStaged
  let t := State.leaveHomes s t
  let t := (List.range 64).foldl (fun t h => State.changeVetch s (State.switchHalf s (State.repin s t h) h) h) t
  let t := (List.range 18).foldl (fun t n => State.changeFrames s t n) t
  let t := State.changePorts s (State.changeQueues s (State.createSlices s t))
  let t : State := match t.stagedLink with
    | some r => { t with routes := r.foldl (fun m x => if x.1 = t.ownModule then NMap.put m (x.2.1 % 2 ^ 15) (x.2.2.1, x.2.2.2) else m) [] }
    | none => t
  { t.setBmask.loadRoutes epoch t.stagedMesh with staged := [], stagedMesh := none, stagedLink := none }

/-- A queue whose engine a reserve now serves is emptied and no longer failed (R550). -/
def State.reviveQueues (s : State) (p : Nat → Bool) : State :=
  (List.range 512).foldl (fun (s : State) q =>
    if s.qFailed q && p (s.fld (aCq q 0) 7 7) then ((s.putQueue q Queue.init).setFld (aCq q 0x20) 2 1 0).flow q else s) s

/-- Bay of a compute site: three rows of the grid share a row of bays (R13, R22). -/
def bayOf (site : Nat) : Nat := let (c, r) := siteAt site; 6 * (r / 3) + c

/-- DETAIL of the record of a completed substitution: logical number [7:0], bay of the old site [15:8], of the new [23:16] (R22; log 66). -/
def bayDetail (d was site : Nat) : Nat := d + bayOf was * 2 ^ 8 + bayOf site * 2 ^ 16

/-- A reserve takes a logical number: the site it replaces stays in transit mode, or is removed where it lost every link or its self-test
failed, and the counters of its cores start from 0. Parts of a transition: 100 + d after a failure, 300 + d where planned, which loses no
items (R20 to R22, R57, R550, R551). -/
def State.moveDie (s : State) (d site : Nat) (removed : Bool) : State :=
  let was := s.sites.getD d 99
  let planned := s.mgr.changes.contains (300 + d) && !s.mgr.changes.contains (100 + d)
  let s : State := { s with sites := s.sites.set d site, power := { s.power with halves := NMap.clear s.power.halves (2 * d) (2 * d + 2) }
                            cycBase := NMap.put (NMap.put s.cycBase (2 * d) (0, s.time.toNat)) (2 * d + 1) (0, s.time.toNat) }
  let s := if was < 36 then (s.setDie was (if removed || s.dieCut was then 7 else 2)).record { sev := 1, block := 1, code := 0x8003, die := site, detail := bayDetail d was site } else s
  let s := [2 * d, 2 * d + 1].foldl (fun (s : State) h => s.setFld (aLlm h 0x18) 0 2 (s.fld (aLlm h 0) 0 1)) ((s.setDie site 5).dieReset site)
  ((if planned then s else s.reviveQueues fun e => decide (e < 64) && e / 2 == d).endPart (100 + d)).endPart (300 + d)

/-- The instant of a commit (R9, R540, R543): an owner commit applies the staging copy, a repair commit its tables; both advance
EPOCH. -/
def execCommitInstant (s : State) : Host.Outcome State Fault Refusal :=
  match s.commit with
  | none => .next s
  | some c =>
    if !c.sent || decide (s.time.toNat < c.instant) then .next s else
    let s : State := { s with commit := none }
    let s := if c.repair then
        let s := (c.moves.foldl (fun (s : State) m => s.moveDie m.1 m.2 c.routes.isSome) s).loadRoutes c.epoch c.routes
        let s := if c.moves.isEmpty then s else s.setBmask.changeSlot 6 s.recordSlot
        let s := match c.mask with | some m => s.setReg (aCoh 0 0x50) m | none => s
        if c.routes.isSome then s.send (.modeMsg (bugleTo 4 s.actDie 63) false) else s
      else s.applyStaged c.epoch
    let s := (s.setFld aCommitStatus 32 32 c.epoch).setReg 0x20 c.instant
    let s := if c.repair then s else (((s.setFld aCommitStatus 0 2 0).setFld aCommitStatus 2 1 1).setFld aCommitStatus 3 1 0).pf0 3
    .next s.nextCommit

/-- Management firmware commits routes, a broadcast mask, or both; routes must meet R341 (R359, R543). -/
def execRepairCommit (routes : Option MeshRoutes) (mask : Option Nat) (s : State) : Host.Outcome State Fault Refusal :=
  if s.phase ≠ .ready || (match routes with | some r => (s.routesBad r).isSome | none => false) then .next s
  else .next (s.requestRepair { epoch := 0, instant := 0, repair := true, routes := routes, moves := [], mask := mask.map (· % 2 ^ 64), sent := false })

/-- Whether a page of a slice's own units holds a line. -/
def Slice.ownsLine (x : Slice) (line : Nat) : Bool :=
  x.pages.any fun (p : Nat × Page) => match p.2.tgt with | .own pa => decide (pa ≤ 128 * line) && decide (128 * line < pa + p.2.size) | _ => false

/-- What lost halves held for a slice (R324, R549). -/
def State.heldFor (s : State) (hs : List Nat) (sl : Nat) : Bool :=
  (NMap.foldV s.nodes false fun b _ n => b || n.dir.any fun (e : Nat × DirEnt) => match e.2 with | .x o _ _ => hs.contains o && (s.slice sl).ownsLine e.1 | _ => false) ||
  hs.any fun h =>
    let x := s.half h
    x.lines.any (fun (l : Nat × Line) => l.2.slice == sl && l.2.hold) || x.pend.any (fun p => p.c.slice == sl) ||
    (List.range 512).any (fun i => match s.scrmap sl i with | some u => u.1 == h | none => false) ||
    (List.range 512).any (fun q => s.qEn q && s.qOwner q == sl && s.fld (aCq q 0) 7 7 == h) ||
    (s.fld (aVetch h 0) 0 1 == 1 && s.fld (aVetch h 0) 1 6 == sl)

/-- The blocks of a die are gone with it: tasks that had any there are replayed, or their jobs end (R548, R549). -/
def State.loseBlocks (s : State) (d : Nat) : State :=
  let lost := (List.range 64).flatMap fun c => List.map (fun (b : Nat × Block) => (b.2.slice, b.2.taskNo)) (s.core (64 * d + c)).blocks
  let s := (List.range 64).foldl (fun (s : State) c => { s with cores := NMap.del s.cores (64 * d + c) }) s
  lost.eraseDups.foldl (fun s x => if s.jobOf x.1 = 1 then s.tryReplay x.1 x.2 (s.sites.getD d 60) else s) s

/-- Bridges between two sites (R12, R13). -/
def siteDistance (a b : Nat) : Nat :=
  let (c, r) := siteAt a
  let (e, f) := siteAt b
  (max c e - min c e) + (max r f - min r f)

/-- Loss of a die with no reserve ends the job of every slice that holds a cluster on it, with reason 0x05 (R23). -/
def State.endOnDie (s : State) (die : Nat) : State :=
  (List.range 64).foldl (fun (s : State) sl =>
    if s.jobOf sl = 1 ∧ (List.range 8).any (fun j => s.names sl (8 * die + j)) then
      let (v, s) := s.freely 20
      (s.record { sev := 3, block := 2, code := v % 2 ^ 16, die := s.sites.getD die 99, slice := some sl, detail := 5 }).jobEnd sl 5 0
    else s) s

/-- A failed die with no reserve left: its logical number is absent (R23). -/
def State.goAbsent (s : State) (die : Nat) : State :=
  let site := s.sites.getD die 99
  let s := s.endOnDie die
  let s : State := { s with sites := s.sites.set die 99, rlog := { s.rlog with failed := site :: s.rlog.failed } }
  (((s.setDie site (if s.dieCut site then 7 else 2)).changeSlot 6 s.recordSlot).endPart (100 + die)).requestRepair
    { epoch := 0, instant := 0, repair := true, routes := none, moves := [], mask := some (s.reg (aCoh 0 0x50) - (s.reg (aCoh 0 0x50) &&& 3 * 2 ^ (2 * die))), sent := false }

/-- A compute die fails: LOST is sent, slices keep or lose their jobs, tasks are replayed; with no reserve left every slice with a cluster
there ends with reason 0x05 and the number is absent (R23, R549, R551). -/
def State.dieFails (s : State) (die : Nat) : State :=
  let site := s.sites.getD die 99
  let hs := [2 * die, 2 * die + 1]
  let s := s.record { sev := 1, block := 1, code := 0x8002, die := site, detail := die }
  let s := if s.reserves.isEmpty then s.endOnDie die else s
  let doomed := (List.range 64).filter fun sl => s.jobOf sl == 1 && s.heldFor hs sl
  let s := doomed.foldl (fun (s : State) sl =>
    let (v, s) := s.freely 20
    (s.record { sev := 3, block := 2, code := v % 2 ^ 16, die := site, slice := some sl, detail := 7 }).jobEnd sl 7 0) s
  let s := (s.loseBlocks die).send (.lost (bugleTo 5 s.actDie 63) hs)
  let s := hs.foldl (fun (s : State) h => (s.putHalf h { Half.init with tags := (s.half h).tags, used := (s.half h).used }).setFld (aLlm h 0x18) 0 2 0) s
  let s := ((s.setDie site 5).dieReset site).beginPart (100 + die)
  if s.reserves.isEmpty then s.goAbsent die else s
def execComputeDieFailure (die : Nat) (s : State) : Host.Outcome State Fault Refusal :=
  .next (if 32 ≤ die || !s.present die || s.mgr.changes.contains (100 + die) then s else s.dieFails die)

/-- The reserve of a failed die with the fewest bridges to its site, ties to the lower number (R551). -/
def State.reserveFor (s : State) (site : Nat) : Option Nat :=
  s.reserves.foldl (fun b r => match b with
    | some x => if siteDistance site r < siteDistance site x ∨ (siteDistance site r = siteDistance site x ∧ r < x) then some r else b
    | none => some r) none

/-- A reserve site that fails self-test is marked failed (R551). -/
def State.badReserve (s : State) (r : Nat) : State :=
  if s.reserves.contains r then { s with reserves := s.reserves.filter (· != r), rlog := { s.rlog with failed := r :: s.rlog.failed } }.setDie r 2 else s

/-- The substitution is written to the record: the reserve is no longer one (R19, R21, R535). -/
def State.recordSubstitution (s : State) (d r : Nat) : State :=
  { s with reserves := s.reserves.filter (· != r), rlog := { s.rlog with subs := (d, r) :: s.rlog.subs } }

/-- Whether routes that go around a removed site meet R341 (R21). -/
def State.aroundOk (s : State) (site : Nat) : Option MeshRoutes → Bool
  | some r => site < 36 && ((s.setDie site 7).routesBad r).isNone
  | none => true

/-- Dies that fail together are substituted one after another, in ascending site order (R551). -/
def State.substTurn (s : State) (die : Nat) : Bool :=
  ((s.repairs ++ s.commit.toList).all fun c => c.moves.isEmpty) &&
    (List.range 32).all fun d => !s.mgr.changes.contains (100 + d) || decide (s.sites.getD die 99 ≤ s.sites.getD d 99)

/-- The self-tests of a die's substitution end: a bad reserve is marked failed and the next is taken; a good one is written to the record
and takes the number by repair commit, which also removes the failed site from the routes where its routers or bridges fail theirs (R21,
R22, R535, R551). -/
def execReserveDieSubstitution (die : Nat) (good : SubstTest) (s : State) : Host.Outcome State Fault Refusal :=
  let planned := s.mgr.changes.contains (300 + die) && !s.mgr.changes.contains (100 + die)
  if 32 ≤ die || !(planned || s.mgr.changes.contains (100 + die)) || !s.substTurn die || !s.quiet 1 || !s.aroundOk (s.sites.getD die 99) good.around then .next s else
  match s.reserveFor (s.sites.getD die 99) with
  | none => .next (if planned then (s.setDie (s.sites.getD die 99) 0).endPart (300 + die) else s.goAbsent die)
  | some r =>
    if !good.reserve then .next (s.badReserve r)
    else
      let s := s.recordSubstitution die r
      let s : State := if planned then s else { s with rlog := { s.rlog with failed := s.sites.getD die 99 :: s.rlog.failed } }
      let s := if planned then [2 * die, 2 * die + 1].foldl (fun s h => ((s.writeBackAll h).half h).lines.foldl (fun s (l : Nat × Line) => s.evict h l.1 false) (s.writeBackAll h)) s else s
      .next (s.requestRepair
        { epoch := 0, instant := 0, repair := true, routes := good.around, moves := [(die, r)], mask := none, sent := false })

end Sys2Proof.Machine
end

