-- ==== Sys2Proof/Machine/LinkEngine.lean ====
section
/-! DEFINITION. The link engine: ADD, COLL and its stages, STAT (R416 to R419). -/

namespace Sys2Proof.Machine

/-- Whether a slice's engine may take a command: bound, its job running, none in progress (R416), no unit of its scratch being zeroed
(R253). -/
def State.engineIdle (s : State) (sl : Nat) : Bool :=
  s.fld (aLnk (0x400 + 8 * sl)) 0 1 == 1 && s.jobOf sl == 1 && (s.engineOf sl).cmd.isNone && !s.sliceZeroing sl

/-- The command queue and the port die of a slice's engine. -/
def State.engineQ (s : State) (sl : Nat) : Nat := s.fld (aLnk (0x400 + 8 * sl)) 3 9
def State.engineDie (s : State) (sl : Nat) : Nat := s.fld (aLnk (0x400 + 8 * sl)) 1 2

/-- Slices of one engine are served round-robin, one command each (R416). -/
def State.engineTurn (s : State) (sl : Nat) : Bool :=
  rrNext (fun x => (s.engineOf x).turn) (fun x => s.engineDie x == s.engineDie sl && s.engineIdle x && (s.peekCmd (s.engineQ x)).isSome) sl
def State.engineStamp (s : State) : Nat := rrStamp fun x => (s.engineOf x).turn

/-- Takes the next command where its operation satisfies `p`, and performs it. -/
def State.engineTake (s : State) (sl : Nat) (p : Nat → Bool) (act : Item → State → State) : State :=
  if !s.engineIdle sl || !s.engineTurn sl then s else
  match s.peekCmd (s.engineQ sl) with
  | none => s
  | some w =>
    if !p (ifld w 0 8) then s else
    match s.popCmd (s.engineQ sl) with
    | (t, some (w, false)) => act w (t.putEngine sl { t.engineOf sl with turn := s.engineStamp })
    | (t, _) => t

/-- Ends a command with a status and no effect. -/
def State.engineRefuse (s : State) (sl : Nat) (w : Item) (status : Nat) : State :=
  (s.putEngine sl { s.engineOf sl with cmd := some (w, 0), failed := status }).engineFinish sl

/-- Reserved fields of a command that must be 0. -/
def cmdClean (w : Item) : Bool := ifld w 17 15 == 0 && ifld w 89 7 == 0 && ifld w 352 160 == 0

/-- ADD: the bytes at SRC go as red.line.ord contributions to another module, one packet for each 256 bytes (R417). A reserved
operation ends with status 0x01. -/
def execLinkEngineAdd (slice : Nat) (s : State) : Host.Outcome State Fault Refusal :=
  .next (s.engineTake slice (fun op => op != 2 && op != 3) fun w s =>
    let len := ifld w 128 32
    if ifld w 0 8 ≠ 1 ∨ !cmdClean w then s.engineRefuse slice w 1
    else if len % 128 ≠ 0 ∨ 2 ^ 20 < len then s.engineRefuse slice w 2
    else if !s.inScratch slice (128 * ifld w 160 32) len then s.engineRefuse slice w 3
    else
      let (s, bs, _) := s.scratchRead slice (128 * ifld w 160 32) len
      let s := s.putEngine slice { s.engineOf slice with cmd := some (w, 0), failed := 0, early := false }
      let s := (cutBy (len / 256 + 2) 256 0 len).foldl (fun (s : State) c =>
        (s.remoteSend (100 + s.engineDie slice) (.engine slice) slice (ifld w 64 16) 4 (addrType (128 * ifld w 192 32 + c.1) (ifld w 12 2)) (ifld w 32 32) ((bs.drop c.1).take c.2)).1) s
      if len = 0 then s.engineFinish slice else s)

/-- Dimensions of a collective in their order (R418). -/
def collDims (w : Item) : List Nat := (List.range 3).filter fun a => bit (ifld w 14 3) a

/-- Input, result and slot buffers of a stage, in bytes of the slice's scratch. -/
def collIn (w : Item) (i : Nat) : Nat := 128 * (if i = 0 then ifld w 160 32 else ifld w (192 + 32 * (i - 1)) 32)
def collRes (w : Item) (i : Nat) : Nat := 128 * ifld w (192 + 32 * i) 32
def collSlot (w : Item) (c : Nat) : Nat := 128 * ifld w 288 32 + c * ifld w 128 32

/-- One direction of a stage's ring multicast: each port of the direction carries half of the input (R416, R418). -/
def State.collSend (s : State) (sl : Nat) (w : Item) (i d hops c : Nat) (bs : List Byte) : State :=
  if hops = 0 then s else
  let len := bs.length
  let ports := (dirPorts d).filter s.portUp
  match ports with
  | [] => s.flag (aLnk 0x10) 2
  | p0 :: rest =>
    (List.range 2).foldl (fun s j =>
      let port := if j = 0 then p0 else rest.headD p0
      (cutBy (len / 256 + 2) 256 0 (len / 2)).foldl (fun (s : State) x =>
        let o := j * (len / 2) + x.1
        let ty := if ifld w 8 4 = 0 then 4 else 1
        let addr := if ifld w 8 4 = 0 then addrType (collRes w i + o) (ifld w 12 2) else collSlot w c + o
        s.transmit port { ty := ty, vc := s.vcOut 0 d none, kidx := 0, seq := 0, ack := 0, xp := 0, src := s.ownModule, dst := s.ownModule, job := s.jobNum sl, gen := s.gen sl, opid := 0, addr := addr, key := i + 4 * (ifld w 32 32 % 2 ^ 30), hops := hops, payload := (bs.drop o).take x.2 }) s) s

/-- Stages of a collective from stage `i` on, until one must wait for arrivals; a stage in a ring of one copies its input. -/
def State.collStages (sl : Nat) (w : Item) : List Nat → Nat → State → State
  | [], _, s => s.engineFinish sl
  | a :: rest, i, s =>
    let len := ifld w 128 32
    let (s, bs, _) := s.scratchRead sl (collIn w i) len
    if s.ring a = 1 then State.collStages sl w rest (i + 1) (s.scratchWrite sl (collRes w i) bs)
    else
      let c := s.coord a
      let s := s.putEngine sl { s.engineOf sl with cmd := some (w, i) }
      let s := if ifld w 8 4 = 0 then
          let r := s.addOrdered (.port (s.engineDie sl)) sl (collRes w i) (ifld w 12 2) c bs
          if r.2 then r.1.putEngine sl { r.1.engineOf sl with early := true } else r.1
        else s.scratchWrite sl (collSlot w c) bs
      (s.collSend sl w i (2 * a) (s.ring a / 2) c bs).collSend sl w i (2 * a + 1) ((s.ring a + 1) / 2 - 1) c bs

/-- COLL: checks, then its first stage (R418, R419). -/
def execColl (slice : Nat) (s : State) : Host.Outcome State Fault Refusal :=
  .next (s.engineTake slice (fun op => op == 2) fun w s =>
    let len := ifld w 128 32
    let rop := ifld w 8 4
    let ds := collDims w
    let out (o n : Nat) : Bool := !s.inScratch slice o n
    if !cmdClean w then s.engineRefuse slice w 1
    else if len % 128 ≠ 0 ∨ (if rop = 0 then 2 ^ 20 else 2 ^ 16) < len ∨ 3 < rop ∨ (rop = 3 ∧ ifld w 12 2 ≠ 0) then s.engineRefuse slice w 2
    else if out (collIn w 0) len ∨ (List.range ds.length).any (fun i => out (collRes w i) len) ∨
        (rop ≠ 0 ∧ ds.any fun a => out (collSlot w 0) (s.ring a * len)) ∨ (ifld w 320 32 ≠ 0xFFFFFFFF ∧ out (128 * ifld w 320 32) len) then s.engineRefuse slice w 3
    else if ifld w 32 32 ≠ (s.engineOf slice).seq then s.engineRefuse slice w 6
    else
      let e := s.engineOf slice
      let s := s.putEngine slice { e with seq := (e.seq + 1) % 2 ^ 32, cmd := some (w, 0), failed := 0, early := false }
      State.collStages slice w ds 0 s)

/-- The larger of two value and index pairs; of two NaNs the canonical one (R106, R418). -/
def maxIndex (x y : Nat) : Nat :=
  let a := Num.decode .f32 (x % 2 ^ 32)
  let b := Num.decode .f32 (y % 2 ^ 32)
  let low := if y / 2 ^ 32 < x / 2 ^ 32 then y else x
  if a.isNan && b.isNan then low / 2 ^ 32 * 2 ^ 32 + Num.Fmt.nanBits .f32 else if a.isNan then y else if b.isNan then x
  else if Num.less false a b then y else if Num.less false b a then x else low

/-- Reduces two inputs of a non-add stage element by element (R121, R418). -/
def reduce2 (rop ty : Nat) (x y : List Byte) : List Byte :=
  let n := if rop = 3 then 8 else atyBytes (typeOf ty)
  let aty := if ty = 3 then 1 else typeOf ty
  (List.range (x.length / n)).flatMap fun i =>
    let a := leNat ((x.drop (n * i)).take n)
    let b := leNat ((y.drop (n * i)).take n)
    leBytes n (if rop = 3 then maxIndex a b else atomOp (if rop = 1 then 2 else 1) aty a b 0)

/-- All inputs of a stage have arrived: a stage that does not add reduces its slots in ascending order, and the next stage
starts or the command ends (R418, R419). -/
def execCollStageComplete (slice : Nat) (s : State) : Host.Outcome State Fault Refusal :=
  let e := s.engineOf slice
  match e.cmd with
  | none => .next s
  | some (w, i) =>
    let a := (collDims w).getD i 0
    let len := ifld w 128 32
    let k := 4 * i + ifld w 32 32 % 4
    let need := (s.ring a - 1) * len
    if ifld w 0 8 ≠ 2 ∨ NMap.get 0 e.arrived k < need ∨ s.sliceZeroing slice then .next s else
    let s := s.putEngine slice { e with arrived := NMap.set 0 e.arrived k (NMap.get 0 e.arrived k - need) }
    let s := if ifld w 8 4 = 0 then s else
      let first := s.scratchRead slice (collSlot w 0) len
      let r := (List.range (s.ring a - 1)).foldl (fun (acc : State × List Byte) c =>
        let r := acc.1.scratchRead slice (collSlot w (c + 1)) len
        (r.1, reduce2 (ifld w 8 4) (ifld w 12 2) acc.2 r.2.1)) (first.1, first.2.1)
      r.1.scratchWrite slice (collRes w i) r.2
    .next (State.collStages slice w ((collDims w).drop (i + 1)) (i + 1) s)

/-- STAT: a completion item with the bytes reduced and the commands completed since CLR last cleared them (R165, R416). -/
def execLinkEngineStat (slice : Nat) (s : State) : Host.Outcome State Fault Refusal :=
  .next (s.engineTake slice (fun op => op == 3) fun w s =>
    let e := s.engineOf slice
    let s := if ifld w 8 1 = 1 then s.putEngine slice { e with done := 0, bytes := 0 } else s
    if s.qAllowed (ifld w 80 9) slice true then
      s.pushItem (ifld w 80 9) 3 (complItem 3 0 (ifld w 96 32) e.bytes 0 0 0 0 0 s.time.toNat e.done) slice
    else s)

end Sys2Proof.Machine
end

