-- ==== Sys2Proof/Machine/Pace.lean ====
section
/-! DEFINITION. Pace notices and matching, the forced-slow pin, the cap, and the 100 ms boundary (R268, R420, R421, R521, R525). -/

namespace Sys2Proof.Machine

/-- The lowest notice held: clock and source, ties to the lowest module. -/
def State.lowestNotice (s : State) : Option (Nat × Nat) :=
  NMap.foldV s.notices none fun b src n => match b with | some x => if n.1 < x.1 then some (n.1, src) else b | none => some (n.1, src)

/-- LNK_PACE_STATUS after the notices or MATCH changed; a matched clock is a limit of every half (R421). -/
def State.rematch (s : State) : State :=
  match s.lowestNotice with
  | some (f, src) => (s.setFld (aLnk 0x20) 22 15 src).setFld (aLnk 0x20) 11 11 (if s.fld (aLnk 0x18) 1 1 = 1 then max (s.fld (aLnk 0x18) 2 11) (f / 25 * 25) else 0)
  | none => s.setFld (aLnk 0x20) 11 26 0

/-- A notice is recorded; one with a clock of 0 ends its source's (R420, R421). -/
def execPace (b : Bugle) (src clock cause : Nat) (s : State) : Host.Outcome State Fault Refusal :=
  .next (s.bugleIn 0x12 b (.pace b src clock cause) fun s =>
    { s with notices := if clock = 0 then NMap.del s.notices (src % 2 ^ 15) else NMap.put s.notices (src % 2 ^ 15) (clock, s.time.toNat) }.rematch)

/-- A notice that has not been repeated within 2 ms expires (R421). -/
def execPaceNoticeExpiry (src : Nat) (s : State) : Host.Outcome State Fault Refusal :=
  match NMap.find? s.notices src with
  | some (_, t) => .next (if s.time.toNat < t + 2000000 then s else { s with notices := NMap.del s.notices src }.rematch)
  | none => .next s

/-- A pace notice as a packet (R403, R404). -/
def State.noticePacket (s : State) (dst clock cause hops : Nat) : Packet :=
  { ty := 8, vc := 4, kidx := 0, seq := 0, ack := 0, xp := 0, src := s.ownModule, dst := dst, job := 0, gen := 0, opid := 0, addr := 0, key := clock + cause * 2 ^ 11, hops := hops, payload := [] }

/-- One direction of the ring multicast of a notice. -/
def State.noticeRing (s : State) (d hops clock cause : Nat) : State :=
  if hops = 0 then s else
  match s.portOfDir (46 + s.actDie) d with
  | some p => s.transmit p (s.noticePacket s.ownModule clock cause hops)
  | none => s.flag (aLnk 0x10) 2

/-- A notice goes round the three rings, and to MGRMOD (R420). -/
def State.sendNotice (s : State) (clock cause : Nat) : State :=
  let s := s.setFld (aLnk 0x20) 0 11 clock
  let s := (List.range 3).foldl (fun (s : State) a => (s.noticeRing (2 * a) (s.ring a / 2) clock cause).noticeRing (2 * a + 1) ((s.ring a + 1) / 2 - 1) clock cause) s
  if s.fld (aLnk 0x18) 39 1 = 1 then s.linkSend (46 + s.actDie) none (s.noticePacket (s.fld (aLnk 0x18) 24 15) clock cause 0) else s

/-- The lowest clock, with its cause, of the enabled halves that a cap, a thermal limit, FORCE_SLOW_N or the budget holds below NOMINAL. -/
def State.heldLow (s : State) : Option (Nat × Nat) :=
  (List.range 64).foldl (fun b h =>
    let f := s.mhz h
    let c := s.fld (aPwrHalf h) 11 3
    if !s.runs h || c = 0 || decide (4 < c) || decide (s.fld (aLnk 0x18) 13 11 ≤ f) then b
    else match b with | some x => if f < x.1 then some (f, c) else b | none => some (f, c)) none

/-- M0 sends the notice of the condition that has lasted 10 µs, repeats it, or ends it (R420). -/
def execPaceNoticeSend (s : State) : Host.Outcome State Fault Refusal :=
  if s.fld (aLnk 0x18) 0 1 = 0 then .next s else
  match s.heldLow with
  | some (f, c) => .next (s.sendNotice f c)
  | none => .next (if s.fld (aLnk 0x20) 0 11 = 0 then s else s.sendNotice 0 0)

/-- Every enabled die's current budget is sent again with the forced-slow flag (R525). -/
def State.sendSlow (s : State) (slow : Bool) : State :=
  if s.phase ≠ .ready then s else
  s.dies.foldl (fun (s : State) d =>
    let x := s.diePower d
    s.send (.budget (bugleTo 0x10 s.actDie (posOf (s.sites.getD d 0))) d x.watts x.period x.capped slow)) s

/-- FORCE_SLOW_N asserts, filtered (R525). -/
def execForceSlowNAssert (s : State) : Host.Outcome State Fault Refusal :=
  if s.pins.slow then .next s else .next (({ s with pins := { s.pins with slow := true } }.setFld (aPwr 0x20) 22 1 1).sendSlow true)

/-- FORCE_SLOW_N deasserts, filtered; an input that was ignored is acted on again (R525, R565). -/
def execForceSlowNDeassert (s : State) : Host.Outcome State Fault Refusal :=
  if !s.pins.slow then .next s else .next (({ s with pins := { s.pins with slow := false } }.setFld (aPwr 0x20) 22 2 0).sendSlow false)

/-- A write of PWR_CAP; a reserved value changes nothing and is recorded (R8, R521). -/
def execPwrCap (host value : Nat) (s : State) : Host.Outcome State Fault Refusal :=
  .next (s.mgrWrite host (aPwr 8) fun s =>
    let v := value % 2 ^ 14
    if v < 4000 ∨ 12000 < v then s.badAccess host (aPwr 8) 2 else s.writeCap v)

/-- Rounded down to a multiple of 4,096 (R268). -/
def coarse (n : Nat) : Nat := n / 4096 * 4096

/-- The sampled registers of a half, a node, a queue. -/
def State.sampleHalf (s : State) (h : Nat) (x : Half) : State :=
  let cls (m : NMap Nat) (c : Nat) : Nat := ((List.range 16).map fun i => NMap.get 0 m (16 * c + i)).sum
  let na := (List.range 8).foldl (fun v c => v + (NMap.get Thrash.init x.classes c).na.toNat * 2 ^ c) 0
  let rate := (List.range 8).foldl (fun v c => v + (NMap.get Thrash.init x.classes c).rate % 256 * 2 ^ (8 * c)) 0
  let s := ((s.setReg (aLlm h 0x38) (na + x.switches % 2 ^ 32 * 2 ^ 16)).setReg (aLlm h 0x40) rate).setReg (aLlm h 0x68) x.pfs.length
  let s := (List.range 8).foldl (fun (s : State) c =>
    let s := (s.setReg (aLlm h (0x100 + 8 * c)) (coarse (cls x.accs c))).setReg (aLlm h (0x140 + 8 * c)) (coarse (cls x.hits c))
    (List.range 16).foldl (fun (s : State) i =>
      (s.setReg (aLlm h (0x400 + 0x80 * i + 8 * c)) (coarse (NMap.get 0 x.accs (16 * c + i)))).setReg (aLlm h (0x440 + 0x80 * i + 8 * c)) (coarse (NMap.get 0 x.hits (16 * c + i)))) s) s
  s.putHalf h { x with accs := [], hits := [] }
def State.sampleNode (s : State) (n : Nat) (x : Node) : State :=
  let c (k : Nat) : Nat := coarse (NMap.get 0 x.counts k)
  let s := ((s.setReg (aMem n 0x40) (c 0)).setReg (aMem n 0x48) (c 1)).setReg (aMem n 0x50) (c 2)
  let s := (((s.setReg (aCoh n 0x10) x.dir.length).setReg (aCoh n 0x18) (c 3)).setReg (aCoh n 0x20) (c 4)).setReg (aCoh n 0x28) (c 5)
  let s := (s.setReg (aCoh n 0x30) (c 6 % 2 ^ 32 + c 7 % 2 ^ 32 * 2 ^ 32)).setReg (aCoh n 0x38) (c 8)
  s.putNode n { x with counts := [] }
def State.sampleQueue (s : State) (q : Nat) (x : Queue) : State :=
  ((s.setFld (aCq q 0x20) 0 1 x.fc.toNat).setFld (aCq q 0x20) 1 1 (s.qHeld q).toNat).setFld (aCq q 0x20) 4 25 (coarse x.items.length)

/-- Step of a die's coarsened power in 0.1 W (R530). -/
def dieStep (d : Nat) : Nat := if d < 36 then 100 else if d < 54 then 16 else if d < 58 then 20 else 10

/-- A 100 ms boundary of the time base: every sampled register takes its value of the window that ends; without a measurement the
power readings stay (R268, R502, R530, R575). -/
def execSampleWindowBoundary (s : State) : Host.Outcome State Fault Refusal :=
  let s := s.chargeAll
  let s := NMap.foldV s.halves s State.sampleHalf
  let s := NMap.foldV s.nodes s State.sampleNode
  let s := NMap.foldV s.queues s State.sampleQueue
  let s := NMap.foldV s.slices s fun s sl x => (s.setReg (aSlc sl 0x50) (coarse (x.charged / 6144))).putSlice sl { x with charged := 0 }
  let p := s.power
  if p.samples = 0 then .next s else
  let mean (d : Nat) : Nat := NMap.get 0 p.sums d / p.samples
  let s := s.setFld (aTel 0) 16 14 (mean 60 / 1000 / 240 * 240)
  let s := (List.range 60).foldl (fun (s : State) d => s.setFld (aTel (0x100 + 8 * d)) 0 16 (mean d / 100 / dieStep d * dieStep d)) s
  .next { s with power := { p with samples := 0, sums := [] } }

end Sys2Proof.Machine
end

