-- ==== Sys2Proof/Machine/Boot.lean ====
section
/-! DEFINITION. Power-on, DEV_READY, the sideband inputs, the clocks and the management bus (R483, R484, R511, R512, R535 to R539, R557 to
R568). -/

namespace Sys2Proof.Machine

/-- Power is gone or the rails are down: only the flash, the fuses of the record and the levels of the pins are left (R512, R535, R546). -/
def State.powerDown (s : State) (pins : Pins) (ph : Phase) : State :=
  State.assignSites { State.reset with
    pending := s.pending, free := s.free, ids := s.ids, out := s.out, errSaved := s.errSaved
    dieState := s.lastingDies, pins := pins, rlog := s.rlog, qfcIn := s.qfcIn, phase := ph
    mesh := { State.reset.mesh with links := NMap.mapV s.mesh.links fun x => let (m, sp) := linkMode x.lanes; { BLink.init with mode := m, was := m, spares := sp, lanes := x.lanes } }
    mgr := { State.reset.mgr with images := s.mgr.images }
    sec := { State.reset.sec with akey := none, spares := [], nextKey := s.sec.nextKey, record := s.sec.record }
    regs := s.regs.filter fun (x : Nat × W64) => x.1 = 0x100 || x.1 = aPwr 0x20 || x.1 = aCqG 0x48 }

/-- The power-on sequence begins: the straps are read, the logical numbers stand where the record has them, the nodes run in blocking mode
(R19, R322, R537, R563). -/
def State.powerOn (s : State) (strap : Nat) : State :=
  let s := (s.powerDown { s.pins with pwrEn := true } .running).cohAll 1
  let s := (s.setReg 0x100 (s.fld 0x100 6 3 * 64 + strap % 64)).setFld (aSec 0) 8 16 (s.rlog.unlocks % 65536)
  let s := (((s.setReg (aPwr 0x20) 0).setFld (aPwr 0x20) 0 14 12000).setFld (aPwr 0x20) 14 8 (s.fld (aPwr 0x20) 14 8)).setFld (aPwr 0x20) 22 1 s.pins.slow.toNat
  let s := ((s.setReg (aCqG 0x48) (s.fld (aCqG 0x48) 8 8 * 256)).setFld (aSec 0) 5 1 0).withRetired
  let s := (s.setFld (aErr 0) 1 1 (!s.errSaved.isEmpty).toNat).setReg aOwner (if s.sec.record.isEmpty then 0 else Config.recordField 1 s.sec.record % 2 ^ 19)
  let s : State := { s with qfcIn := List.filter (fun (x : Nat × Nat) => decide (x.1 < 16)) s.qfcIn }
  let s := (s.setFld (aHpStatus 0) 0 2 0).setFld (aHpStatus 1) 0 2 0
  s.setFld aCfgBoot 0 4 0

/-- Bounds of steps 1 to 11 in ms after the origin (R537). -/
def stepBounds : List Nat := [0, 10, 150, 300, 2300, 6300, 7500, 19500, 21000, 21100, 32300]

/-- Whether the time base counts: from step 6 on (R4, R537). -/
def State.timed (s : State) : Bool := s.phase == .ready || decide (6 ≤ s.fld aCfgBoot 0 4)

/-- Step 3: the images and the records are measured, the boot count rises (R487, R535, R537). -/
def State.bootRecords (s : State) : State :=
  let m := NMap.put (s.measured true) 6 s.recordSlot
  let s : State := { s with rlog := { s.rlog with boots := s.rlog.boots + 1 }
                            sec := { s.sec with meas := if s.sec.record.isEmpty then m else NMap.put m 7 (Config.sha256 s.sec.record) } }
  s.setFld (aSec 8) 32 32 (s.rlog.boots % 2 ^ 32)

/-- The sequence has completed step `k`, with what steps 3, 6 and 10 do on the way: the records, the time base at 0, normal service of the
nodes (R4, R322, R537). -/
def State.bootTo (s : State) (k : Nat) : State :=
  let was := s.fld aCfgBoot 0 4
  let s := if was < 3 ∧ 3 ≤ k then s.bootRecords else s
  let s : State := if was < 6 ∧ 6 ≤ k then { s with time := 0 } else s
  let s := if was < 10 ∧ 10 ≤ k then s.cohAll 0 else s
  s.setFld aCfgBoot 0 4 k

/-- A tick of the power-on: each step completes at its bound (log 51); the sequence holds after step 3 while RESET_N is asserted or REFCLK is absent, at a power-on without REFCLK with FAIL set (R566, R568). -/
def State.bootTick (s : State) : State :=
  let s : State := { s with bootTime := s.bootTime + 1 }
  let was := s.fld aCfgBoot 0 4
  let now := max was (stepBounds.countP fun b => decide (b * 1000000 ≤ s.bootTime))
  if was < 4 ∧ 3 ≤ now ∧ s.holds then
    let s : State := { (if was < 3 then s.bootTo 3 else s) with phase := .held }
    if s.pins.resetN || s.fld aCfgBoot 8 4 ≠ 0 then s else
    let (v, s) := (s.setFld aCfgBoot 4 1 1).freely 21
    s.record { sev := v % 7, block := 0, code := 0x8001, die := s.actDie, detail := 4 }
  else if now = was then s else s.bootTo now

/-- PWR_EN asserts, filtered: the sequence begins, after the 100 ms of R512 where the assertion came early, and only with the input in
range (R511, R512, R557). -/
def State.pwrEnUp (s : State) (early : Bool) (strap : Nat) : State :=
  if s.pins.pwrEn then s
  else if s.phase ≠ .off || !s.pins.input then { s with pins := { s.pins with pwrEn := true } }
  else if early then { s with pins := { s.pins with pwrEn := true }, phase := .delayed }
  else s.powerOn strap
def execPwrEnAssert (early : Bool) (strap : Nat) (s : State) : Host.Outcome State Fault Refusal := .next (s.pwrEnUp early strap)

/-- The 100 ms have passed (R512). -/
def execPwrEnDelayedAssert (strap : Nat) (s : State) : Host.Outcome State Fault Refusal :=
  .next (if s.phase = .delayed && s.pins.pwrEn && s.pins.input then s.powerOn strap else s)

/-- PWR_EN deasserts, filtered: DEV_READY drops, nothing is kept (R512). -/
def State.pwrEnDown (s : State) : State := if s.pins.pwrEn then s.powerDown { s.pins with pwrEn := false } .off else s
def execPwrEnDeassert (s : State) : Host.Outcome State Fault Refusal := .next s.pwrEnDown

/-- The IBCs stop: the module is off as without input (R512, R557). -/
def State.inputLost (s : State) : State := s.powerDown { s.pins with input := false } .off
def execInputUndervoltage (s : State) : Host.Outcome State Fault Refusal := .next s.inputLost
def execInputOvervoltage (s : State) : Host.Outcome State Fault Refusal := .next s.inputLost

/-- The input has stayed within 62 to 78 V for 100 ms; with PWR_EN asserted a new power-on begins (R557). -/
def execInputRestored (strap : Nat) (s : State) : Host.Outcome State Fault Refusal :=
  if s.pins.input then .next s else
  let s : State := { s with pins := { s.pins with input := true } }
  .next (if s.pins.pwrEn then s.powerOn strap else s)

/-- A compute die that fails self-test before DEV_READY gives its number to a reserve, its site is in transit mode where its routers and
bridges pass; with no reserve left the number is absent (R21 to R23, R538, R551). -/
def State.bootSubstitute (s : State) (x : Nat × Bool) : State :=
  let d := x.1
  let site := s.sites.getD d 99
  if 32 ≤ d || 36 ≤ site then s else
  let s : State := { s with rlog := { s.rlog with failed := site :: s.rlog.failed } }.setDie site (if x.2 then 2 else 7)
  let s := s.record { sev := 1, block := 1, code := 0x8002, die := site, detail := d }
  match s.reserveFor site with
  | some r =>
    let s := s.recordSubstitution d r
    (({ s with sites := s.sites.set d r }.setDie r 0).dieReset r).record { sev := 1, block := 1, code := 0x8003, die := r, detail := bayDetail d site r }
  | none => { s with sites := s.sites.set d 99 }

/-- A zeroed burst, or sector of a half's own memory, that fails its read-back is poisoned and recorded (R266, R295, R539). -/
def State.unreadSector (s : State) (sec : Nat) : State :=
  if isScratch (sec / 4) then s.llmError (scratchHalf (32 * sec)) (.sector (sec / 4) (sec % 4) true) else s.poisonBurst sec false

/-- Steps 4 to 11 have succeeded: DEV_READY rises, unless no die has an identity or fewer than 6 IBCs are good; then the sequence stops.
M1 acts where M0 has no identity; keys exist; routes are loaded; CUROWNER takes RECOWNER (R299, R430, R447, R484, R486, R510, R537,
R538). -/
def State.devReady (s : State) (r : BootReport) : State :=
  let n := ((List.range 8).filter fun i => bit (s.fld (aPwr 0x20) 14 8) i).length
  let fresh := s.fld aCfgBoot 8 4 = 0
  let id0 := if fresh then r.id0 else s.fld (aSec 0) 3 1 == 1
  let id1 := if fresh then r.id1 else s.fld (aSec 0) 4 1 == 1
  let s := if id0 then s else s.flag (aSec 0x10) 0
  let s := if id1 then s else s.flag (aSec 0x10) 1
  if (!id0 && !id1) || decide (n < 6) then
    let step := if !id0 && !id1 then 5 else 12
    let (v, s) := (((s.bootTo (max (s.fld aCfgBoot 0 4) (step - 1))).setFld aCfgBoot 0 4 (step - 1)).setFld aCfgBoot 4 1 1).freely 21
    { s with phase := .stopped }.record { sev := v % 7, block := 0, code := 0x8001, die := s.actDie, detail := step }
  else
    let act := if fresh then (!id0).toNat else s.fld (aSec 0) 2 1
    let s := (((s.setFld (aSec 0) 2 1 act).setFld (aSec 0) 3 1 id0.toNat).setFld (aSec 0) 4 1 id1.toNat).setFld (aSec 0) 5 1 1
    let k := s.sec.nextKey
    let s : State := { s.bootTo 12 with sec := { (s.bootTo 12).sec with akey := some k, spares := if id0 && id1 then [(1 - act, k + 1)] else [], nextKey := k + 2 }, phase := .ready }
    let s := r.badReserves.foldl State.badReserve s
    let s := r.failed.foldl State.bootSubstitute s
    let s := (r.untrained.filter (· < 18)).foldl (fun (s : State) n => if s.fld (aMem n 8) 0 2 = 3 then s else s.setFld (aMem n 8) 0 2 0) s
    let s := r.unread.foldl State.unreadSector s
    let s := match r.routes with | some x => if (s.routesBad x).isNone then s.loadRoutes (s.fld aCommitStatus 32 32) (some x) else s | none => s
    let s := s.setBmask.setFld (aMem 0 0x10) 8 18 ((List.range 18).foldl (fun v n => if s.fld (aMem n 8) 0 2 = 1 then v + 2 ^ n else v) 0)
    let s := (s.setFld aCfgBoot 4 1 0).setFld aCfgBoot 16 32 (s.bootTime / 1000000)
    let s := if fresh then s.setFld aOwner 19 2 (s.fld aOwner 0 2 % 3) else s
    ((s.record { sev := 6, block := 0, code := 0x8009, die := s.actDie }).emit (.ready 0)).emit (.ready 1)
def execDevReady (r : BootReport) (s : State) : Host.Outcome State Fault Refusal :=
  .next (if s.phase = .running ∧ !s.holds then s.devReady r else s)

/-- DEV_READY has not risen: FAIL is set, STEP holds the last completed step, the log holds the cause (R536, R538). -/
def execBootTimeout (step : Nat) (s : State) : Host.Outcome State Fault Refusal :=
  if s.phase ≠ .running || s.fld aCfgBoot 4 1 = 1 then .next s else
  let (v, s) := (((if s.fld aCfgBoot 0 4 < step then s.bootTo step else s).setFld aCfgBoot 0 4 step).setFld aCfgBoot 4 1 1).freely 21
  .next ({ s with phase := .stopped }.record { sev := v % 7, block := 0, code := 0x8001, die := s.actDie, detail := step + 1 })

/-- The sequence held after step 3 runs again from step 4 where nothing holds it (R566, R568). -/
def State.unhold (s : State) : State := if s.phase = .held ∧ !s.holds then { s with phase := .running }.setFld aCfgBoot 4 1 0 else s

/-- RESET_N asserts, filtered: a module reset with cause 1; before step 3 the sequence reaches it and holds (R566). -/
def State.resetDown (s : State) : State :=
  if s.pins.resetN then s else
  let s : State := { s with pins := { s.pins with resetN := true } }
  match s.phase with
  | .ready | .tripped | .stopped => s.moduleReset 1
  | .running => if s.fld aCfgBoot 0 4 < 3 then s else s.moduleReset 1
  | .off | .delayed | .held => s
def execResetNAssert (s : State) : Host.Outcome State Fault Refusal := .next s.resetDown

/-- RESET_N deasserts, filtered (R565, R566). -/
def State.resetUp (s : State) : State := if s.pins.resetN then (({ s with pins := { s.pins with resetN := false } }).setFld 0x100 9 1 0).unhold else s
def execResetNDeassert (s : State) : Host.Outcome State Fault Refusal := .next s.resetUp

/-- REFCLK is lost: shared machinery resets, and holds after step 3 (R568). -/
def execRefclkLoss (s : State) : Host.Outcome State Fault Refusal :=
  if s.fld 0x100 6 1 = 0 then .next s else
  let s := s.setFld 0x100 6 1 0
  .next (match s.phase with
    | .ready => s.moduleReset 2
    | .running => if s.fld aCfgBoot 0 4 < 4 then s else s.moduleReset 2
    | _ => s)

/-- REFCLK is within tolerance again (R568). -/
def execRefclkReturn (s : State) : Host.Outcome State Fault Refusal := .next (s.setFld 0x100 6 1 1).unhold

/-- A change that came sooner than 10 µs after the last one is counted and takes effect now (R564). -/
def execRateLimitedChange (pin : SbPin) (asserted early : Bool) (strap : Nat) (s : State) : Host.Outcome State Fault Refusal :=
  let s := if s.phase = .off || s.phase = .delayed then s else (s.satInc 0x110 0 32).flag 0x108 3
  match pin with
  | .pwrEn => .next (if asserted then s.pwrEnUp early strap else s.pwrEnDown)
  | .resetN => .next (if asserted then s.resetDown else s.resetUp)
  | .forceSlowN => if asserted then execForceSlowNAssert s else execForceSlowNDeassert s
  | .qfcIn i => execQfcInChange i asserted s

/-- An event input has been asserted for more than 10 s: flag, record of severity 5, ALERT_N; the module acts on it no more, but RESET_N
holds on (R525, R565). -/
def execStuckEventInput (pin : SbPin) (s : State) : Host.Outcome State Fault Refusal :=
  let note (s : State) (i u : Nat) : State := (s.flag 0x108 i).record { sev := 5, block := 0, code := i, die := s.actDie, unit := u }
  if s.phase = .off || s.phase = .delayed then .next s else
  match pin with
  | .pwrEn => .next s
  | .resetN => .next (if s.pins.resetN then (note s 0 0).flag 0x100 9 else s)
  | .forceSlowN => .next (if s.pins.slow then (((note s 1 0).flag (aPwr 0x28) 4).flag (aPwr 0x20) 23).sendSlow false else s)
  | .qfcIn i =>
    if 8 ≤ i || s.fld (aCqG 0x48) (8 + i) 1 = 0 then .next s else
    let s := (note s 2 i).flag 0x100 (10 + i)
    .next (State.qServe (s.fld (aCqG (8 * i)) 11 9) qFuel { s with qfcIn := NMap.put s.qfcIn (16 + i) 1 })

/-- The module takes part in address assignment from step 3 on; before, it does not respond (R567). -/
def State.onBus (s : State) : Bool := s.phase != .off && s.phase != .delayed && decide (3 ≤ s.fld aCfgBoot 0 4)

/-- The provisioned ID of the module (R567). -/
def State.provisionedId (s : State) : Nat := 0x5A3 * 2 ^ 33 + 0xD320 * 2 ^ 16 + s.fld 0x100 0 6

/-- The controller assigns a dynamic address in answer to the provisioned ID (R567). -/
def execDynamicAddressAssignment (addr : Nat) (s : State) : Host.Outcome State Fault Refusal :=
  .next (if s.onBus then ({ s with i3c := { s.i3c with addr := some (addr % 128) } }).emit (.answer 3 s.provisionedId) else s)

/-- A private write: the first byte selects an item, further bytes are ignored (R567). -/
def execPrivateWrite (bytes : List Byte) (s : State) : Host.Outcome State Fault Refusal :=
  .next (match bytes with
    | b :: _ => if s.onBus && s.i3c.addr.isSome then { s with i3c := { s.i3c with index := b.toNat } } else s
    | [] => s)

/-- A private read: the selected item in 8 bytes; an index not listed returns zeros (R567). -/
def State.i3cItem (s : State) : Nat :=
  match s.i3c.index with
  | 0 => s.reg 0 | 1 => s.reg aCfgBoot | 2 => s.reg (aErr 0) | 3 => s.reg (aPwr 0x20) | 4 => s.reg (aTel 0) | 5 => s.reg (aTel 0x300) | 6 => s.reg 0x100
  | _ => 0
def execPrivateRead (s : State) : Host.Outcome State Fault Refusal :=
  .next (if s.onBus && s.i3c.addr.isSome then s.emit (.answer 3 s.i3cItem) else s)

end Sys2Proof.Machine
end

