-- ==== Sys2Proof/Machine/Bridges.lean ====
section
/-! DEFINITION. Lanes and links of the bridges that fail or retrain, and dies that lose every link (R21, R355 to R361). -/

namespace Sys2Proof.Machine

/-- What follows when a die has lost every link (R21, R360): a compute die has failed, a reserve is one no more; a node resets the module; a
port die's links go down, as does the host port of a management die. -/
def State.cutOff (s : State) (d : Nat) : State :=
  if !s.dieCut d then s
  else if d < 36 then
    match (List.range 32).find? fun n => s.sites.getD n 99 == d with
    | some n => if s.mgr.changes.contains (100 + n) then s else s.dieFails n
    | none => (s.badReserve d).setDie d 7
  else if d < 54 then (if s.fld (aMem (d - 36) 8) 0 2 = 3 then s else s.moduleReset 2)
  else if d < 58 then
    let s : State := { s with dieState := NMap.put s.dieState d 7 }
    ((List.range 16).foldl (fun (s : State) p => if portDie p = d - 54 ∧ s.fld (aPort p 8) 0 2 ≠ 0 then s.portOut p 0 else s) s).failQueues fun e => e == d + 10
  else ({ s with dieState := NMap.put s.dieState d 7 }).hostDown (d - 58)

/-- A link resumes in a mode or is down: status, event, record, entries (R356 to R360). -/
def State.linkResume (s : State) (d e l : Nat) (good : BitVec 72) : State :=
  let x := s.blink d e l
  let (m, sp) := linkMode good
  let was := if x.mode = 3 then x.was else x.mode
  let s := s.putLink d e l { x with mode := m, was := m, spares := sp, lanes := good, replays := [] }
  if m = was then s else
  let ends := match facing d e with | some (d', e') => [(d, e), (d', e')] | none => [(d, e)]
  let s := match ends.findSome? fun x => (s.windowOf x.1).map fun w => (w, x.2) with
    | some (w, k) => s.setReg (aNet 0x10) (w + k * 2 ^ 6 + l * 2 ^ 8 + m * 2 ^ 11 + 2 ^ 63)
    | none => s
  let s := s.netRec d l (if m < was then 5 else 0) m
  let s := ends.foldl (fun s x => s.moveEntries x.1 x.2 l was m) s
  if (List.range 8).all fun k => (s.blink d e k).mode == 0 then ends.foldl (fun s x => s.cutOff x.1) (s.flag (aNet 0x20) 5) else s

/-- A lane is declared failed: the link retrains, or is down where a clock or control lane failed (R355, R357). -/
def execLaneFailed (die edge link lane : Nat) (s : State) : Host.Outcome State Fault Refusal :=
  let x := s.blink die edge link
  if 8 ≤ link || 72 ≤ lane || (facing die edge).isNone || x.mode = 0 then .next s else
  let good := x.lanes &&& ~~~(1#72 <<< lane)
  let s := s.putLink die edge link { x with lanes := good }
  .next (if lane < 68 then s.startRetrain die edge link else s.linkResume die edge link good)

def execLinkRetrain (die edge link : Nat) (s : State) : Host.Outcome State Fault Refusal := .next (s.startRetrain die edge link)

/-- The retrain of a link ends with the lanes that passed the test (R356, R357, R361). -/
def execLinkRetrainDone (die edge link : Nat) (good : BitVec 72) (s : State) : Host.Outcome State Fault Refusal :=
  .next (if (s.blink die edge link).mode = 3 ∧ link < 8 then s.linkResume die edge link good else s)

end Sys2Proof.Machine
end

