-- ==== Sys2Proof/Machine/Coh.lean ====
section
/-! DEFINITION. The meaning of each coherence message and event (spec 11). A message that is not on its way changes nothing. -/

namespace Sys2Proof.Machine

/-- RdS at the home (R312, R320). -/
def execRds (q : CohReq) (s : State) : Host.Outcome State Fault Refusal := .next (s.request (.rds q))
/-- RdX at the home (R312). -/
def execRdx (q : CohReq) (hold : Bool) (s : State) : Host.Outcome State Fault Refusal := .next (s.request (.rdx q hold))
/-- RdXN at the home (R312). -/
def execRdxn (q : CohReq) (s : State) : Host.Outcome State Fault Refusal := .next (s.request (.rdxn q))
/-- RdNA at the home (R312). -/
def execRdna (q : CohReq) (s : State) : Host.Outcome State Fault Refusal := .next (s.request (.rdna q))
/-- RdFine at the home (R288, R312). -/
def execRdfine (q : CohReq) (sector : Nat) (s : State) : Host.Outcome State Fault Refusal := .next (s.request (.rdfine q sector))
/-- WrNA at the home (R312). -/
def execWrna (q : CohReq) (bytes : List (Nat × Byte)) (s : State) : Host.Outcome State Fault Refusal := .next (s.request (.wrna q bytes))
/-- PutM at the home (R312, R318). -/
def execPutm (q : CohReq) (d : LineData) (s : State) : Host.Outcome State Fault Refusal := .next (s.request (.putm q d))
/-- DropM at the home (R312, R318). -/
def execDropm (q : CohReq) (s : State) : Host.Outcome State Fault Refusal := .next (s.request (.dropm q))
/-- HoldEnd at the home (R312). -/
def execHoldend (q : CohReq) (s : State) : Host.Outcome State Fault Refusal := .next (s.request (.holdend q))
/-- Atom at the home (R325, R326). -/
def execAtomRequest (q : CohReq) (a : AtomReq) (s : State) : Host.Outcome State Fault Refusal := .next (s.request (.atomRequest q a))

/-- Inv at a half (R315, R317). -/
def execInv (half line node : Nat) (ackTo : Option Party) (s : State) : Host.Outcome State Fault Refusal :=
  .next (s.onNet (.inv half line node ackTo) fun s => s.takeInv half line node ackTo)
/-- FwdS at the recorded owner (R317). -/
def execFwds (f : Fwd) (s : State) : Host.Outcome State Fault Refusal := .next (s.takeFwd (.fwds f) f .fwds)
/-- FwdX at the recorded owner (R317). -/
def execFwdx (f : Fwd) (s : State) : Host.Outcome State Fault Refusal := .next (s.takeFwd (.fwdx f) f .fwdx)
/-- FwdRd at the recorded owner (R317). -/
def execFwdrd (f : Fwd) (s : State) : Host.Outcome State Fault Refusal := .next (s.takeFwd (.fwdrd f) f .fwdrd)
/-- Recall at the recorded owner (R317). -/
def execRecall (f : Fwd) (s : State) : Host.Outcome State Fault Refusal := .next (s.takeFwd (.recall f) f .recall)
/-- FwdOp at the recorded owner (R245, R317). -/
def execFwdop (f : Fwd) (op : OpBody) (s : State) : Host.Outcome State Fault Refusal := .next (s.takeFwd (.fwdop f op) f (.fwdop op))

/-- Data at the requester (R319). -/
def execDataMsg (m : DataMsg) (s : State) : Host.Outcome State Fault Refusal := .next (s.onNet (.dataMsg m) fun s => s.takeData m)
/-- Grant at the requester: ownership without data (R312, R319). -/
def execGrant (dst : Party) (tag node line ackcnt : Nat) (s : State) : Host.Outcome State Fault Refusal :=
  .next (s.onNet (.grant dst tag node line ackcnt) fun s => s.takeData ⟨dst, tag, node, line, .m, ackcnt, noData, none⟩)
/-- Ack at the requester or the home (R319). -/
def execAck (half line node : Nat) (dst : Option Party) (s : State) : Host.Outcome State Fault Refusal :=
  .next (s.onNet (.ack half line node dst) fun s => s.takeAck line node dst)
/-- NoData at the home (R317). -/
def execNodata (f : Fwd) (kind : FwdKind) (s : State) : Host.Outcome State Fault Refusal :=
  .next (s.onNet (.nodata f kind) fun s => s.takeNodata f kind)
/-- WbData at the home (R317). -/
def execWbdata (f : Fwd) (kind : FwdKind) (d : LineData) (s : State) : Host.Outcome State Fault Refusal :=
  .next (s.onNet (.wbdata f kind d) fun s => s.takeWbdata f d)
/-- AtomRet at the requester (R313). -/
def execAtomret (dst : Party) (tag node line : Nat) (vals : List (Nat × Nat)) (poison : Bool) (s : State) : Host.Outcome State Fault Refusal :=
  .next (s.onNet (.atomret dst tag node line vals poison) fun s => s.takeAtomret dst tag node line vals poison)
/-- Done at the home (R313). -/
def execDoneMsg (src : Party) (node line : Nat) (s : State) : Host.Outcome State Fault Refusal :=
  .next (s.onNet (.doneMsg src node line) fun s => s.takeDone src node line)
/-- Cmp at the requester (R313, R318). -/
def execCmp (dst : Party) (tag node line : Nat) (stale : Bool) (s : State) : Host.Outcome State Fault Refusal :=
  .next (s.onNet (.cmp dst tag node line stale) fun s => s.takeCmp dst tag line stale)

/-- A parked forward is served (R321). -/
def execParkedForwardServed (half line : Nat) (s : State) : Host.Outcome State Fault Refusal := .next (s.serveParked half line)

/-- A request that has waited 4 µs at a stage is promoted: the node counts it (R330, R332). -/
def execRequestPromotion (at_ : Stage) (s : State) : Host.Outcome State Fault Refusal :=
  match at_ with
  | .cacheSlice _ => .next s
  | .lane n | .controller n => .next (s.nodeCount n 8 1)

/-- Every granted transaction of a switching node has completed: its lanes grant under the new regime (R323). -/
def execRegimeSwitchDrained (node : Nat) (s : State) : Host.Outcome State Fault Refusal :=
  let x := s.node node
  if s.cohMode node ≠ 2 || !x.txns.isEmpty || NMap.foldV s.halves false (fun b _ h => b || h.parked.any fun p => p.2.1.node == node) then .next s
  else .next ((s.setFld (aCoh node 0) 0 2 x.next).drainWaits node)

/-- A switch has not drained within 1 ms with no half lost: SWITCHSLOW, a module reset (R323). -/
def execSwitchslow (node : Nat) (s : State) : Host.Outcome State Fault Refusal :=
  if s.cohMode node ≠ 2 || !(s.node node).lost.isEmpty then .next s
  else .next ((((s.flag (aCoh node 0x40) 3).record { sev := 4, block := 7, code := 3, die := dieOfNode node })).moduleReset 2)

/-- The directory scan after a loss is complete (R324). -/
def execDirectoryScanDone (node : Nat) (s : State) : Host.Outcome State Fault Refusal :=
  let s := s.scanLost node
  .next ((s.putNode node { s.node node with lost := [] }).afterTxn node)

end Sys2Proof.Machine
end

