-- ==== Sys2Proof/Machine/MemNode.lean ====
section
/-! DEFINITION. The memory nodes: scrubbing, refresh, temperature, retirement, frame rewriting (spec 10). -/

namespace Sys2Proof.Machine

/-- The decode of a burst finds no error, one that it corrects, or an uncorrectable one. -/
inductive Decoded where | good | corrected | uncorrectable
deriving DecidableEq, Repr

/-- The class of a burst's frame side: correcting, or detecting (R290 to R292). -/
def State.detecting (s : State) (sector : Nat) : Bool :=
  match s.place (32 * sector) with
  | some (n, c, f) => s.fld (aMem n (0x100 + 8 * f)) (if c < 16 then 0 else 2) 1 == 1
  | none => false

/-- CRC-16 of R291 over bytes, most significant bit first (log 70). -/
def crc16 (bs : List Byte) : Nat :=
  bs.foldl (fun c b => (List.range 8).foldl (fun c _ => if c < 0x8000 then 2 * c else (2 * c % 65536) ^^^ 0x1021) (c ^^^ (b.toNat * 256))) 0xFFFF

/-- The CRC of a detecting-class burst: its data, the two bytes of T, PA[44:5] (R291). -/
def burstCrc (data : W256) (t sector : Nat) : Nat := crc16 (leBytes 32 data.toNat ++ leBytes 2 t ++ leBytes 5 (sector % 2 ^ 40))

/-- The side bits that a burst is stored with (R290, R291, R295): check symbols, or T above the CRC; those of a poisoned burst are another
syndrome, or the complement of the CRC. -/
def State.sideBits (s : State) (sector : Nat) : Nat :=
  if s.detecting sector then
    let c := burstCrc (s.memSector sector) (NMap.get 0 s.tags sector) sector
    (if s.poisoned sector then 0xFFFF - c else c) + NMap.get 0 s.tags sector * 2 ^ 16
  else (Config.checkSymbols (s.memSector sector) sector (s.poisoned sector)).toNat

/-- Pins whose symbol is not the one stored: 32 data pins, then 4 side pins, 8 beats each (R281, R290; log 70). -/
def badPins (x : BurstRead) : List Nat :=
  (List.range 36).filter fun p => (List.range 8).any fun t => if p < 32 then x.data.getLsbD (32 * t + p) else x.side.getLsbD (4 * t + (p - 32))

/-- The decode of a burst (R290, R291). The correcting class corrects one symbol and detects two, three and a wrong address; what it makes
of more is free (choice point 70). The detecting class compares the CRC. -/
def State.decodeBurst (s : State) (sector : Nat) (x : BurstRead) : Decoded × State :=
  let of := x.written.getD sector
  if s.detecting sector then
    let st := s.sideBits of ^^^ x.side.toNat
    (if burstCrc (s.memSector of ^^^ x.data) (st / 2 ^ 16) sector = st % 2 ^ 16 then .good else .uncorrectable, s)
  else if of ≠ sector then (.uncorrectable, s)
  else match (badPins x).length with
    | 0 => (.good, s)
    | 1 => (.corrected, s)
    | 2 | 3 => (.uncorrectable, s)
    | _ => let (v, s) := s.freely 70; (if v % 3 = 0 then .good else if v % 3 = 1 then .corrected else .uncorrectable, s)

/-- A scrub read of one burst, by sector number: an error is corrected and written back, or the burst is poisoned; one that is poisoned
stays so; the last burst of a pass counts the pass (R290, R291, R295, R298). -/
def execScrubRead (sector : Nat) (found : BurstRead) (last : Bool) (s : State) : Host.Outcome State Fault Refusal :=
  match s.place (32 * sector) with
  | none => .next s
  | some (n, c, _) =>
    let (d, s) := if s.poisoned sector then (Decoded.good, s) else s.decodeBurst sector found
    let s : State := match d with
      | .good => s
      | .corrected => ((s.flag (aMem n 0x28) 0).satInc (aMem n 0x30) 0 32).record { sev := 0, block := 8, code := 0, die := dieOfNode n, unit := c, pa := some (32 * sector) }
      | .uncorrectable => s.poisonBurst sector (s.detecting sector)
    .next (if last then s.setFld (aMem n 0x20) 0 32 ((s.fld (aMem n 0x20) 0 32 + 1) % 2 ^ 32) else s)

/-- A refresh of one bank; no data change (R301). -/
def execRefresh (node channel bank : Nat) (s : State) : Host.Outcome State Fault Refusal :=
  let x := s.node node
  .next (s.putNode node { x with refreshes := NMap.upd 0 x.refreshes (64 * channel + bank) (· + 1) })

/-- The temperature state that a reading leads to; a state is left 3 °C below its threshold (R300). -/
def thermState (cur t : Nat) : Nat :=
  if 95 ≤ t || (cur == 2 && decide (92 < t)) then 2 else if 85 ≤ t || (decide (1 ≤ cur) && decide (82 < t)) then 1 else 0

/-- The hottest reading of a stack: TEMP, THERM, the activation limit with its flag and ALERT_N, the trip at 100 °C (R300). -/
def execStackTemperatureReading (node temp : Nat) (s : State) : Host.Outcome State Fault Refusal :=
  let cur := s.fld (aMem node 8) 2 2
  let t := thermState cur temp
  let s := (s.setFld (aMem node 8) 8 8 (min temp 255)).setFld (aMem node 8) 2 2 t
  let s := if t = 2 ∧ cur ≠ 2 then (s.flag (aMem node 0x28) 5).alert else s
  .next (if 100 ≤ temp then s.tripFire (dieOfNode node) else s)

/-- Whether an address is stored at a node in the frames and sides that `p` names. -/
def State.storedAt (s : State) (n : Nat) (p : Nat → Bool → Bool) (a : Nat) : Bool :=
  match s.place a with
  | some (m, c, f) => m == n && p f (decide (16 ≤ c))
  | none => false

/-- Clears the bytes, poison and tags of the addresses that `p` names. -/
def State.zeroWhere (s : State) (p : Nat → Bool) : State :=
  { s with mem := List.filter (fun (x : Nat × Byte) => !p x.1) s.mem
           poison := List.filter (fun (x : Nat × Bool) => !p (32 * x.1)) s.poison
           tags := List.filter (fun (x : Nat × Nat) => !p (32 * x.1)) s.tags }

/-- The stack of a retiring node is zeroed: STATE 3, the retirement stands in the record (R302). -/
def execNodeRetired (node : Nat) (s : State) : Host.Outcome State Fault Refusal :=
  if s.fld (aMem node 8) 0 2 ≠ 2 then .next s
  else
    let near := 0x20000000000 + node * 2 ^ 36
    let s := s.zeroWhere fun a => decide (near ≤ a) && decide (a < near + 2 ^ 36)
    .next ({ s with rlog := { s.rlog with retired := node :: s.rlog.retired } }.setFld (aMem node 8) 0 2 3)

/-- A frame side has been rewritten with zeros; RWZ falls with the last (R305). -/
def execFrameRewriteDone (node frame : Nat) (south : Bool) (s : State) : Host.Outcome State Fault Refusal :=
  let x := s.node node
  if !x.rewriting.contains (frame, south) then .next s
  else
    let s := s.zeroWhere (s.storedAt node fun f b => f == frame && b == south)
    let rest := x.rewriting.erase (frame, south)
    .next ((s.putNode node { s.node node with rewriting := rest }).setFld (aMem node 8) 4 1 (if rest.isEmpty then 0 else 1))

end Sys2Proof.Machine
end

