-- ==== Sys2Proof/Machine/Quote.lean ====
section
/-! DEFINITION. Quotes: body, slice section, signature, certificate chains (R485, R486, R490 to R493). -/

namespace Sys2Proof.Machine

/-- Bytes of a digest, and zeros. -/
def digestBytes (d : BitVec 256) : List Byte := leBytes 32 d.toNat
def zeros (n : Nat) : List Byte := List.replicate n 0

/-- The acting management die: 0 M0, 1 M1. -/
def State.acting (s : State) : Nat := s.fld (aSec 0) 2 1

/-- State and logical number of a physical die as a quote reports them (R490). -/
def State.dieEntry (s : State) (d : Nat) : List Byte :=
  let st := if 36 ≤ d ∧ d < 54 ∧ s.fld (aMem (d - 36) 8) 0 2 = 3 then 3 else NMap.get 0 s.dieState d
  let no := if d < 36 then ((s.sites.findIdx? (· == d)).getD 255) else 255
  leBytes 1 st ++ leBytes 1 no ++ leBytes 2 (NMap.get 0 s.dieGen d)

/-- PEND: up to four slots that the transition changes (R490). -/
def State.pendEntries (s : State) : List Byte :=
  let l := s.sec.pend.take 4
  (l.flatMap fun (x : Nat × BitVec 256) => leBytes 1 x.1 ++ zeros 7 ++ digestBytes x.2) ++ zeros (40 * (4 - l.length))

/-- The unit that holds a physical address, and the offset within it (R459). -/
def unitOfPa (pa : Nat) : Nat :=
  if pa < 0x20000000000 then 2 ^ 15 + pa / 2 ^ 35 * 2 ^ 8 + pa % 2 ^ 35 / 2 ^ 30
  else (pa - 0x20000000000) / 2 ^ 36 * 2 ^ 10 + (pa - 0x20000000000) % 2 ^ 36 / 2 ^ 35 * 2 ^ 9 + pa % 2 ^ 35 / 2 ^ 30

/-- One page mapping in 32 bytes (R493): address, size, unit with offset or host address, attributes; widths and order within the 32
bytes are the model's (log 47). -/
def pageEntry (va : Nat) (p : Page) : List Byte :=
  let (t, k) := match p.tgt with | .own pa => (unitOfPa pa * 2 ^ 30 + pa % 2 ^ 30, 0) | .obj _ pa => (unitOfPa pa * 2 ^ 30 + pa % 2 ^ 30, 1) | .host _ a => (a, 2)
  leBytes 8 va ++ leBytes 8 p.size ++ leBytes 8 t ++ leBytes 1 p.ro.toNat ++ leBytes 1 p.policy ++ leBytes 1 p.cls ++ leBytes 1 k ++ zeros 4

/-- The resource record of a slice (R493). -/
def State.resources (s : State) (sl : Nat) : List Byte :=
  let w (a : Nat) : List Byte := leBytes 8 (s.reg a)
  (w (aSlc sl 0) ++ w (aSlc sl 8) ++ (List.range 4).flatMap fun i => w (aSlc sl (0x10 + 8 * i))) ++ w (aSlc sl 0x30) ++ w (aSlc sl 0x38) ++
  ((List.range 512).flatMap fun i => match s.scrmap sl i with | some u => leBytes 2 i ++ leBytes 1 u.1 ++ leBytes 1 u.2 | none => []) ++
  ((s.mgr.grants.filter fun (x : Nat × UnitUse) => x.2 == .slice sl).flatMap fun x => leBytes 2 x.1) ++
  ((List.range 512).flatMap fun q => if s.qEn q && (s.qOwner q == sl || (s.fld (aCq q 0) 24 1 == 1 && s.fld (aCq q 0) 18 6 == sl)) then w (aCq q 0) else []) ++
  ((List.range 64).flatMap fun h => if s.fld (aVetch h 0) 0 1 == 1 && s.fld (aVetch h 0) 1 6 == sl then w (aVetch h 0) else []) ++
  w (aLnk (0x400 + 8 * sl)) ++ w (aSec (0x400 + 8 * sl)) ++
  ((List.range 64).flatMap fun i => if s.fld (0x240100 + 16 * i) 0 1 == 1 && s.fld (0x240100 + 16 * i) 1 6 == sl then w (0x240100 + 16 * i) ++ w (0x240108 + 16 * i) else [])

/-- The slice section (R493). -/
def State.sliceSection (s : State) (sl : Nat) : List Byte :=
  let named := (List.range 256).filter (s.names sl)
  let share := named.filter fun k => decide (2 ≤ (s.namers k).length)
  let most := share.foldl (fun n k => max n (s.namers k).length) 0
  leBytes 1 sl ++ leBytes 1 (s.portOf sl) ++ leBytes 3 (s.fld (aSlc sl 0) 2 20) ++ zeros 1 ++ leBytes 2 (s.gen sl) ++
  leBytes 4 (s.jobNum sl + s.fld (aSlc sl 8) 24 1 * 2 ^ 31) ++ leBytes 2 (named.length - share.length) ++ leBytes 2 (share.length + most % 16 * 2 ^ 12) ++
  digestBytes (Config.sha256 (s.resources sl)) ++ digestBytes (Config.sha256 ((s.slice sl).pages.flatMap fun (x : Nat × Page) => pageEntry x.1 x.2)) ++ zeros 48

/-- The body of a quote with its nonce; every field is taken now (R490, R492). -/
def State.quoteBody (s : State) (nonce : List Byte) (sl : Option Nat) : List Byte :=
  leBytes 2 1 ++ leBytes 2 (s.fld (aSec 0) 6 1 + 2 * sl.isSome.toNat + 4 * s.acting) ++ leBytes 4 (if sl.isSome then 1104 else 976) ++ nonce ++
  leBytes 8 s.time.toNat ++ leBytes 4 (s.fld (aSec 8) 0 32) ++ leBytes 4 (s.fld aCommitStatus 32 32) ++
  ((List.range 16).flatMap fun i => digestBytes (s.slot i)) ++ leBytes 1 (min 4 s.sec.pend.length) ++ zeros 7 ++ s.pendEntries ++
  ((List.range 60).flatMap s.dieEntry) ++ (match sl with | some x => s.sliceSection x | none => [])

/-- The signature of the attestation key, and the chain of a certificate slot (R486). -/
def State.sign (s : State) (text : List Byte) : List Byte := Config.rsaSign (s.sec.akey.getD 0) text
def State.chain (s : State) (slot : Nat) : List Byte := Config.certChain (2 * s.acting + slot) (s.sec.akey.getD 0)

/-- A quote: body, signature, slot-0 chain (R490, R498). -/
def State.quote (s : State) (nonce : List Byte) (sl : Option Nat) : List Byte :=
  let b := s.quoteBody nonce sl
  b ++ s.sign b ++ s.chain 0

end Sys2Proof.Machine
end

