-- ==== Sys2Proof/Machine/Security.lean ====
section
/-! DEFINITION. Tenant commands of the security engine (R497 to R499), and the attestation keys (R486). -/

namespace Sys2Proof.Machine

/-- Whether a slice maps a range, writably where `wr` (R84, R497); host pages count (R438). -/
def State.secMaps (s : State) (sl va n : Nat) (wr : Bool) : Bool :=
  (cutBy (n / 65536 + 2) 65536 va n).all fun c => match s.translate sl c.1 with
    | some (.mem pa p) => !(wr && p.ro) && (s.place pa).isSome
    | some (.host _ _ p) => !(wr && p.ro)
    | none => false

/-- Bytes of a mapped range; those of host pages come from the host in order. Also whether any was poisoned. -/
def State.secRead (s : State) (sl va n : Nat) (fromHost : List Byte) : State × List Byte × Bool :=
  let r := (cutBy (n / 65536 + 2) 65536 va n).foldl (fun (x : (State × List Byte × Bool) × List Byte) c =>
    let ((s, bs, p), h) := x
    match s.translate sl c.1 with
    | some (.mem pa g) => let y := s.engRead (some (sl, g.cls)) pa c.2; ((y.1, bs ++ y.2.1, p || y.2.2), h)
    | _ => ((s, bs ++ h.take c.2, p), h.drop c.2)) ((s, [], false), fromHost)
  r.1

/-- Writes bytes to a mapped range. -/
def State.secWrite (s : State) (sl va : Nat) (bs : List Byte) : State :=
  (cutBy (bs.length / 65536 + 2) 65536 va bs.length).foldl (fun (s : State) c =>
    match s.translate sl c.1 with
    | some (.mem pa p) => s.engWrite (some (sl, p.cls)) pa ((bs.drop (c.1 - va)).take c.2)
    | some (.host port a _) => (s.hostWrite port sl a ((bs.drop (c.1 - va)).take c.2)).1
    | none => s) s

/-- Fields of a tenant command (R497). -/
def secIn (w : Item) : Nat := ifld w 64 48
def secOut (w : Item) : Nat := ifld w 128 48
def secLen (w : Item) : Nat := ifld w 192 32
def secNonce (w : Item) : List Byte := leBytes 32 (ifld w 256 256)
def secClean (w : Item) : Bool := ifld w 19 13 == 0 && ifld w 112 16 == 0 && ifld w 176 16 == 0 && ifld w 224 32 == 0

/-- The completion item of a tenant command goes to the queue it names, where the slice holds it (R497). -/
def State.secDone (s : State) (sl : Nat) (w : Item) (st n : Nat) : State :=
  if !s.qEn (ifld w 10 9) || s.qOwner (ifld w 10 9) != sl then s
  else s.pushItem (ifld w 10 9) 3 (complItem (ifld w 0 8) st (ifld w 32 32) n 0 0 0 0 0 s.time.toNat 0) sl

/-- The command of a slice that the engine may take: bound, its job running (R497). -/
def State.secPeek (s : State) (sl : Nat) : Option Item :=
  if 64 ≤ sl || s.fld (aSec (0x400 + 8 * sl)) 0 1 = 0 || s.jobOf sl != 1 then none else s.peekCmd (s.fld (aSec (0x400 + 8 * sl)) 1 9)

/-- QUOTE and KEYX wait while a takeover leaves no attestation key; an unlocked module has none to wait for (R492, R505). -/
def State.secStalled (s : State) (w : Item) : Bool := (ifld w 0 8 == 1 || ifld w 0 8 == 2) && s.sec.akey.isNone && s.fld (aSec 0) 0 2 != 2

/-- Slices are served round-robin, one command each (R497). -/
def State.secTurn (s : State) (sl : Nat) : Bool := rrNext (fun x => (s.slice x).secTurn) (fun x => (s.secPeek x).any fun w => !s.secStalled w) sl
def State.secServed (s : State) (sl : Nat) : State := s.putSlice sl { s.slice sl with secTurn := rrStamp fun x => (s.slice x).secTurn }

/-- Takes the next command of a slice where its operation satisfies `p` (R497). A poisoned item ends the job. -/
def State.secTake (s : State) (sl : Nat) (p : Nat → Bool) (act : Item → State → State) : State :=
  match s.secPeek sl with
  | none => s
  | some w =>
    if !p (ifld w 0 8) || s.secStalled w || !s.secTurn sl then s else
    match s.popCmd (s.fld (aSec (0x400 + 8 * sl)) 1 9) with
    | (s, some (w, false)) => (act w s).secServed sl
    | (s, some (_, true)) => (s.jobEnd sl 1 8).secServed sl
    | (s, none) => s

/-- A key handle of a slice. -/
def State.handle? (s : State) (sl : Nat) (w : Item) : Option (BitVec 288 × Nat) := NMap.find? s.sec.handles (4 * sl + ifld w 8 2)
def State.putHandle (s : State) (sl : Nat) (w : Item) (k : BitVec 288 × Nat) : State :=
  { s with sec := { s.sec with handles := NMap.put s.sec.handles (4 * sl + ifld w 8 2) k } }

/-- QUOTE: a quote with the slice section, then the slot-0 chain. A reserved operation ends with status 0x01 (R498). -/
def execQuote (slice : Nat) (s : State) : Host.Outcome State Fault Refusal :=
  let unlocked := s.fld (aSec 0) 0 2 == 2
  .next (s.secTake slice (fun op => op < 2 || 5 < op) fun w s =>
    if ifld w 0 8 ≠ 1 || !secClean w then s.secDone slice w 1 0
    else
      let q := s.quote (secNonce w) (some slice)
      if !s.secMaps slice (secOut w) q.length true then s.secDone slice w 3 0
      else if secOut w % 64 ≠ 0 then s.secDone slice w 4 0
      else if unlocked then s.secDone slice w 7 0
      else (s.secWrite slice (secOut w) q).secDone slice w 0 q.length)

/-- KEYX: an exchange with the tenant's point fills the handle (R498). -/
def execKeyx (slice : Nat) (fromHost : List Byte) (s : State) : Host.Outcome State Fault Refusal :=
  let unlocked := s.fld (aSec 0) 0 2 == 2
  .next (s.secTake slice (· == 2) fun w s =>
    if !secClean w then s.secDone slice w 1 0
    else if (s.handle? slice w).isSome then s.secDone slice w 2 0
    else if !s.secMaps slice (secIn w) 97 false then s.secDone slice w 3 0
    else
      let (s, point, bad) := s.secRead slice (secIn w) 97 fromHost
      let (priv, s) := s.freely 45
      let mine := (Config.ecPoint priv).take 97
      let q := s.quote (digestBytes (Config.sha256 (point ++ mine ++ secNonce w))) (some slice)
      let out := mine ++ zeros (128 - mine.length) ++ q
      if bad then s.jobEnd slice 1 8
      else if !s.secMaps slice (secOut w) out.length true then s.secDone slice w 3 0
      else if secOut w % 64 ≠ 0 then s.secDone slice w 4 0
      else if unlocked then s.secDone slice w 7 0
      else match Config.ecShared priv point with
        | none => s.secDone slice w 8 0
        | some z =>
          let info := "uzm tenant".toList.map (fun c => BitVec.ofNat 8 c.toNat) ++ leBytes 1 slice ++ leBytes 2 (s.gen slice) ++ leBytes 8 s.time.toNat
          ((s.secWrite slice (secOut w) out).putHandle slice w (Config.hkdf 2 z (secNonce w) info, 1)).secDone slice w 0 out.length)

/-- Key, IV and whether SEAL may use a handle. -/
def sealKey (k : BitVec 288) : BitVec 256 := k.truncate 256
def sealIv (k : BitVec 288 × Nat) : List Byte := leBytes 4 (k.1 >>> 256).toNat ++ leBytes 8 k.2

/-- SEAL: IV, ciphertext and tag of LEN bytes; the IV counter advances (R498). -/
def execSealBlob (slice : Nat) (fromHost : List Byte) (s : State) : Host.Outcome State Fault Refusal :=
  .next (s.secTake slice (· == 4) fun w s =>
    if !secClean w then s.secDone slice w 1 0
    else match s.handle? slice w with
    | none => s.secDone slice w 2 0
    | some k =>
      let n := secLen w
      if !s.secMaps slice (secIn w) n false || !s.secMaps slice (secOut w) (n + 28) true then s.secDone slice w 3 0
      else if n = 0 ∨ 2 ^ 30 < n ∨ secOut w % 64 ≠ 0 then s.secDone slice w 4 0
      else if 2 ^ 48 ≤ k.2 then s.secDone slice w 6 0
      else
        let (s, bs, bad) := s.secRead slice (secIn w) n fromHost
        if bad then s.jobEnd slice 1 8 else
        let c := Config.gcmSeal (sealKey k.1) (sealIv k) (secNonce w) bs
        ((s.secWrite slice (secOut w) (sealIv k ++ c.1 ++ c.2)).putHandle slice w (k.1, k.2 + 1)).secDone slice w 0 n)

/-- OPEN: the plaintext of a blob, or zeros where the tag does not match (R498). -/
def execOpenBlob (slice : Nat) (fromHost : List Byte) (s : State) : Host.Outcome State Fault Refusal :=
  .next (s.secTake slice (· == 3) fun w s =>
    if !secClean w then s.secDone slice w 1 0
    else match s.handle? slice w with
    | none => s.secDone slice w 2 0
    | some k =>
      let n := secLen w
      if !s.secMaps slice (secIn w) (n + 28) false || !s.secMaps slice (secOut w) n true then s.secDone slice w 3 0
      else if n = 0 ∨ 2 ^ 30 < n ∨ secOut w % 64 ≠ 0 then s.secDone slice w 4 0
      else
        let (s, bs, bad) := s.secRead slice (secIn w) (n + 28) fromHost
        if bad then s.jobEnd slice 1 8 else
        let r := Config.gcmOpen (sealKey k.1) (bs.take 12) (secNonce w) ((bs.drop 12).take n) (bs.drop (12 + n))
        if r.2 then (s.secWrite slice (secOut w) (r.1.take n)).secDone slice w 0 n
        else (s.secWrite slice (secOut w) (zeros n)).secDone slice w 5 0)

/-- KEYDEL: the handle is empty (R498). -/
def execKeydel (slice : Nat) (s : State) : Host.Outcome State Fault Refusal :=
  .next (s.secTake slice (· == 5) fun w s =>
    if !secClean w then s.secDone slice w 1 0
    else match s.handle? slice w with
    | none => s.secDone slice w 2 0
    | some _ => ({ s with sec := { s.sec with handles := NMap.del s.sec.handles (4 * slice + ifld w 8 2) } }).secDone slice w 0 0)

/-- A mailbox response: eight words, the status, PF0 vector 0 (R544). -/
def State.respond (s : State) (port seq st : Nat) (words : List Nat) : State :=
  let b := 0x100000 + 0x1000 * port
  let s := (List.range 8).foldl (fun (s : State) i => s.setReg (b + 0x80 + 8 * i) (words.getD i 0)) s
  (s.setReg (b + 0x48) (2 + seq % 256 * 2 ^ 8 + st * 2 ^ 16)).emit (.msix port 0 0 0)

/-- ATTEST's answer: the quote and chain beside the response words (R503; log 48). -/
def State.attest (s : State) (port seq : Nat) : State :=
  let b := 0x100000 + 0x1000 * port
  (s.emit (.response port (s.quote ((List.range 4).flatMap fun i => leBytes 8 (s.reg (b + 8 * i))) none))).respond port seq 0 []

/-- A management die has generated a key. The acting die without one certifies it, and requests that waited are served; the other die
keeps it as its spare (R486, R492). -/
def execAttestationKeyCertified (die : Nat) (s : State) : Host.Outcome State Fault Refusal :=
  let x := s.sec
  if 2 ≤ die || s.fld (aSec 0) (3 + die) 1 = 0 || s.fld (aSec 0) 0 2 = 2 then .next s
  else if die ≠ s.acting then
    .next (if (NMap.find? x.spares die).isSome then s else { s with sec := { x with spares := NMap.put x.spares die x.nextKey, nextKey := x.nextKey + 1 } })
  else if x.akey.isSome then .next s
  else
    let s := { s with sec := { x with akey := some x.nextKey, nextKey := x.nextKey + 1 } }.setFld (aSec 0) 5 1 1
    let ws := s.mgr.waiting
    .next (ws.foldl (fun s w => s.attest w.1 w.2) { s with mgr := { s.mgr with waiting := [] } })

end Sys2Proof.Machine
end

