-- ==== Sys2Proof/Machine/SliceMgr.lean ====
section
/-! DEFINITION. The mailbox and the slice manager: grants, mappings, object loads, migration (R459 to R461, R544). -/

namespace Sys2Proof.Machine

/-- Word `i` of the request in a port's mailbox; its fields in the order of the command's arguments, one a word (R544, R555; log 49). -/
def State.arg (s : State) (port i : Nat) : Nat := s.reg (0x100000 + 0x1000 * port + 8 * i)

/-- A command of the mailbox of a port, written by manager function `who` (2 the pod owner): discarded while one is in progress; status
0x04 from a function that does not own the module, but for ATTEST and CFGREC; 0x05 before DEV_READY and while LOCK is 2 (R544, R447). -/
def State.mailbox (s : State) (who port seq op : Nat) (act : State → State × Nat) : State :=
  if 2 ≤ port || !s.responds 0x100000 || s.fld (0x100048 + 0x1000 * port) 0 1 == 1 then s
  else if !s.owns who && op != 0x50 && op != 0x51 then s.respond port seq 4 []
  else if s.phase ≠ .ready || s.fld (aSec 0) 0 2 == 2 then s.respond port seq 5 []
  else match act s with | (s, st) => s.respond port seq st []

/-- A command whose conditions hold or fail. -/
def cond (ok : Bool) (s t : State) : State × Nat := if ok then (t, 0) else (s, 1)

/-- Whether a 16-bit value names a unit that MEM_PLACE backs on nodes in service (R283, R284, R459). -/
def State.unitOk (s : State) (u : Nat) : Bool :=
  if bit u 15 then decide (u < 2 ^ 16) && bits u 5 3 == 0 && bits u 14 1 == 0 && decide (bits u 8 6 < s.hframes) && decide (bits u 0 5 < s.hashNodes.length)
  else bits u 5 4 == 0 && decide (bits u 10 5 < 18) && decide (bits u 0 5 < (48 - s.hframes) / 2) && s.fld (aMem (bits u 10 5) 8) 0 2 == 1

/-- Whether an address lies in a unit. -/
def inUnit (u a : Nat) : Bool := decide (unitBase u ≤ a) && decide (a < unitBase u + 2 ^ 30)
def lineInUnit (u line : Nat) : Bool := inUnit u (128 * line)

/-- HBMGRANT: slice number, or object number with bit 63 set; unit. -/
def useOf (w : Nat) : UnitUse := if bit w 63 then .object (bits w 0 63) else .slice w
def State.hbmGrant (s : State) (port : Nat) : State × Nat :=
  let use := useOf (s.arg port 0)
  let u := s.arg port 1
  if s.mgr.grant.isSome then (s, 2) else
  cond (s.unitOk u && !s.allocated u && (match use with | .slice n => decide (n < 64) && s.exists? n | .object n => decide (n < 65536)))
    s { s with mgr := { s.mgr with grant := some (u, use, port) } }
def execHbmgrant (port seq : Nat) (s : State) : Host.Outcome State Fault Refusal := .next (s.mailbox port port seq 0x40 fun s => s.hbmGrant port)

/-- The unit reads zero and is granted; an object takes its units in this order (R459, R460). -/
def execHbmgrantComplete (s : State) : Host.Outcome State Fault Refusal :=
  match s.mgr.grant with
  | none => .next s
  | some (u, use, port) =>
    let s := s.zeroWhere (inUnit u)
    let m := s.mgr
    let objects := match use with | .object n => NMap.put m.objects n (NMap.get [] m.objects n ++ [u]) | .slice _ => m.objects
    .next ({ s with mgr := { m with grant := none, grants := NMap.put m.grants u use, objects := objects } }.mgtEvent port 0x40 0 u)

/-- The line of a message on the mesh. -/
def netLine (i : Instr) : Option Nat :=
  match i with
  | .fwds f | .fwdx f | .fwdrd f | .recall f | .fwdop f _ | .nodata f _ | .wbdata f _ _ => some f.line
  | .inv _ l _ _ | .ack _ l _ _ | .grant _ _ _ l _ | .doneMsg _ _ l | .cmp _ _ _ l _ | .atomret _ _ _ l _ _ => some l
  | .dataMsg m => some m.line
  | i => (reqOf i).map (·.line)

/-- Whether an access to a unit has not completed. -/
def State.unitBusy (s : State) (u : Nat) : Bool :=
  s.flight.llm.any (fun r => lineInUnit u r.line) || s.flight.contrib.any (fun c => lineInUnit u c.2.line) ||
  s.flight.net.any (fun i => match netLine i with | some l => lineInUnit u l | none => false) ||
  (NMap.foldV s.halves false fun b _ x => b || x.miss.any (fun m => lineInUnit u m.line) || x.wb.any fun w => lineInUnit u w.line) ||
  (NMap.foldV s.nodes false fun b _ x => b || x.txns.any (fun t => lineInUnit u t.line) || x.held.any fun h => lineInUnit u h.1) ||
  (NMap.foldV s.cores false fun b _ c => b || c.sb.any (fun e => !e.scratch && inUnit u (32 * e.sector)) ||
    c.groups.any fun (g : Nat × Group) => g.2.ops.any fun o => o.wait.any fun k => inUnit u (32 * k))

/-- Copies of a unit's lines leave caches, directories and far buffers. -/
def State.dropUnit (s : State) (u : Nat) : State :=
  let keepL (l : Nat) : Bool := !lineInUnit u l
  { s with halves := NMap.mapV s.halves fun x =>
             { x with lines := List.filter (fun (e : Nat × Line) => keepL e.1) x.lines, pend := x.pend.filter fun p => keepL p.c.line
                      windows := x.windows.filter fun w => keepL w.1, tomb := x.tomb.filter fun t => keepL t.1 }
           nodes := NMap.mapV s.nodes fun x => { x with dir := List.filter (fun (e : Nat × DirEnt) => keepL e.1) x.dir, far := x.far.filter keepL }
           cores := NMap.mapV s.cores fun c => { c with near := c.near.filter fun e => keepL e.line } }

/-- Whether a page lies on a unit. -/
def Page.onUnit (p : Page) (u : Nat) : Bool := match p.tgt with | .own pa | .obj _ pa => inUnit u pa | .host _ _ => false

/-- The unit returns to the pool, zeroed (R459). -/
def State.freeNow (s : State) (u : Nat) : State :=
  let s := (s.dropUnit u).zeroWhere (inUnit u)
  { s with mgr := { s.mgr with grants := NMap.del s.mgr.grants u, objects := NMap.mapV s.mgr.objects fun l => l.filter (· != u) } }

/-- HBMFREE: every page on the unit is unmapped; the response waits for their accesses to complete (R459). -/
def State.hbmFree (s : State) (who port seq : Nat) : State :=
  let u := s.arg port 0
  let bad := (NMap.find? s.mgr.grants u).isNone || s.mgr.freeing.isSome || s.mgr.load.isSome || (match s.mgr.move with | some m => m.2.1 == u || m.2.2.1 == u | none => false)
  let t : State := { s with slices := NMap.mapV s.slices fun x => { x with pages := NMap.keepV x.pages fun p => !p.onUnit u } }
  if !bad && t.unitBusy u && s.owns who && s.phase == .ready && s.fld (aSec 0) 0 2 != 2 && decide (port < 2) && s.fld (0x100048 + 0x1000 * port) 0 1 == 0 then
    { t with mgr := { t.mgr with freeing := some (u, port, seq) } }.setFld (0x100048 + 0x1000 * port) 0 1 1
  else s.mailbox who port seq 0x41 fun s => if s.mgr.freeing.isSome then (s, 2) else cond (!bad) s (t.freeNow u)
def execHbmfree (port seq : Nat) (s : State) : Host.Outcome State Fault Refusal := .next (s.hbmFree port port seq)

/-- A waiting HBMFREE completes once no access to its unit is left. -/
def State.finishFree (s : State) : State :=
  match s.mgr.freeing with
  | none => s
  | some (u, port, seq) => if s.unitBusy u then s else ({ s with mgr := { s.mgr with freeing := none } }.freeNow u).respond port seq 0 []

/-- Near caches drop the lines of a page (R198). -/
def State.dropNear (s : State) (p : Page) : State :=
  match p.tgt with
  | .own pa | .obj _ pa => { s with cores := NMap.mapV s.cores fun c => { c with near := c.near.filter fun e => !(decide (pa ≤ 128 * e.line) && decide (128 * e.line < pa + p.size)) } }
  | .host _ _ => s

/-- The target of a MAP: a unit, or with bit 63 set a host address; an object's unit only with RO = 1 (R459, R460). -/
def State.mapTarget (s : State) (sl size tgt ofs ro : Nat) : Option Target :=
  if bit tgt 63 then (if ofs = 0 ∧ bits tgt 0 63 % size = 0 then some (.host (s.portOf sl) (bits tgt 0 63)) else none)
  else if ofs % size ≠ 0 ∨ 2 ^ 30 < ofs + size then none
  else match NMap.find? s.mgr.grants tgt with
    | some (.slice n) => if n = sl then some (.own (unitBase tgt + ofs)) else none
    | some (.object n) => if ro = 1 then some (.obj n (unitBase tgt + ofs)) else none
    | none => none

/-- MAP: slice, address, page size, target, target offset, RO, POLICY, CLASS (R459, R460). -/
def State.mapPage (s : State) (port : Nat) : State × Nat :=
  let a := s.arg port
  let sl := a 0
  let size := a 2
  let x := s.slice sl
  let free := x.pages.all fun (e : Nat × Page) => decide (e.1 + e.2.size ≤ a 1) || decide (a 1 + size ≤ e.1)
  if 64 ≤ sl || !s.exists? sl || !(size == 0x10000 || size == 0x200000 || size == 0x40000000) || a 1 % size != 0 || decide (2 ^ 48 < a 1 + size) || !free || decide (1 < a 5) || decide (2 < a 6) || decide (7 < a 7)
  then (s, 1) else
  match s.mapTarget sl size (a 3) (a 4) (a 5) with
  | none => (s, 1)
  | some t =>
    let p : Page := { size := size, tgt := t, ro := a 5 == 1, policy := a 6, cls := a 7 }
    ((if p.ro then s.dropNear p else s).putSlice sl { x with pages := NMap.put x.pages (a 1) p }, 0)
def execMap (port seq : Nat) (s : State) : Host.Outcome State Fault Refusal := .next (s.mailbox port port seq 0x42 fun s => s.mapPage port)

/-- UNMAP: slice, address of the page (R198, R459). -/
def State.unmapPage (s : State) (port : Nat) : State × Nat :=
  let sl := s.arg port 0
  let x := s.slice sl
  match NMap.find? x.pages (s.arg port 1) with
  | some p => if 64 ≤ sl || !s.exists? sl then (s, 1) else ((if p.ro then s.dropNear p else s).putSlice sl { x with pages := NMap.del x.pages (s.arg port 1) }, 0)
  | none => (s, 1)
def execUnmap (port seq : Nat) (s : State) : Host.Outcome State Fault Refusal := .next (s.mailbox port port seq 0x43 fun s => s.unmapPage port)

/-- OBJLOAD: object, host address, length, from host memory of the owner's port (R459). -/
def State.objLoad (s : State) (port : Nat) : State × Nat :=
  let units := NMap.get [] s.mgr.objects (s.arg port 0)
  match s.mgr.load, s.ownerPort with
  | some _, _ => (s, 2)
  | none, none => (s, 1)
  | none, some _ => cond (!units.isEmpty && decide (0 < s.arg port 2) && decide (s.arg port 2 ≤ units.length * 2 ^ 30)) s
      { s with mgr := { s.mgr with load := some (s.arg port 0, s.arg port 1, s.arg port 2, port) } }
def execObjload (port seq : Nat) (s : State) : Host.Outcome State Fault Refusal := .next (s.mailbox port port seq 0x44 fun s => s.objLoad port)

/-- The object's bytes are in place: near caches have dropped the written range, slot 9 takes their digest, tasks that waited for the
object are replayed (R197, R199, R460, R479, R489). Without the host's bytes the event reports status 0x01. -/
def execObjloadComplete (bytes : Option (List Byte)) (s : State) : Host.Outcome State Fault Refusal :=
  match s.mgr.load with
  | none => .next s
  | some (n, _, len, port) =>
    let s : State := { s with mgr := { s.mgr with load := none } }
    match bytes with
    | none => .next (s.mgtEvent port 0x44 1 n)
    | some bs =>
      let bs := bs.take len
      let s := ((NMap.get [] s.mgr.objects n).zipIdx).foldl (fun (s : State) (x : Nat × Nat) =>
        let part := (bs.drop (x.2 * 2 ^ 30)).take (2 ^ 30)
        let s := s.engWrite none (unitBase x.1) part
        { s with cores := NMap.mapV s.cores fun c => { c with near := c.near.filter fun e => !(decide (unitBase x.1 ≤ 128 * e.line + 127) && decide (128 * e.line < unitBase x.1 + part.length)) } }) s
      let s : State := { s with sec := { s.sec with objects := NMap.put s.sec.objects n (Config.sha256 bs) }
                                slices := NMap.mapV s.slices fun x => { x with kernels := x.kernels.map fun k => { k with tasks := k.tasks.map fun t => if t.lost = some n then { t with lost := none } else t } } }
      .next (s.mgtEvent port 0x44 0 n)

/-- MIGRATE: slice, source unit, destination unit, both the slice's own (R461). -/
def State.migrate (s : State) (port : Nat) : State × Nat :=
  let sl := s.arg port 0
  let a := s.arg port 1
  let b := s.arg port 2
  if s.mgr.move.isSome then (s, 2) else
  cond (decide (sl < 64) && a != b && NMap.find? s.mgr.grants a == some (.slice sl) && NMap.find? s.mgr.grants b == some (.slice sl)) s
    ({ s with mgr := { s.mgr with move := some (sl, a, b, port) } }.pause 0 (· == sl))
def execMigrate (port seq : Nat) (s : State) : Host.Outcome State Fault Refusal := .next (s.mailbox port port seq 0x45 fun s => s.migrate port)

/-- A line's owner writes it back, and its pending contributions are applied. -/
def State.flushUnit (s : State) (u : Nat) : State :=
  NMap.foldV s.halves s fun s h x =>
    let s := (x.pend.map fun p => p.c.line).foldl (fun s l => if lineInUnit u l then s.resolveLine h l else s) s
    (x.lines.map fun (e : Nat × Line) => e.1).foldl (fun (s : State) l =>
      match NMap.find? (s.half h).lines l with
      | some y => if !lineInUnit u l then s else (List.range 4).foldl (fun (s : State) i => if y.dirty.getLsbD i then (s.putSector (4 * l + i) ((y.sec.getD i none).getD 0)).setPoison (4 * l + i) (y.poison.getLsbD i) else s) s
      | none => s) s

/-- The unit has been copied and its pages lie on the destination; the slice runs on. It waits until the slice's blocks have left their
cores (R461). -/
def execMigrateComplete (s : State) : Host.Outcome State Fault Refusal :=
  match s.mgr.move with
  | none => .next s
  | some (sl, a, b, port) =>
    if !s.quiet 0 || s.unitBusy a then .next s else
    let s := ((s.flushUnit a).dropUnit a).dropUnit b
    let dst (k : Nat) : Nat := k - unitBase a + unitBase b
    let s := s.zeroWhere (inUnit b)
    let s : State := { s with mem := s.mem.foldl (fun (m : Mem) (c : Nat × Byte) => if inUnit a c.1 then m.write (dst c.1) c.2 else m) s.mem
                              poison := s.poison.foldl (fun (m : NMap Bool) (c : Nat × Bool) => if inUnit a (32 * c.1) then NMap.set false m (dst (32 * c.1) / 32) c.2 else m) s.poison
                              tags := s.tags.foldl (fun (m : NMap Nat) (c : Nat × Nat) => if inUnit a (32 * c.1) then NMap.put m (dst (32 * c.1) / 32) c.2 else m) s.tags
                              mgr := { s.mgr with move := none } }
    let x := s.slice sl
    let s := s.putSlice sl { x with pages := NMap.mapV x.pages fun p => match p.tgt with | .own pa => if inUnit a pa then { p with tgt := .own (dst pa) } else p | _ => p }
    .next ((s.resume 0 (· == sl)).mgtEvent port 0x45 0 b)

end Sys2Proof.Machine
end

