-- ==== Sys2Proof/Machine/Mailbox.lean ====
section
/-! DEFINITION. Management and security commands of the mailbox, the handover, firmware updates (R486, R503 to R505, R544, R551 to
R554). -/

namespace Sys2Proof.Machine

/-- ROUTESET stages a route image read from host memory; nothing is staged while the staging copy is frozen (R541, R544). -/
def State.stageRoutes (s : State) : Option RouteImage → State × Nat
  | none => (s, 1)
  | some (.mesh r) => cond (s.commitState = 0) s { s with stagedMesh := some r }
  | some (.link r) => cond (s.commitState = 0) s { s with stagedLink := some r }
def execRouteset (port seq : Nat) (image : Option RouteImage) (s : State) : Host.Outcome State Fault Refusal :=
  .next (s.mailbox port port seq 0x10 fun s => s.stageRoutes image)

/-- FWUPDATE: target class, host address, length. A class is the measurement slot of its firmware: 1 management, 3 compute dies, 4 nodes,
5 port dies (R487, R544; log 49). -/
def State.fwUpdate (s : State) (port : Nat) : State × Nat :=
  if s.mgr.update.isSome then (s, 2) else
  cond ([1, 3, 4, 5].contains (s.arg port 0)) s { s with mgr := { s.mgr with update := some (s.arg port 0, port) } }
def execFwupdate (port seq : Nat) (s : State) : Host.Outcome State Fault Refusal := .next (s.mailbox port port seq 0x20 fun s => s.fwUpdate port)

/-- The image stands in the inactive slot of both flash devices, or its check has failed (R544). -/
def execFwupdateComplete (bytes : Option (List Byte)) (s : State) : Host.Outcome State Fault Refusal :=
  match s.mgr.update with
  | none => .next s
  | some (c, port) =>
    let s : State := { s with mgr := { s.mgr with update := none } }
    match bytes with
    | some bs => if Config.sigOk 0 bs then .next ({ s with mgr := { s.mgr with images := NMap.put s.mgr.images c (Config.sha256 bs) } }.mgtEvent port 0x20 0 c)
                 else .next (s.mgtEvent port 0x20 1 c)
    | none => .next (s.mgtEvent port 0x20 1 c)

/-- The firmware that a die loads: the verified image of its class, or what its slot measures now. -/
def State.firmware (s : State) (c : Nat) : BitVec 256 := (NMap.find? s.mgr.images c).getD (s.slot c)

/-- HANDOVER: the standby loads, verifies and measures the new image (R487, R552). -/
def State.handover (s : State) : State × Nat :=
  let other := 59 - s.acting
  if s.mgr.changes.contains 1 then (s, 2) else
  cond (NMap.get 0 s.dieState other = 0 && s.fld (aSec 0) (3 + (other - 58)) 1 = 1) s
    (((((s.setDie other 6).dieReset other).beginPart 1).changeSlot 1 (s.firmware 1)).changeSlot 2 (s.firmware 1) |>.record { sev := 6, block := 1, code := 0x8004, die := s.actDie })
def execHandover (port seq : Nat) (s : State) : Host.Outcome State Fault Refusal := .next (s.mailbox port port seq 0x21 State.handover)

/-- The standby becomes acting: the old attestation key is destroyed, the spare is certified where there is one (R486, R552). -/
def State.swapRoles (s : State) : State :=
  let new := 1 - s.acting
  let x := s.sec
  let spare := NMap.find? x.spares new
  (({ s with sec := { x with akey := spare, spares := NMap.del x.spares new } }.setFld (aSec 0) 2 1 new).setFld (aSec 0) 5 1 spare.isSome.toNat).setDie (58 + new) 0

/-- Step 3 of R552: in a handover, or because the acting die has failed, whose host port goes down. A takeover that the standby cannot make
resets the module; one during probation takes the role back (R16, R547, R552). -/
def execStandbyTakeover (failed : Bool) (s : State) : Host.Outcome State Fault Refusal :=
  let old := s.acting
  let other := NMap.get 0 s.dieState (59 - old)
  if s.phase ≠ .ready then .next s
  else if !failed then
    if !s.mgr.changes.contains 1 || s.mgr.probation.isSome then .next s
    else .next ({ s with mgr := { s.mgr with probation := some s.time.toNat } }.swapRoles)
  else if other ≠ 0 ∧ other ≠ 6 then .next (((s.hostDown old).setDie (58 + old) 2).moduleReset 2)
  else
    let s := s.hostDown old
    let back := s.mgr.probation.isSome
    let img := if back then s.slot 1 else if s.mgr.changes.contains 1 then s.firmware 1 else s.slot 2
    let s := (({ s with mgr := { s.mgr with probation := none } }.swapRoles.setDie (58 + old) 2).endPart 1)
    let s := (s.changeSlot 1 img).changeSlot 2 0
    .next (s.record { sev := 5, block := 1, code := if back then 0x8006 else 0x8005, die := s.actDie })

/-- After 60 s of probation the old acting die loads the new image and becomes the standby (R552). -/
def execProbationEnd (s : State) : Host.Outcome State Fault Refusal :=
  match s.mgr.probation with
  | none => .next s
  | some t =>
    if s.time.toNat < t + 60000000000 then .next s else
    let other := 59 - s.acting
    .next (((({ s with mgr := { s.mgr with probation := none } }.setDie other 6).dieReset other).endPart 1).record { sev := 6, block := 1, code := 0x8005, die := s.actDie })

/-- DIERELOAD: die window. The die's slices pause, the die loads its verified firmware (R545, R552). -/
def State.dieReload (s : State) (port : Nat) : State × Nat :=
  let w := s.arg port 0
  let d := s.dieOfWindow w
  let c := if w < 32 then 3 else if w < 50 then 4 else 5
  if (List.range 58).any fun i => NMap.get 0 s.dieState i == 6 then (s, 2) else
  cond (decide (w < 54) && decide (d < 58) && NMap.get 0 s.dieState d == 0) s ((((s.setDie d 6).dieReset d).changeSlot c (s.firmware c)).pause 1 (s.onDie w))
def execDiereload (port seq : Nat) (s : State) : Host.Outcome State Fault Refusal := .next (s.mailbox port port seq 0x22 fun s => s.dieReload port)

/-- SUBST: logical die. Its slices pause; the reserve takes its number later (R545, R551). -/
def State.subst (s : State) (port : Nat) : State × Nat :=
  let d := s.arg port 0
  let site := s.sites.getD d 99
  if s.mgr.changes.any fun c => decide (100 ≤ c) && (decide (c < 200) || decide (300 ≤ c)) then (s, 2) else
  cond (decide (d < 32) && s.present d && NMap.get 0 s.dieState site == 0 && !s.reserves.isEmpty) s
    ((((s.setDie site 5).beginPart (300 + d)).pause 1 (s.onDie d)).record { sev := 1, block := 1, code := 0x8002, die := site, detail := d })
def execSubst (port seq : Nat) (s : State) : Host.Outcome State Fault Refusal := .next (s.mailbox port port seq 0x23 fun s => s.subst port)

/-- RECAL: logical die. Its slices pause while its tables are measured (R544, R545). -/
def State.recal (s : State) (port : Nat) : State × Nat :=
  let d := s.arg port 0
  if !s.mgr.recal.isEmpty then (s, 2) else
  cond (decide (d < 32) && s.present d && NMap.get 0 s.dieState (s.sites.getD d 99) == 0) s
    (({ s with mgr := { s.mgr with recal := [d] } }.pause 1 (s.onDie d)).changeSlot 6 (s.remeasure d).recordSlot)
def execRecal (port seq : Nat) (s : State) : Host.Outcome State Fault Refusal := .next (s.mailbox port port seq 0x24 fun s => s.recal port)

/-- Link ports of a port die. -/
def portsOf (p : Nat) : List Nat := (List.range 16).filter fun i => portDie i == p

/-- PDPOWER: port die, 1 on or 0 off. Its queues, bindings and ports are disabled first (R544, R550). -/
def State.pdPower (s : State) (port : Nat) : State × Nat :=
  let p := s.arg port 0
  let off := s.pdDown p
  let used := (portsOf p).any (fun i => s.fld (aPort i 0) 0 1 == 1) || (List.range 512).any (fun q => s.qEn q && s.fld (aCq q 0) 7 7 == 64 + p) ||
    (List.range 64).any (fun sl => s.fld (aLnk (0x400 + 8 * sl)) 0 1 == 1 && s.fld (aLnk (0x400 + 8 * sl)) 1 2 == p)
  if NMap.get 0 s.dieState (54 + p) = 6 then (s, 2)
  else if s.arg port 1 = 0 then cond (decide (p < 4) && !off && !used) s (((s.setDie (54 + p) 7).changeSlot 5 (s.slot 5)).pause 1 (s.onDie (50 + p)))
  else cond (decide (p < 4) && off && s.arg port 1 == 1) s ((((s.setDie (54 + p) 6).dieReset (54 + p)).changeSlot 5 (s.firmware 5)).reviveQueues (· == 64 + p))
def execPdpower (port seq : Nat) (s : State) : Host.Outcome State Fault Refusal := .next (s.mailbox port port seq 0x25 fun s => s.pdPower port)

/-- MRESET: a module reset with cause 4 follows the response (R544, R554). -/
def State.mreset (s : State) (who port seq : Nat) : State :=
  let ok := decide (port < 2) && s.owns who && s.phase == .ready && s.fld (aSec 0) 0 2 != 2 && s.fld (0x100048 + 0x1000 * port) 0 1 == 0
  let s := s.mailbox who port seq 0x26 fun s => (s, 0)
  if ok then s.moduleReset 4 else s
def execMreset (port seq : Nat) (s : State) : Host.Outcome State Fault Refusal := .next (s.mreset port port seq)

/-- ATTEST: a quote without slice section; it waits while a takeover leaves no attestation key (R492, R503). -/
def State.attestCmd (s : State) (port seq : Nat) : State :=
  let b := 0x100048 + 0x1000 * port
  if 2 ≤ port || !s.responds 0x100000 || s.fld b 0 1 == 1 then s
  else if s.phase ≠ .ready || s.fld (aSec 0) 0 2 == 2 then s.respond port seq 5 []
  else if s.sec.akey.isNone then { s with mgr := { s.mgr with waiting := s.mgr.waiting ++ [(port, seq)] } }.setFld b 0 1 1
  else s.attest port seq
def execAttest (port seq : Nat) (s : State) : Host.Outcome State Fault Refusal := .next (s.attestCmd port seq)

/-- CFGREC: a record that verifies and is newer goes to flash, in effect from the next power-on (R503). -/
def State.cfgrec (s : State) : Option (List Byte) → State × Nat
  | none => (s, 1)
  | some bs =>
    if Config.sigOk 1 bs && decide (Config.recordField 0 s.sec.record < Config.recordField 0 bs) then ({ s with sec := { s.sec with record := bs } }, 0)
    else ((s.flag (aSec 0x10) 2).satInc (aSec 0x18) 0 16, 1)
def execCfgrec (port seq : Nat) (bytes : Option (List Byte)) (s : State) : Host.Outcome State Fault Refusal :=
  .next (s.mailbox port port seq 0x51 fun s => s.cfgrec bytes)

/-- LOCK changes, and slot 8 with it (R487, R488). -/
def State.setLock (s : State) (v : Nat) : State :=
  let s := s.setFld (aSec 0) 0 2 v
  s.changeSlot 8 s.securityState

/-- UNLOCKREQ: serial number, 32 random bytes, MEPOCH and boot count, in the 64 bytes of the response words (R504; log 47). -/
def State.unlockReq (s : State) (who port seq : Nat) : State :=
  let ok := decide (port < 2) && s.responds 0x100000 && s.owns who && s.phase == .ready && s.fld (aSec 0) 0 2 != 2 && s.fld (0x100048 + 0x1000 * port) 0 1 == 0
  if !ok then s.mailbox who port seq 0x52 fun s => (s, 0) else
  let (r, s) := (List.range 4).foldl (fun (x : List Nat × State) _ => let (v, s) := x.2.freely 47; (x.1 ++ [v], s)) (([] : List Nat), s)
  let c := leBytes 8 (s.fld 0 24 40) ++ (r.flatMap fun v => leBytes 8 v) ++ leBytes 8 (s.fld (aSec 8) 0 32) ++ leBytes 8 s.rlog.boots ++ zeros 8
  let s := { s with sec := { s.sec with challenge := some (c, s.time.toNat) } }.setLock 1
  s.respond port seq 0 ((List.range 8).map fun i => leNat ((c.drop (8 * i)).take 8))
def execUnlockreq (port seq : Nat) (s : State) : Host.Outcome State Fault Refusal := .next (s.unlockReq port port seq)

/-- Sessions end, keys are destroyed, every store is zeroed, the count is raised (R505). -/
def State.unlockNow (s : State) : State :=
  let s := (List.range 16).foldl (fun s p => s.portOut p 0) s
  let s := (List.range 2).foldl (fun (s : State) p =>
    let s := ((s.host p).streams.filter fun (x : Nat × (Nat × Bool)) => x.2.1 == 1).foldl (fun s x => s.setStream p x.1 2 x.2.2) s
    s.putHost p { s.host p with sessions := [], keys := [] }) s
  let s : State := { s with mem := [], poison := [], tags := [], halves := [], nodes := NMap.mapV s.nodes fun x => { Node.init with clock := x.clock, refreshes := x.refreshes }
                            queues := [], cores := [], rlog := { s.rlog with unlocks := s.rlog.unlocks + 1 }
                            sec := { s.sec with handles := [], akey := none, spares := [], challenge := none } }
  (((s.setFld (aSec 0) 3 3 0).setFld (aSec 0) 8 16 s.rlog.unlocks)).setLock 2

/-- UNLOCK: a valid token names the challenge, is signed by the field-return key, and no slice is enabled; any other is refused (R504,
R505). -/
def State.unlock (s : State) (token : Option (List Byte)) : State × Nat :=
  let ok := match token, s.sec.challenge with
    | some t, some c => s.fld (aSec 0) 0 2 == 1 && Config.sigOk 2 (c.1 ++ t) && (List.range 64).all fun sl => !s.exists? sl
    | _, _ => false
  if ok then (s.unlockNow, 0) else ((s.flag (aSec 0x10) 4).satInc (aSec 0x18) 32 16, 1)
def execUnlock (port seq : Nat) (token : Option (List Byte)) (s : State) : Host.Outcome State Fault Refusal :=
  .next (s.mailbox port port seq 0x53 fun s => s.unlock token)

/-- A challenge is valid for at most an hour (R504). -/
def execUnlockChallengeExpiry (s : State) : Host.Outcome State Fault Refusal :=
  match s.sec.challenge with
  | some (_, t) => .next (if s.time.toNat < t + 3600000000000 then s else { s with sec := { s.sec with challenge := none } }.setLock 0)
  | none => .next s

/-- A write of MGT_CMD by its operation: the commands above without what their host reads supply, or status 0x03 (R544). -/
def State.command (s : State) (who port value : Nat) : State :=
  let op := value % 256
  let seq := value / 256 % 256
  let m (act : State → State × Nat) : State := s.mailbox who port seq op act
  match op with
  | 0x10 => m fun s => s.stageRoutes none
  | 0x20 => m fun s => s.fwUpdate port
  | 0x21 => m State.handover
  | 0x22 => m fun s => s.dieReload port
  | 0x23 => m fun s => s.subst port
  | 0x24 => m fun s => s.recal port
  | 0x25 => m fun s => s.pdPower port
  | 0x26 => s.mreset who port seq
  | 0x40 => m fun s => s.hbmGrant port
  | 0x41 => s.hbmFree who port seq
  | 0x42 => m fun s => s.mapPage port
  | 0x43 => m fun s => s.unmapPage port
  | 0x44 => m fun s => s.objLoad port
  | 0x45 => m fun s => s.migrate port
  | 0x50 => s.attestCmd port seq
  | 0x51 => m fun s => s.cfgrec none
  | 0x52 => s.unlockReq who port seq
  | 0x53 => m fun s => s.unlock none
  | _ => if 2 ≤ port || !s.responds 0x100000 || s.fld (0x100048 + 0x1000 * port) 0 1 == 1 then s else s.respond port seq 3 []

end Sys2Proof.Machine
end

