-- ==== Sys2Proof/Machine/RegAccess.lean ====
section
/-! DEFINITION. Reads and writes of registers by hosts and pod owners: PF0 BAR0, slice windows, MSI-X tables, BARs, the pod window (R5 to R9,
R428, R429, R434, R444, R448 to R450, R541, R574). -/

namespace Sys2Proof.Machine

/-- Whether an offset lies in the CDC window or an LLM half of an absent die (R23); the home map belongs to the module. -/
def State.absentAt (s : State) (a : Nat) : Bool :=
  (decide (0xC00000 ≤ a) && decide (a < 0xD00000) && !s.present ((a - 0xC00000) / 0x8000) && !(decide (0xC02000 ≤ a) && decide (a < 0xC02400))) ||
  (decide (0x1000000 ≤ a) && decide (a < 0x1800000) && !s.present ((a - 0x1000000) / 0x40000))

/-- An access to a window of an absent die records an error; its severity and code are free values (R23; log 20). -/
def State.absentAccess (s : State) (host a : Nat) : State :=
  let (v, s) := s.freely 21
  s.record { sev := v % 7, block := blockOf a, code := v / 8 % 2 ^ 16, die := s.actDie, unit := host }

/-- NET_DIE_STATUS: 0 failed, 1 in service, 2 a retired node in transit mode; edges with a link in service (R372). -/
def State.dieStatus (s : State) (d : Nat) : Nat :=
  let st := NMap.get 0 s.dieState d
  (if 60 ≤ d ∨ st = 2 ∨ st = 7 then 0 else if st = 3 then 2 else 1) +
  (List.range 4).foldl (fun v e => if decide (d < 60) && (List.range 8).any (fun l => (s.blink d e l).mode == 1 || (s.blink d e l).mode == 2) then v + 2 ^ (2 + e) else v) 0

/-- NET_EDGE_STATUS (R372). -/
def State.edgeStatus (s : State) (d e : Nat) : Nat :=
  if 60 ≤ d then 0 else (List.range 8).foldl (fun v l => v + ((s.blink d e l).mode + (s.blink d e l).spares * 4) * 2 ^ (8 * l)) 0

/-- A word of the selected error record, and whether it is held (R546, R555). -/
def State.errSel (s : State) : Option (List Nat) :=
  let i := s.fld (aErr 0x10) 0 32
  if s.fld (aErr 0x10) 32 1 = 1 then s.errSaved[i]? else s.errlog[i]?

/-- The seam clock of a half's die: the slower of the clocks of its two sides, a gated one at 600 MHz (R274). -/
def State.seamMhz (s : State) (h : Nat) : Nat :=
  let side (h : Nat) : Nat := if s.gated h then 600 else s.mhz h
  min (side (h / 2 * 2)) (side (h / 2 * 2 + 1))

/-- The fields of a register that are computed from other state, 0 where there are none, and the bits they take. -/
def State.computed (s : State) (a : Nat) : Nat × Nat :=
  if a = aHpStatus 0 ∨ a = aHpStatus 1 then
    let p := (a - 0x10000) / 0x100
    (2 ^ 7 + (2 ^ 7 - 1) * 2 ^ 12, (s.owns p).toNat * 2 ^ 7 + ((List.range 64).countP fun sl => s.exists? sl && s.portOf sl == p) * 2 ^ 12)
  else if a = 0x1000C0 ∨ a = 0x1010C0 then (2 ^ 64 - 1, ((NMap.get [] s.events ((a - 0x100000) / 0x1000)).headD 0))
  else if 0xC00000 ≤ a ∧ a < 0xD00000 ∧ a % 0x4000 = 0x60 then (2 ^ 12 - 1, s.seamMhz ((a - 0xC00000) / 0x4000))
  else if 0x300100 ≤ a ∧ a < 0x300300 then (2 ^ 64 - 1, (s.slot ((a - 0x300100) / 0x20)).toNat / 2 ^ (64 * (a % 0x20 / 8)) % 2 ^ 64)
  else if 0x400300 ≤ a ∧ a < 0x400500 then ((2 ^ 12 - 1) * 2 ^ 25, s.milliVolts ((a - 0x400300) / 8) * 2 ^ 25)
  else if 0x710000 ≤ a ∧ a < 0x748000 then
    let d := s.dieOfWindow ((a - 0x710000) / 0x1000)
    let r := a % 0x1000
    if r = 0 then (2 ^ 6 - 1, s.dieStatus d) else if 8 ≤ r ∧ r < 0x28 then (2 ^ 64 - 1, s.edgeStatus d (r / 8 - 1)) else (0, 0)
  else if a = aErr 0x10 then (2 ^ 63, s.errSel.isSome.toNat * 2 ^ 63)
  else if aErr 0x40 ≤ a ∧ a < aErr 0x80 then (2 ^ 64 - 1, (s.errSel.getD []).getD ((a - aErr 0x40) / 8) 0)
  else (0, 0)

/-- What a read of a listed register returns: staged values in its ST fields, 0 in its WO fields (R7, R9). -/
def State.view (s : State) (a : Nat) : Nat :=
  let st := accMask a .st
  let v := s.reg a
  let v := v - (v &&& st) + (s.stagedReg a &&& st)
  let (m, c) := s.computed a
  v - (v &&& m) + c % 2 ^ 64

/-- A read clears the RC fields to their reset value; the event queue of MGT_EVT moves on (R7, R544). -/
def State.rcClear (s : State) (a : Nat) : State :=
  let m := accMask a .rc
  if a = 0x1000C0 ∨ a = 0x1010C0 then
    let p := (a - 0x100000) / 0x1000
    { s with events := NMap.put s.events p (NMap.get [] s.events p).tail }
  else if m = 0 then s else s.setReg a (s.reg a - (s.reg a &&& m) + (regReset a &&& m))

/-- `n` bytes of ones. -/
def ones (n : Nat) : Nat := 2 ^ (8 * n) - 1

/-- A read of PF0 BAR0 by a manager function, 2 the pod owner: its value (R5, R23, R429, R447, R574). -/
def State.bar0Read (s : State) (host a size : Nat) : State × Nat :=
  let a := a % 2 ^ 28
  if !s.responds a then (s, ones size)
  else if size ≠ 8 ∨ a % 8 ≠ 0 then (s.badAccess host a 0, ones size)
  else if s.absentAt a then (s.absentAccess host a, ones size)
  else if (regFields a).isEmpty then (s.badAccess host a 3, 0)
  else (if s.owns host then s.rcClear a else s, s.view a)

/-- Whether a value puts a reserved encoding into a field that is not staged (R8). -/
def reservedIn (a v : Nat) : Bool :=
  (regFields a).any fun f => f.acc != .st && f.acc != .ro && f.acc != .rc && (decide (bits v f.lo f.w < f.min) || decide (f.max < bits v f.lo f.w))

/-- The RW and W1C fields of a register take a written value; its ST fields are staged, unless a commit is in progress (R7, R9, R541). -/
def State.writeFields (s : State) (a v : Nat) : State :=
  let rw := accMask a .rw
  let w1 := accMask a .w1c
  let st := accMask a .st
  let s := if rw = 0 ∧ w1 = 0 then s else
    let x := s.reg a
    let x := x - (x &&& rw) + (v &&& rw)
    s.setReg a (x - (x &&& (v &&& w1)))
  if st = 0 then s
  else if s.commitState ≠ 0 then s.flag 0x28 0
  else
    let x := s.stagedReg a &&& st
    { s with staged := NMap.put s.staged a (BitVec.ofNat 64 (x - (x &&& st) + (v &&& st))) }

/-- Every counter of a node's predictor is 1 (R326). -/
def State.clearPredictor (s : State) (n : Nat) : State := s.putNode n { s.node n with pred := [] }

/-- What the WO fields of a register do, and what follows a write of an RW field: DISCARD before GO, STOP before START (R7; log 53). -/
def State.writeActs (s : State) (who a v : Nat) : State :=
  if a = 0x10 then
    let s := if bit v 1 then s.commitDiscard else s
    if bit v 0 then s.commitGo else s
  else if a = 0x100040 ∨ a = 0x101040 then s.command who ((a - 0x100000) / 0x1000) v
  else if 0x200000 ≤ a ∧ a < 0x240000 ∧ a % 0x1000 = 0x48 then
    let sl := (a - 0x200000) / 0x1000
    let s := if bit v 1 then s.jobEnd sl 3 0 else s
    if bit v 0 then s.jobStart sl else s
  else if a = aPwr 8 then s.newLimit
  else if 0x600100 ≤ a ∧ a < 0x600300 ∧ a % 0x20 = 0 then
    let p := (a - 0x600100) / 0x20
    if bit v 3 then s.cfgRetrain p else s
  else if a = aLnk 0x18 then s.rematch
  else if 0x710000 ≤ a ∧ a < 0x748000 ∧ a % 0x1000 = 0x28 then s.linkCtrl ((a - 0x710000) / 0x1000) (v % 2 ^ 32)
  else if 0x780000 ≤ a ∧ a < 0x792000 ∧ a % 0x1000 = 8 then if bit v 2 then s.clearPredictor ((a - 0x780000) / 0x1000) else s
  else if 0xC00000 ≤ a ∧ a < 0xD00000 ∧ a % 0x4000 = 0x20 then
    let h := (a - 0xC00000) / 0x4000
    if bit v 0 ∧ s.fld (aLlm h 0x18) 0 2 = 1 then s.setFld (aLlm h 0x18) 0 2 2 else s
  else s

/-- Whether a register lies in the MEM window of a retired node, which takes writes to MEM_CTRL alone (R303). -/
def State.memRetired (s : State) (a : Nat) : Bool :=
  decide (0x800000 ≤ a ∧ a < 0x920000 ∧ a % 0x10000 ≠ 0) && s.fld (aMem ((a - 0x800000) / 0x10000) 8) 0 2 == 3

/-- A write of a listed register in one aligned access; a reserved encoding discards it whole (R7, R8), a retired node takes none (R303). -/
def State.regWrite (s : State) (host a v : Nat) : State :=
  if reservedIn a v then s.badAccess host a 2
  else if s.memRetired a then s else (s.writeFields a v).writeActs host a v

/-- A write to PF0 BAR0 by a manager function, 2 the pod owner (R5, R23, R429, R447, R574). -/
def State.bar0Write (s : State) (host a size v : Nat) : State :=
  let a := a % 2 ^ 28
  s.mgrWrite host a fun s =>
    if size ≠ 8 ∨ a % 8 ≠ 0 then s.badAccess host a 1
    else if s.absentAt a then s.absentAccess host a
    else if (regFields a).isEmpty then s.badAccess host a 4
    else s.regWrite host a (v % 2 ^ 64)

/-- Energy of a slice in µJ: 0 to 3 the four counters, 4 their sum (R531). -/
def Slice.microjoules (x : Slice) (i : Nat) : Nat := (if i = 4 then ((List.range 4).map fun j => NMap.get 0 x.energy j).sum else NMap.get 0 x.energy i) / 1000000

/-- What a slice reads at an offset of its window (R280, R397, R434, R435, R482, R532). -/
def State.sliceView (s : State) (sl o : Nat) : Nat :=
  let x := s.slice sl
  if o < 0x8000 then (if s.qOwner (o / 0x40) = sl then 2 ^ 64 - 1 else 0)
  else if o < 0x9000 then (if s.qOwner (o % 0x1000 / 8) = sl then s.qstat (o % 0x1000 / 8) + (s.qFailed (o % 0x1000 / 8)).toNat * 2 ^ 52 else 0)
  else if o < 0xA000 then (if s.qOwner (o % 0x1000 / 8) = sl then s.sreg sl o else 0)
  else if o = 0xA080 then (List.range 16).foldl (fun v d => v + (x.bells.countP fun b => b.1 == d) * 2 ^ (4 * d)) 0
  else if o = 0xA090 then s.gen sl + s.jobOf sl * 2 ^ 16 + s.fld (aSlc sl 0x40) 24 8 * 2 ^ 24 + s.portOf sl * 2 ^ 32
  else if 0xD800 ≤ o ∧ o < 0xD828 then x.microjoules ((o - 0xD800) / 8) % 2 ^ 64
  else if o = 0xD830 then
    let q := s.sreg sl 0xD828
    if s.qOwner q = sl ∧ s.qEn q then NMap.get 0 x.qenergy q / 1000000 % 2 ^ 64 else 0
  else if o = 0xA088 ∨ (0xC000 ≤ o ∧ o < 0xC0C0) ∨ (0xD008 ≤ o ∧ o < 0xD068) ∨ o = 0xD828 then s.sreg sl o
  else 0

/-- A narrow or misaligned access to a slice window is recorded; the spec gives its record no BAR0 offset, so that DETAIL [27:0] is a free
value (R5, R576; log 54). -/
def State.badTenant (s : State) (port kind : Nat) : State :=
  let (v, s) := s.freely 20
  s.record { sev := 6, block := 0, code := 0x8000, die := s.actDie, unit := port, detail := v % 2 ^ 28 + kind * 2 ^ 28 }

/-- A read of a slice window (R5, R434, R444). -/
def State.sliceRead (s : State) (port : Nat) (pasid : Option Nat) (o size : Nat) : State :=
  let t := s.tenant port pasid fun sl s =>
    if o < 0x8000 then s.emit (.tenantAnswer port pasid (if s.qOwner (o / 0x40) = sl then ones size else 0))
    else if size ≠ 8 ∨ o % 8 ≠ 0 then (s.badTenant port 0).emit (.tenantAnswer port pasid (ones size))
    else s.emit (.tenantAnswer port pasid (s.sliceView sl o))
  if t.out.length = s.out.length then t.emit (.unsupported port) else t

/-- A write to a slice window (R5, R280, R397, R434, R435, R482, R532). -/
def State.sliceWrite (s : State) (port : Nat) (pasid : Option Nat) (o size v : Nat) : Host.Outcome State Fault Refusal :=
  if o < 0x8000 then execHostPush port pasid o (leBytes size v) s
  else if size = 8 ∧ o % 8 = 0 ∧ 0xA000 ≤ o ∧ o < 0xA080 then execSlcSDoorbell port pasid ((o - 0xA000) / 8) v s
  else .next (s.tenant port pasid fun sl s =>
    if size ≠ 8 ∨ o % 8 ≠ 0 then s.badTenant port 1
    else if o = 0xD000 then
      let s := if bit v 1 then s.jobEnd sl 2 0 else s
      if bit v 0 then s.jobStart sl else s
    else if o = 0xD828 then s.setSreg sl o (v % 2 ^ 9)
    else if o = 0xC080 then s.setSreg sl o (s.sreg sl o - (s.sreg sl o &&& (v &&& 15)))
    else if 0x8000 ≤ o ∧ o < 0xA000 ∧ s.qOwner (o % 0x1000 / 8) ≠ sl then s.hostDrop (o % 0x1000 / 8) sl false
    else s)

/-- A word of a host port's configuration that its host wrote; a change of PF1's BARs or MSI-X table moves a locked TDI to ERROR (R428,
R444). -/
def State.hostCfg (s : State) (port fn k v : Nat) : State :=
  let x := s.host port
  if NMap.get 0 x.cfg k = BitVec.ofNat 64 v then s else
  let s := s.putHost port { x with cfg := NMap.set 0 x.cfg k (BitVec.ofNat 64 v) }
  if fn = 1 then s.tdiError port else s

/-- Sizes of the BARs that a function has (R428). -/
def barSize (fn n : Nat) : Option Nat :=
  match fn, n with | 0, 0 => some (2 ^ 28) | 0, 2 => some (2 ^ 16) | 0, 4 => some (2 ^ 34) | 1, 0 => some (2 ^ 16) | 1, 2 => some (2 ^ 16) | _, _ => none

/-- A write to a register without a row of its own, an MSI-X table or a BAR. -/
def execRegisterWrite (w : RegWrite) (s : State) : Host.Outcome State Fault Refusal :=
  match w with
  | .reg (.bar0 host a size) v => .next (if 2 ≤ host then s else s.bar0Write host a size v)
  | .reg (.slice port pasid o size) v => if 2 ≤ port ∨ 0x10000 ≤ o then .next s else s.sliceWrite port pasid o size v
  | .msix port fn o v => .next (if 2 ≤ port || 2 ≤ fn || (if fn = 0 then decide (0x200 ≤ o) else decide (0x1000 ≤ o)) || s.phase = .off || s.phase = .delayed then s else s.hostCfg port fn (0x10000 * (1 + fn) + o / 8 * 8) v)
  | .bar port fn n v => .next (match barSize fn n with
    | some z => if 2 ≤ port || s.phase = .off || s.phase = .delayed then s else s.hostCfg port fn (8 * fn + n) (v % 2 ^ 64 / z * z)
    | none => s)

/-- A read of a register with an RC field (R7, R429). -/
def State.readOut (s : State) (host a size : Nat) : State := let r := s.bar0Read host a size; r.1.emit (.answer host r.2)
def execRcRead (host ofs : Nat) (s : State) : Host.Outcome State Fault Refusal := .next (if 2 ≤ host then s else s.readOut host ofs 8)

/-- A read that is narrow, misaligned, or of an offset that no chapter lists (R5, R574). -/
def execBadRegisterRead (at_ : RegPlace) (s : State) : Host.Outcome State Fault Refusal :=
  match at_ with
  | .bar0 host a size => .next (if 2 ≤ host then s else s.readOut host a size)
  | .slice port pasid o size => .next (if 2 ≤ port ∨ 0x10000 ≤ o then s else s.sliceRead port pasid o size)

/-- MGT_EVT returns the oldest event that waits; a read by the owner removes it (R7, R544). -/
def execMgtEvtRead (host port : Nat) (s : State) : Host.Outcome State Fault Refusal :=
  .next (if 2 ≤ host ∨ 2 ≤ port then s else s.readOut host (0x1000C0 + 0x1000 * port) 8)

/-- ALERT_N deasserts (R546). -/
def execErrStatusAlertClear (host : Nat) (s : State) : Host.Outcome State Fault Refusal := .next (if 2 ≤ host then s else s.bar0Write host (aErr 0) 8 1)

/-- A write of NET_COH_PRED_CFG with CLR = 1 (R326). -/
def execNetCohPredCfgClr (host node value : Nat) (s : State) : Host.Outcome State Fault Refusal :=
  .next (if 2 ≤ host ∨ 18 ≤ node then s else s.bar0Write host (aCoh node 8) 8 (value % 4 + 4))

/-- A packet of the management tunnel (R403, R448; log 52). -/
def State.tunnelPacket (s : State) (dst opid addr value : Nat) : Packet :=
  { ty := 0xA, vc := 4, kidx := 0, seq := 0, ack := 0, xp := 0, src := s.ownModule, dst := dst, job := 0, gen := 0, opid := opid, addr := addr, key := 0, hops := 0, payload := leBytes 32 value }

/-- An access to the pod window: to the module itself directly, to another by a tunnel packet; at most 64 reads are outstanding, further
ones wait (R448, R450). -/
def execPodWindowAccess (port ofs size : Nat) (write : Option Nat) (s : State) : Host.Outcome State Fault Refusal :=
  let map := s.reg (0x10400 + 8 * (ofs / 2 ^ 28))
  let m := bits map 0 15
  let a := ofs % 2 ^ 28
  if 2 ≤ port ∨ 2 ^ 34 ≤ ofs ∨ 8 < size then .next s
  else if s.phase ≠ .ready || !s.owns port || !bit map 15 then .next (if write.isSome then s else s.emit (.answer port (ones size)))
  else if m = s.ownModule then .next (match write with | some v => s.bar0Write port a size v | none => s.readOut port a size)
  else
    let op := NMap.get 0 s.opids m
    let p := s.tunnelPacket m op (tunnelAddr a size write.isSome.toNat port) (write.getD 0)
    let s := { s with opids := NMap.put s.opids m ((op + 1) % 2 ^ 32) }
    let x := s.host port
    if write.isSome then .next (s.linkSend (46 + s.actDie) none p)
    else
      let full := decide (64 ≤ x.tunnels.countP fun t => t.2.2.2.isNone)
      let s := s.putHost port { x with tunnels := x.tunnels ++ [(op, m, s.time.toNat, if full then some p else none)] }
      .next (if full then s else s.linkSend (46 + s.actDie) none p)

/-- 10 ms after its arrival a tunnelled read completes with all ones (R450). -/
def execTunnelReadTimeout (port module opid : Nat) (s : State) : Host.Outcome State Fault Refusal :=
  .next (match (s.host port).tunnels.find? fun t => t.1 == opid && t.2.1 == module with
    | some t => if 2 ≤ port || decide (s.time.toNat < t.2.2.1 + 10000000) then s else (s.tunnelEnd port module opid (2 ^ 64 - 1)).tunnelFail port
    | none => s)

/-- A tunnel packet arrives: an access of the pod owner is performed, any other refused; an answer ends its read; a notice of another
module goes to the managers (R406, R412, R449). -/
def State.tunnelIn (s : State) (port : Nat) (p : Packet) : State :=
  let kind := bits p.addr 32 2
  let from_ := bits p.addr 34 1
  let a := bits p.addr 0 28
  let size := bits p.addr 28 4
  if !bit p.addr 35 then (s.emit (.event 0 0x406 [p.src, p.key])).emit (.event 1 0x406 [p.src, p.key])
  else if kind = 2 then s.tunnelEnd from_ p.src p.opid (leNat (p.payload.take size))
  else if s.fld aOwner 19 2 ≠ 2 || s.fld aOwner 3 15 ≠ p.src || s.fld aOwner 18 1 ≠ from_ || 1 < kind then s.refuse port p
  else if kind = 1 then s.bar0Write 2 a size (leNat (p.payload.take size))
  else
    let r := s.bar0Read 2 a size
    r.1.linkSend (100 + portDie port) none (s.tunnelPacket p.src p.opid (tunnelAddr a size 2 from_) r.2)
def execManagementTunnel (port : Nat) (p : Packet) (s : State) : Host.Outcome State Fault Refusal := .next (s.ingress port p fun s => s.tunnelIn port p)

end Sys2Proof.Machine
end

