-- ==== Sys2Proof/Machine/Spdm.lean ====
section
/-! DEFINITION. The SPDM responder of a port and IDE key programming (R442, R443, R486, R487, R496). Response codes and the order of
the negotiation are those of SPDM 1.2 (log 50). -/

namespace Sys2Proof.Machine

/-- Answers a request: response code and bytes; the transcript keeps both (R442, R486). -/
def State.spdmSay (s : State) (port code : Nat) (bytes : List Byte) : State :=
  let x := s.host port
  (s.putHost port { x with told := x.told ++ leBytes 1 code ++ bytes }).emit (.spdm port code bytes)
/-- The ERROR response. -/
def State.spdmError (s : State) (port why : Nat) : State := s.emit (.spdm port 0x7F (leBytes 1 why))

/-- A request is served once management firmware runs the responder, from the step of the negotiation that it needs. -/
def State.spdmAt (s : State) (port step : Nat) (f : State → State) : State :=
  if 2 ≤ port || s.phase ≠ .ready then s
  else if (s.host port).spdm < step then s.spdmError port 4
  else f s

/-- The supported algorithms: RSASSA-3072, SHA-256, ECDHE secp384r1, AES-256-GCM, one bit each (R442). -/
def spdmAlgorithms : Nat := 15

def execGetVersion (port : Nat) (s : State) : Host.Outcome State Fault Refusal :=
  .next (s.spdmAt port 0 fun s => (s.putHost port { s.host port with spdm := 1, told := [] }).spdmSay port 0x04 (leBytes 1 0x12))
def execGetCapabilities (port : Nat) (s : State) : Host.Outcome State Fault Refusal :=
  .next (s.spdmAt port 1 fun s => (s.putHost port { s.host port with spdm := max 2 (s.host port).spdm }).spdmSay port 0x61 [])
/-- A requester that does not offer one of each gets an error (R442). -/
def execNegotiateAlgorithms (port offered : Nat) (s : State) : Host.Outcome State Fault Refusal :=
  .next (s.spdmAt port 2 fun s =>
    if offered &&& spdmAlgorithms = spdmAlgorithms then (s.putHost port { s.host port with spdm := 3 }).spdmSay port 0x63 (leBytes 1 spdmAlgorithms)
    else s.spdmError port 1)

/-- SHA-256 digests of the chains of slots 0 and 1 (R486). -/
def execGetDigests (port : Nat) (s : State) : Host.Outcome State Fault Refusal :=
  .next (s.spdmAt port 3 fun s => s.spdmSay port 0x01 (digestBytes (Config.sha256 (s.chain 0)) ++ digestBytes (Config.sha256 (s.chain 1))))
/-- Part of a chain. -/
def execGetCertificate (port slot ofs len : Nat) (s : State) : Host.Outcome State Fault Refusal :=
  .next (s.spdmAt port 3 fun s => if 2 ≤ slot then s.spdmError port 1 else s.spdmSay port 0x02 (((s.chain slot).drop ofs).take len))

/-- Signed with the attestation key; waits while a takeover leaves none, and an unlocked module serves none (R486, R492, R505). -/
def State.spdmSigned (s : State) (port code : Nat) (bytes : List Byte) : State :=
  if s.fld (aSec 0) 0 2 = 2 then s.spdmError port 5
  else s.spdmSay port code (bytes ++ s.sign ((s.host port).told ++ bytes))
def execChallenge (port slot : Nat) (nonce : List Byte) (s : State) : Host.Outcome State Fault Refusal :=
  if s.sec.akey.isNone && s.fld (aSec 0) 0 2 != 2 then .next s else
  .next (s.spdmAt port 3 fun s => if slot ≠ 0 then s.spdmError port 1 else s.spdmSigned port 0x03 (digestBytes (Config.sha256 (s.chain 0)) ++ nonce.take 32))
/-- The number of slots, one slot, or all of them (R487). -/
def execGetMeasurements (port index : Nat) (signed : Bool) (nonce : List Byte) (s : State) : Host.Outcome State Fault Refusal :=
  if signed && s.sec.akey.isNone && s.fld (aSec 0) 0 2 != 2 then .next s else
  .next (s.spdmAt port 3 fun s =>
    let body := if index = 0 then leBytes 1 16 else if index = 255 then (List.range 16).flatMap fun i => digestBytes (s.slot i) else digestBytes (s.slot (index - 1))
    if 16 < index ∧ index ≠ 255 then s.spdmError port 1
    else if signed then s.spdmSigned port 0x60 (body ++ nonce.take 32)
    else s.spdmSay port 0x60 body)

/-- A session opens: at most four a port (R442). -/
def execKeyExchange (port slot : Nat) (point : List Byte) (s : State) : Host.Outcome State Fault Refusal :=
  if s.sec.akey.isNone && s.fld (aSec 0) 0 2 != 2 then .next s else
  .next (s.spdmAt port 3 fun s =>
    if s.fld (aSec 0) 0 2 = 2 then s.spdmError port 5
    else if slot ≠ 0 then s.spdmError port 1
    else if 4 ≤ (s.host port).sessions.length then s.spdmError port 3
    else
      let (priv, s) := s.freely 45
      match Config.ecShared priv point with
      | none => s.spdmError port 1
      | some z =>
        let x := s.host port
        let sn : Session := { id := x.nextSession, secret := leBytes 48 z, open_ := false, updates := 0 }
        (s.putHost port { x with sessions := x.sessions ++ [sn], nextSession := x.nextSession + 1 }).spdmSigned port 0x64 (leBytes 4 x.nextSession ++ Config.ecPoint priv))

/-- An operation on a session of the port. -/
def State.inSession (s : State) (port id : Nat) (f : Session → State → State) : State :=
  s.spdmAt port 3 fun s => match (s.host port).sessions.find? fun x => x.id == id with
    | some x => f x s
    | none => s.spdmError port 2
/-- Replaces a session. -/
def State.putSession (s : State) (port : Nat) (x : Session) : State :=
  let h := s.host port
  s.putHost port { h with sessions := h.sessions.map fun y => if y.id = x.id then x else y }
def State.dropSession (s : State) (port id : Nat) : State :=
  let h := s.host port
  s.putHost port { h with sessions := h.sessions.filter fun y => y.id != id }

/-- The requester's proof is good, and the session is open, or the session is gone (R442). -/
def execFinish (port session : Nat) (good : Bool) (s : State) : Host.Outcome State Fault Refusal :=
  .next (s.inSession port session fun x s =>
    if x.open_ then s.spdmError port 4
    else if good then (s.putSession port { x with open_ := true }).spdmSay port 0x65 []
    else (s.dropSession port session).spdmError port 6)
def execKeyUpdate (port session : Nat) (s : State) : Host.Outcome State Fault Refusal :=
  .next (s.inSession port session fun x s => if x.open_ then (s.putSession port { x with updates := x.updates + 1 }).spdmSay port 0x69 [] else s.spdmError port 4)
def execHeartbeat (port session : Nat) (s : State) : Host.Outcome State Fault Refusal :=
  .next (s.inSession port session fun x s => if x.open_ then s.spdmSay port 0x68 [] else s.spdmError port 4)
/-- Programmed streams keep running (R496). -/
def execEndSession (port session : Nat) (s : State) : Host.Outcome State Fault Refusal :=
  .next (s.inSession port session fun x s => if x.open_ then (s.dropSession port session).spdmSay port 0x6C [] else s.spdmError port 4)

/-- KEY_PROG in a session: the stream's key is derived on chip and the stream is Secure; a key field that is not all zeros is refused
and the stream stays off (R443, R496). `info` holds key set, direction and sub-stream, a byte each. -/
def execKeyProg (port session stream info : Nat) (zero pf1 : Bool) (s : State) : Host.Outcome State Fault Refusal :=
  .next (s.inSession port session fun x s =>
    if !x.open_ || 5 ≤ stream then s.spdmError port 4
    else if !zero then s.spdmError port 1
    else
      let key := Config.hkdf 3 (leNat x.secret) [] (("uzm ide".toList.map fun c => BitVec.ofNat 8 c.toNat) ++ leBytes 1 stream ++ leBytes 3 info)
      let h := s.host port
      (s.putHost port { h with keys := NMap.put h.keys (2 ^ 24 * stream + info % 2 ^ 24) key }).setStream port stream 1 pf1)

end Sys2Proof.Machine
end

