-- ==== Sys2Proof/Machine/Uniform.lean ====
section
/-! DEFINITION. Uniform and cross-lane instructions (R74, R78). -/

namespace Sys2Proof.Machine

/-- Issues a uniform operation: 64 bits, once, for the whole group, PG = 0 (R68, R74). -/
def uniOp (legal : Bool) (us : List Nat) (f : Ctx → Group) (x : Site) (w : UF) (s : State) : Host.Outcome State Fault Refusal :=
  issue x (w.h.unguarded && legal) [] us w.h (groupEff f) s

/-- A uniform operation on u[A] and u[B] with no immediate. -/
def uniBin (f : W64 → W64 → W64) (x : Site) (w : UF) (s : State) : Host.Outcome State Fault Refusal :=
  uniOp (w.imm == 0) [w.dst.toNat, w.a.toNat, w.b.toNat]
    (fun c => c.g.setU w.dst.toNat (f (c.g.ureg w.a.toNat) (c.g.ureg w.b.toNat))) x w s

def execAddUniform (x : Site) (w : UF) (s : State) : Host.Outcome State Fault Refusal := uniBin (fun a b => a + b) x w s
def execSubUniform (x : Site) (w : UF) (s : State) : Host.Outcome State Fault Refusal := uniBin (fun a b => a - b) x w s
def execMulUniform (x : Site) (w : UF) (s : State) : Host.Outcome State Fault Refusal := uniBin (fun a b => a * b) x w s
def execAndUniform (x : Site) (w : UF) (s : State) : Host.Outcome State Fault Refusal := uniBin (fun a b => a &&& b) x w s
def execOrUniform (x : Site) (w : UF) (s : State) : Host.Outcome State Fault Refusal := uniBin (fun a b => a ||| b) x w s
def execXorUniform (x : Site) (w : UF) (s : State) : Host.Outcome State Fault Refusal := uniBin (fun a b => a ^^^ b) x w s
/-- The count is u[B] as an unsigned number; one at or above 64 gives 0, or the sign bits for sra (R73, R74). -/
def execShlUniform (x : Site) (w : UF) (s : State) : Host.Outcome State Fault Refusal := uniBin (fun a b => a <<< b) x w s
def execShrUniform (x : Site) (w : UF) (s : State) : Host.Outcome State Fault Refusal := uniBin (fun a b => a >>> b) x w s
def execSraUniform (x : Site) (w : UF) (s : State) : Host.Outcome State Fault Refusal := uniBin (fun a b => a.sshiftRight b.toNat) x w s
def execMinUniform (x : Site) (w : UF) (s : State) : Host.Outcome State Fault Refusal := uniBin (fun a b => if a.sle b then a else b) x w s
def execMaxUniform (x : Site) (w : UF) (s : State) : Host.Outcome State Fault Refusal := uniBin (fun a b => if a.sle b then b else a) x w s
def execAddi (x : Site) (w : UF) (s : State) : Host.Outcome State Fault Refusal :=
  uniOp (w.b == 0) [w.dst.toNat, w.a.toNat] (fun c => c.g.setU w.dst.toNat (c.g.ureg w.a.toNat + w.imm.signExtend 64)) x w s
def execMovi (x : Site) (w : UF) (s : State) : Host.Outcome State Fault Refusal :=
  uniOp (w.a == 0 && w.b == 0) [w.dst.toNat] (fun c => c.g.setU w.dst.toNat (w.imm.signExtend 64)) x w s
def execOri (x : Site) (w : UF) (s : State) : Host.Outcome State Fault Refusal :=
  uniOp (w.b == 0) [w.dst.toNat, w.a.toNat] (fun c => c.g.setU w.dst.toNat (c.g.ureg w.a.toNat ||| w.imm.zeroExtend 64)) x w s

/-- v2u: the named vector register of the lowest active lane of the path, zero-extended. -/
def execV2u (x : Site) (w : UF) (s : State) : Host.Outcome State Fault Refusal :=
  let r := w.imm.toNat % 256
  issue x (w.h.unguarded && w.a == 0 && w.b == 0 && decide (w.imm.toNat < 256)) [r] [w.dst.toNat] w.h (groupEff fun c =>
    c.g.setU w.dst.toNat ((c.g.vreg r (lowestLane c.p.mask)).zeroExtend 64)) s

/-- u2q: bit l of u[A] into the predicate of each active lane l, and of no other lane. -/
def execU2q (x : Site) (w : UF) (s : State) : Host.Outcome State Fault Refusal :=
  uniOp (decide (w.dst.toNat < 8) && w.b == 0 && w.imm == 0) [w.a.toNat]
    (fun c => c.g.setPred w.dst.toNat c.p.mask ((c.g.ureg w.a.toNat).truncate 32)) x w s

/-- setp.u: a signed comparison into the predicate of each active lane. -/
def execSetpU (x : Site) (w : UF) (s : State) : Host.Outcome State Fault Refusal :=
  uniOp (decide (w.dst.toNat < 8) && decide (w.imm.toNat < 6)) [w.a.toNat, w.b.toNat]
    (fun c => c.g.setPred w.dst.toNat c.p.mask
      (if intCond w.imm.toNat (c.g.ureg w.a.toNat).toInt (c.g.ureg w.b.toNat).toInt then allLanes else 0)) x w s

/-- Legality of a cross-lane word: no modifier, no type but 0 (R76, R78, R119). -/
def crossOk (w : VV) : Bool :=
  w.h.ok && w.ty == 0 && w.rnd == 0 && !w.sat && !w.na && !w.nc && !w.aa

/-- A shuffle: `src b l` is the source lane (R78). A source that is no active lane gives the lane's own value. -/
def shuffle (src : Nat → Nat → Option Nat) (x : Site) (w : VV) (s : State) : Host.Outcome State Fault Refusal :=
  issue x (crossOk w && w.c == 0 && w.bOk {}) ([w.dst.toNat, w.a.toNat] ++ (if w.ub then [] else [w.b.toNat])) w.uregs w.h
    (groupEff fun c => c.g.mapV w.dst.toNat (c.guarded w.h) fun l =>
      let j := (src (w.bLane c.g l) l).getD 32
      if j < 32 ∧ inMask c.p.mask j then c.g.vreg w.a.toNat j else c.g.vreg w.a.toNat l) s

def execShflIdx (x : Site) (w : VV) (s : State) : Host.Outcome State Fault Refusal :=
  shuffle (fun b _ => some (b % 32)) x w s
def execShflUp (x : Site) (w : VV) (s : State) : Host.Outcome State Fault Refusal :=
  shuffle (fun b l => if b ≤ l then some (l - b) else none) x w s
def execShflDown (x : Site) (w : VV) (s : State) : Host.Outcome State Fault Refusal :=
  shuffle (fun b l => some (l + b)) x w s
def execShflXor (x : Site) (w : VV) (s : State) : Host.Outcome State Fault Refusal :=
  shuffle (fun b l => some (l ^^^ b)) x w s

/-- A vote: `f active holding` from the active lanes and those of them whose predicate is 1 (R78). -/
def vote (f : W32 → W32 → W32) (x : Site) (w : VV) (s : State) : Host.Outcome State Fault Refusal :=
  issue x (crossOk w && w.a == 0 && w.b == 0 && !w.ub && decide (w.c.toNat < 8)) [w.dst.toNat] [] w.h (groupEff fun c =>
    c.g.mapV w.dst.toNat (c.guarded w.h) fun _ => f c.p.mask (c.g.pred w.c.toNat &&& c.p.mask)) s

def execVoteAny (x : Site) (w : VV) (s : State) : Host.Outcome State Fault Refusal := vote (fun _ p => if p = 0 then 0 else 1) x w s
def execVoteAll (x : Site) (w : VV) (s : State) : Host.Outcome State Fault Refusal := vote (fun a p => if p = a then 1 else 0) x w s
def execBallot (x : Site) (w : VV) (s : State) : Host.Outcome State Fault Refusal := vote (fun _ p => p) x w s

end Sys2Proof.Machine
end

