-- ==== Sys2Proof/Machine/VecFloat.lean ====
section
/-! DEFINITION. Float vector instructions and conversions (R75 to R77, R120 to R122). -/

namespace Sys2Proof.Machine

def execFma (x : Site) (w : VForm) (s : State) : Host.Outcome State Fault Refusal :=
  floatOp { c := true, nc := true } (fun f m sat rnd a b c => Num.fma f m sat rnd a b c) x w s
def execAddFloat (x : Site) (w : VForm) (s : State) : Host.Outcome State Fault Refusal :=
  floatOp { vi := true } (fun f m sat rnd a b _ => Num.encode f m sat rnd (Num.add m a b)) x w s
def execMulFloat (x : Site) (w : VForm) (s : State) : Host.Outcome State Fault Refusal :=
  floatOp { vi := true } (fun f m sat rnd a b _ => Num.encode f m sat rnd (Num.mul a b)) x w s
def execMinFloat (x : Site) (w : VForm) (s : State) : Host.Outcome State Fault Refusal :=
  floatOp { vi := true, rnd := 3 } (fun f m sat rnd a b _ => Num.encode f m sat rnd (Num.fmin a b)) x w s
def execMaxFloat (x : Site) (w : VForm) (s : State) : Host.Outcome State Fault Refusal :=
  floatOp { vi := true, rnd := 3 } (fun f m sat rnd a b _ => Num.encode f m sat rnd (Num.fmax a b)) x w s
def execRcp (x : Site) (w : VForm) (s : State) : Host.Outcome State Fault Refusal :=
  floatOp { b := false, rnd := 0 } (fun f _ sat _ a _ _ => Num.approx .rcp f sat a) x w s
def execRsq (x : Site) (w : VForm) (s : State) : Host.Outcome State Fault Refusal :=
  floatOp { b := false, rnd := 0 } (fun f _ sat _ a _ _ => Num.approx .rsq f sat a) x w s
def execSqrt (x : Site) (w : VForm) (s : State) : Host.Outcome State Fault Refusal :=
  floatOp { b := false, rnd := 0 } (fun f _ sat _ a _ _ => Num.approx .sqrt f sat a) x w s
def execEx2 (x : Site) (w : VForm) (s : State) : Host.Outcome State Fault Refusal :=
  floatOp { b := false, rnd := 0 } (fun f _ sat _ a _ _ => Num.approx .ex2 f sat a) x w s
def execLg2 (x : Site) (w : VForm) (s : State) : Host.Outcome State Fault Refusal :=
  floatOp { b := false, rnd := 0 } (fun f _ sat _ a _ _ => Num.approx .lg2 f sat a) x w s

/-- Float setp: 1 where the condition holds for every element of the lane (R121). -/
def execSetpFloat (x : Site) (w : VForm) (s : State) : Host.Outcome State Fault Refusal :=
  match w with
  | .vv w =>
    let (f, n) := floatFmt w.ty.toNat
    issue x (w.floatOk { sat := false, rnd := 0 } && decide (w.c.toNat < 8) && decide (w.dst.toNat < 8))
      ([w.a.toNat] ++ (if w.ub then [] else [w.b.toNat])) w.uregs w.h (groupEff fun c =>
      c.g.setPred w.dst.toNat (c.guarded w.h) (maskOf fun l => (List.range n).all fun i =>
        Num.fcond w.c.toNat (w.modA (Num.decode f (elemAt n f.width (c.g.lane 0 w.a.toNat l) i))) (Num.decode f (elemAt n f.width (w.bLane c.g l) i)))) s
  | .vi w =>
    let cc := bits w.dst.toNat 3 3
    issue x (w.floatOk { vi := true } && decide (w.dst.toNat < 64)) [w.a.toNat] [] w.h (groupEff fun c =>
      c.g.setPred (w.dst.toNat % 8) (c.guarded w.h) (maskOf fun l =>
        Num.fcond cc (Num.decode .f32 (c.g.lane 0 w.a.toNat l)) (Num.decode .f32 w.immVal))) s

/-- cvt (R77): as many elements as the type with fewer per lane, the rest 0. -/
def execCvt (x : Site) (w : VV) (s : State) : Host.Outcome State Fault Refusal :=
  let src := w.c.toNat
  let t := w.ty.toNat
  match tyElem src, tyElem t with
  | some (sf, sn), some (df, dn) =>
    issue x (w.h.ok && decide (src < 16) && decide (w.rnd.toNat ≤ 4) && !w.na && !w.nc && !w.aa && w.b == 0 && !w.ub &&
        pairOk src w.a.toNat && pairOk t w.dst.toNat) (regsOf src w.a.toNat ++ regsOf t w.dst.toNat) [] w.h (groupEff fun c =>
      c.g.mapLane t w.dst.toNat (c.guarded w.h) fun l =>
        packElems dn df.width ((List.range (min sn dn)).map fun i =>
          Num.convert sf df w.rnd.toNat w.sat (Num.random16 c.seed l i) (elemAt sn sf.width (c.g.lane src w.a.toNat l) i))) s
  | _, _ => issue x false [] [] w.h (groupEff fun c => c.g) s

/-- Bits that pack and unpack move of a type: half of the destination lane for 2-element types and for whole 32-bit types, and
a quarter, an eighth or a lane as the element count gives (R77; log 16). -/
def execPack (x : Site) (w : VV) (s : State) : Host.Outcome State Fault Refusal :=
  let t := w.ty.toNat
  match tyElem t with
  | some (_, n) =>
    issue x (w.h.ok && w.rnd == 0 && !w.sat && !w.na && !w.nc && !w.aa && w.c == 0 && decide (2 ≤ n) && w.bOk {})
      ([w.dst.toNat, w.a.toNat] ++ (if w.ub then [] else [w.b.toNat])) w.uregs w.h (groupEff fun c =>
      c.g.mapLane 0 w.dst.toNat (c.guarded w.h) fun l =>
        c.g.lane 0 w.a.toNat l % 2 ^ 16 + w.bLane c.g l % 2 ^ 16 * 2 ^ 16) s
  | none => issue x false [] [] w.h (groupEff fun c => c.g) s

def execUnpack (x : Site) (w : VV) (s : State) : Host.Outcome State Fault Refusal :=
  let t := w.ty.toNat
  match tyElem t with
  | some (_, n) =>
    let parts := if n = 2 then 2 else 4
    issue x (w.h.ok && w.rnd == 0 && !w.sat && !w.na && !w.nc && !w.aa && w.c == 0 && !w.ub && decide (2 ≤ n) && decide (w.b.toNat < parts))
      [w.dst.toNat, w.a.toNat] [] w.h (groupEff fun c =>
      c.g.mapLane 0 w.dst.toNat (c.guarded w.h) fun l =>
        bits (c.g.lane 0 w.a.toNat l) (32 / parts * w.b.toNat) (32 / parts)) s
  | none => issue x false [] [] w.h (groupEff fun c => c.g) s

end Sys2Proof.Machine
end

