-- ==== Sys2Proof/Machine/VecInt.lean ====
section
/-! DEFINITION. Integer vector instructions (R73). -/

namespace Sys2Proof.Machine

/-- An exact result wrapped to the width, or clamped to the type under SAT. -/
def narrow (w : Nat) (sg sat : Bool) (i : Int) : Nat :=
  if sat then
    let lo : Int := if sg then -((2 ^ (w - 1) : Nat) : Int) else 0
    let hi : Int := if sg then ((2 ^ (w - 1) : Nat) : Int) - 1 else ((2 ^ w : Nat) : Int) - 1
    wrap w (max lo (min hi i))
  else wrap w i

/-- Arithmetic shift right; a count at or above the width gives sign bits. -/
def sraVal (w a n : Nat) : Nat := wrap w (sext w a / ((2 ^ (min n w) : Nat) : Int))
/-- Number of 1 bits. -/
def popcVal (w a : Nat) : Nat := ((List.range w).filter (bit a)).length
/-- Leading zeros; the width for 0. -/
def clzVal (w a : Nat) : Nat := ((List.range w).reverse.takeWhile fun i => !bit a i).length
/-- Bit reversal. -/
def brevVal (w a : Nat) : Nat := ((List.range w).filter (bit a)).foldl (fun v i => v + 2 ^ (w - 1 - i)) 0

def execAdd (x : Site) (w : VForm) (s : State) : Host.Outcome State Fault Refusal :=
  intOp { sat := true, vi := true } (fun n sg sat a b _ => narrow n sg sat (asInt sg n a + asInt sg n b)) x w s
def execSub (x : Site) (w : VForm) (s : State) : Host.Outcome State Fault Refusal :=
  intOp { sat := true } (fun n sg sat a b _ => narrow n sg sat (asInt sg n a - asInt sg n b)) x w s
def execMulLo (x : Site) (w : VForm) (s : State) : Host.Outcome State Fault Refusal :=
  intOp { sat := true, vi := true } (fun n sg sat a b _ => narrow n sg sat (asInt sg n a * asInt sg n b)) x w s
def execMulHi (x : Site) (w : VForm) (s : State) : Host.Outcome State Fault Refusal :=
  intOp {} (fun n sg _ a b _ => wrap n (asInt sg n a * asInt sg n b / ((2 ^ n : Nat) : Int))) x w s
def execMadLo (x : Site) (w : VForm) (s : State) : Host.Outcome State Fault Refusal :=
  intOp { c := true, sat := true } (fun n sg sat a b c => narrow n sg sat (asInt sg n a * asInt sg n b + asInt sg n c)) x w s
def execMin (x : Site) (w : VForm) (s : State) : Host.Outcome State Fault Refusal :=
  intOp { vi := true } (fun n sg _ a b _ => if asInt sg n a ≤ asInt sg n b then a else b) x w s
def execMax (x : Site) (w : VForm) (s : State) : Host.Outcome State Fault Refusal :=
  intOp { vi := true } (fun n sg _ a b _ => if asInt sg n a ≤ asInt sg n b then b else a) x w s
def execAnd (x : Site) (w : VForm) (s : State) : Host.Outcome State Fault Refusal :=
  intOp { vi := true } (fun _ _ _ a b _ => a &&& b) x w s
def execOr (x : Site) (w : VForm) (s : State) : Host.Outcome State Fault Refusal :=
  intOp { vi := true } (fun _ _ _ a b _ => a ||| b) x w s
def execXor (x : Site) (w : VForm) (s : State) : Host.Outcome State Fault Refusal :=
  intOp { vi := true } (fun _ _ _ a b _ => a ^^^ b) x w s
def execNot (x : Site) (w : VForm) (s : State) : Host.Outcome State Fault Refusal :=
  intOp { b := false } (fun n _ _ a _ _ => 2 ^ n - 1 - a) x w s
def execShl (x : Site) (w : VForm) (s : State) : Host.Outcome State Fault Refusal :=
  intOp { vi := true } (fun n _ _ a b _ => if n ≤ b then 0 else a * 2 ^ b % 2 ^ n) x w s
def execShr (x : Site) (w : VForm) (s : State) : Host.Outcome State Fault Refusal :=
  intOp { vi := true } (fun n _ _ a b _ => if n ≤ b then 0 else a / 2 ^ b) x w s
def execSra (x : Site) (w : VForm) (s : State) : Host.Outcome State Fault Refusal :=
  intOp { vi := true } (fun n _ _ a b _ => sraVal n a b) x w s
def execPopc (x : Site) (w : VForm) (s : State) : Host.Outcome State Fault Refusal :=
  intOp { b := false } (fun n _ _ a _ _ => popcVal n a) x w s
def execClz (x : Site) (w : VForm) (s : State) : Host.Outcome State Fault Refusal :=
  intOp { b := false } (fun n _ _ a _ _ => clzVal n a) x w s
def execBrev (x : Site) (w : VForm) (s : State) : Host.Outcome State Fault Refusal :=
  intOp { b := false } (fun n _ _ a _ _ => brevVal n a) x w s
def execMov (x : Site) (w : VForm) (s : State) : Host.Outcome State Fault Refusal :=
  intOp { b := false } (fun _ _ _ a _ _ => a) x w s

/-- abs: the magnitude. The spec states no result for the most negative value, so that lane takes a free value (log 14). -/
def execAbs (x : Site) (w : VForm) (s : State) : Host.Outcome State Fault Refusal :=
  match w with
  | .vv w =>
    let t := w.ty.toNat
    issue x (w.intOk { b := false } true && w.c == 0) (w.regs { b := false } true) w.uregs w.h (fun c s =>
      let g := c.g.mapLane t w.dst.toNat (c.guarded w.h) fun l =>
        let a := c.g.lane t w.a.toNat l
        if asInt (tySigned t) (tyBits t) a < 0 then
          if a = 2 ^ (tyBits t - 1) then Config.freeValue 1 (32 * s.free + l) % 2 ^ tyBits t else 2 ^ tyBits t - a
        else a
      .go ((s.freely 1).2.putGroup c.core c.slot g)) s
  | .vi w => issue x false [] [] w.h (groupEff fun c => c.g) s

/-- sel: operand a in lanes where the named predicate is 1, else b. -/
def execSel (x : Site) (w : VForm) (s : State) : Host.Outcome State Fault Refusal :=
  match w with
  | .vv w =>
    let t := w.ty.toNat
    issue x (w.intOk {} true && decide (w.c.toNat < 8)) (w.regs {} true) w.uregs w.h (groupEff fun c =>
      c.g.mapLane t w.dst.toNat (c.guarded w.h) fun l =>
        if inMask (c.g.pred w.c.toNat) l then c.g.lane t w.a.toNat l else w.bLane c.g l) s
  | .vi w => issue x false [] [] w.h (groupEff fun c => c.g) s

/-- setp: an integer comparison into the predicate of each guarded lane (R73). -/
def execSetp (x : Site) (w : VForm) (s : State) : Host.Outcome State Fault Refusal :=
  match w with
  | .vv w =>
    let t := w.ty.toNat
    issue x (w.intOk {} false && decide (w.c.toNat < 6) && decide (w.dst.toNat < 8)) (w.regs {} false) w.uregs w.h
      (groupEff fun c => c.g.setPred w.dst.toNat (c.guarded w.h) (maskOf fun l =>
        intCond w.c.toNat (asInt (tySigned t) (tyBits t) (c.g.lane t w.a.toNat l)) (asInt (tySigned t) (tyBits t) (w.bLane c.g l)))) s
  | .vi w =>
    let t := w.ty.toNat
    let cc := bits w.dst.toNat 3 3
    issue x (w.intOk { vi := true } false && decide (cc < 6) && decide (w.dst.toNat < 64)) (w.regs false) [] w.h
      (groupEff fun c => c.g.setPred (w.dst.toNat % 8) (c.guarded w.h) (maskOf fun l =>
        intCond cc (asInt (tySigned t) (tyBits t) (c.g.lane t w.a.toNat l)) (asInt (tySigned t) (tyBits t) w.immVal))) s

/-- mov of a 32-bit immediate to every guarded lane (R69). -/
def execMovVk (x : Site) (w : VK) (s : State) : Host.Outcome State Fault Refusal :=
  issue x (w.h.ok && w.res == 0) [w.dst.toNat] [] w.h (groupEff fun c =>
    c.g.mapV w.dst.toNat (c.guarded w.h) fun _ => w.imm) s

end Sys2Proof.Machine
end

