-- ==== Sys2Proof/Machine/Vetch.lean ====
section
/-! DEFINITION. The Vetch engines: ROUTE, COMBINE, STAT and completion items (spec 6). -/

namespace Sys2Proof.Machine

/-- Entries of a slice's scratch map that lie in a half, in ascending scratch address (R166). -/
def State.halfUnits (s : State) (sl h : Nat) : List Nat :=
  (List.range 512).filterMap fun i => match s.scrmap sl i with | some (g, u) => if g = h then some u else none | none => none

/-- Whether a half-relative byte range lies in the slice's scratch of a half. -/
def State.halfOk (s : State) (sl h ofs n : Nat) : Bool := decide (ofs + n ≤ 2 ^ 22 * (s.halfUnits sl h).length)

/-- Physical pieces of a half-relative byte range. -/
def State.halfCuts (s : State) (sl h ofs n : Nat) : List (Nat × Nat) :=
  let us := s.halfUnits sl h
  (cutBy (n / 2 ^ 22 + 2) (2 ^ 22) ofs n).map fun c => (scratchAddr h (us.getD (c.1 / 2 ^ 22) 0) (c.1 % 2 ^ 22), c.2)

/-- What an engine's work gives: the state, the bytes, the address of the first poisoned read. -/
structure VRead where
  s : State
  bs : List Byte
  bad : Option Nat
deriving DecidableEq, Repr

/-- Reads and writes half-relative scratch (R166, R178); a poisoned piece is named by its module physical scratch address (log 66). -/
def State.vRead (s : State) (sl h ofs n : Nat) : VRead :=
  (s.halfCuts sl h ofs n).foldl (fun (a : VRead) c =>
    let r := a.s.engRead (some (sl, 3)) c.1 c.2
    ⟨r.1, a.bs ++ r.2.1, if a.bad.isNone && r.2.2 then some c.1 else a.bad⟩) ⟨s, [], none⟩
def State.vWrite (s : State) (sl h ofs : Nat) (bs : List Byte) : State :=
  ((s.halfCuts sl h ofs bs.length).foldl (fun (a : State × List Byte) c => (a.1.engWrite (some (sl, 3)) c.1 (a.2.take c.2), a.2.drop c.2)) (s, bs)).1

/-- How a command ended: a status with the token it names, or a poisoned read. -/
inductive VEnd where
  | status (st tok : Nat)
  | poison (pa : Nat)
deriving DecidableEq, Repr

/-- Counts of a command (R176). -/
structure VCount where
  kept : Nat := 0
  dropped : Nat := 0
  rerouted : Nat := 0
  nonfin : Nat := 0
  degen : Nat := 0
deriving DecidableEq, Repr

/-- Owner and queues of an engine. -/
def State.vOwner (s : State) (h : Nat) : Nat := s.fld (aVetch h 0) 1 6
def State.vSetState (s : State) (h st : Nat) : State := s.setFld (aVetch h 8) 0 2 st

/-- A poisoned read: POISON, no completion item, the owner's job ends with 0x08 (R177). -/
def State.vPoison (s : State) (h pa : Nat) : State :=
  ((s.flag (aVetch h 0x10) 1).vSetState h 1).engineFault (s.vOwner h) 2 0x08 0 h pa

/-- A command has been performed: counts accumulate and its completion item waits to be pushed (R165, R176). -/
def State.vFinish (s : State) (h : Nat) (w : Item) (c : VCount) : VEnd → State
  | .poison pa => s.vPoison h pa
  | .status st tok =>
    let v := s.vetchOf h
    let item := complItem (ifld w 0 8) st (ifld w 96 32) c.kept c.dropped c.rerouted c.nonfin c.degen tok s.time.toNat 0
    let route := ifld w 0 8 = 1
    (s.putVetch h { v with done := some (ifld w 80 9, item), cmds := v.cmds + 1,
                           kept := v.kept + (if route then c.kept else 0), dropped := v.dropped + c.dropped,
                           rerouted := v.rerouted + c.rerouted, nonfin := v.nonfin + c.nonfin, degen := v.degen + c.degen }).vSetState h 2

/-- Takes the next command of an idle engine where its operation satisfies `p`; one that names a completion queue the owner does
not hold is discarded; a poisoned item has no address, so that its record names 0 (R165, R177; log 66). -/
def State.vTake (s : State) (h : Nat) (p : Nat → Bool) (act : Item → State → State) : State :=
  let sl := s.vOwner h
  let q := s.fld (aVetch h 0) 7 9
  if s.fld (aVetch h 0) 0 1 = 0 || s.jobOf sl != 1 || s.fld (aVetch h 8) 0 2 != 1 || s.sliceZeroing sl then s else
  match s.peekCmd q with
  | none => s
  | some w =>
    if !p (ifld w 0 8) then s else
    match s.popCmd q with
    | (s, some (_, true)) => s.vPoison h 0
    | (s, some (w, false)) =>
      if s.qEn (ifld w 80 9) && s.qOwner (ifld w 80 9) == sl then act w s else s.flag (aVetch h 0x10) 0
    | (s, none) => s

/-- Formats of scores and outputs (R169, R175). -/
def vFmt (k : Nat) : Num.Fmt := if k = 0 then .f32 else if k = 1 then .bf16 else .f16
def vSize (k : Nat) : Nat := if k = 0 then 4 else 2

/-- A selection score's place in the order, with +0 equal to −0; none for a NaN or an infinity (R169). -/
def f32Key (b : Nat) : Option Int :=
  if b / 2 ^ 23 % 256 = 255 then none else some (if 2 ^ 31 ≤ b then -((b % 2 ^ 31 : Nat) : Int) else ((b : Nat) : Int))

/-- Puts an expert into a ranking: descending score, ties by ascending index (R169). -/
def rankInto (x : Nat × Int) : List (Nat × Int) → List (Nat × Int)
  | [] => [x]
  | y :: r => if y.2 < x.2 then x :: y :: r else y :: rankInto x r

/-- The candidates of a token, ranks 0 to min(31, E − 1); none for a token that is not dispatched (R169). `raw` are the unbiased
scores in F32, `sel` the selection scores. -/
def candidates (raw sel : List Nat) : Option (List Nat) :=
  if (raw ++ sel).any fun b => (f32Key b).isNone then none
  else some ((((sel.zipIdx.map fun p => (p.2, (f32Key p.1).getD 0)).foldl (fun l x => rankInto x l) []).take 32).map (·.1))

/-- An assignment: expert, rank of the candidate, whether rerouted. -/
structure Assign where
  e : Nat
  rank : Nat
  rrt : Bool
deriving DecidableEq, Repr

/-- What the passes build: per expert its list of tokens in order, per token its assignments, counts. -/
structure Passes where
  lists : NMap (List (Nat × Nat × Bool))
  toks : NMap (List Assign)
  c : VCount
deriving DecidableEq, Repr

/-- One token's assignment in one pass (R170). -/
def Passes.assign (p : Passes) (cap k : Nat) (ovf : Bool) (t : Nat) (cand : List Nat) (r : Nat) : Passes :=
  let room (e : Nat) : Bool := decide ((NMap.get [] p.lists e).length < cap)
  let put (e rank : Nat) (rrt : Bool) (p : Passes) : Passes :=
    { lists := NMap.put p.lists e (NMap.get [] p.lists e ++ [(t, rank, rrt)]), toks := NMap.put p.toks t (NMap.get [] p.toks t ++ [⟨e, rank, rrt⟩]),
      c := { p.c with kept := p.c.kept + 1, rerouted := if rrt then p.c.rerouted + 1 else p.c.rerouted } }
  let e := cand.getD r 0
  if room e then put e r false p
  else if !ovf then { p with c := { p.c with dropped := p.c.dropped + 1 } }
  else
    let mine := NMap.get [] p.toks t
    match ((List.range cand.length).drop k).find? fun i => room (cand.getD i 0) && !mine.any fun a => a.e == cand.getD i 0 with
    | some i => put (cand.getD i 0) i true p
    | none => { p with c := { p.c with dropped := p.c.dropped + 1 } }

/-- All passes over all tokens (R170). -/
def passes (cands : List (Option (List Nat))) (k cap : Nat) (ovf : Bool) : Passes :=
  (List.range k).foldl (fun p r => cands.zipIdx.foldl (fun (p : Passes) x => match x.1 with
    | some cand => p.assign cap k ovf x.2 cand r
    | none => p) p) ⟨[], [], { nonfin := (cands.filter Option.isNone).length }⟩

/-- Assignments in ascending rank order. -/
def byRank (l : List Assign) : List Assign := (List.range 32).flatMap fun r => l.filter fun a => a.rank == r

/-- x − m in F32. -/
def subF32 (x m : Nat) : Nat := Num.addF32 x (if 2 ^ 31 ≤ m then m - 2 ^ 31 else m + 2 ^ 31)
/-- The largest of F32 scores. -/
def maxF32 (l : List Nat) : Nat := l.foldl (fun a b => match f32Key a, f32Key b with | some x, some y => if x < y then b else a | _, _ => a) (l.headD 0)

/-- Weights of a token's kept assignments by expert, and whether they are degenerate (R171). -/
def weights (mode : Nat) (raw : List Nat) (kept : List Assign) : List (Nat × Nat) × Bool :=
  let l := byRank kept
  let s (a : Assign) : Nat := raw.getD a.e 0
  let sum (xs : List Nat) : Nat := xs.foldl Num.addF32 0
  if mode = 0 then (l.map fun a => (a.e, s a), false)
  else if mode = 1 then
    let m := maxF32 (l.map s)
    let ex (a : Assign) : Nat := Num.expF32 (subF32 (s a) m)
    let d := sum (l.map ex)
    (l.map fun a => (a.e, Num.divF32 (ex a) d), false)
  else if mode = 2 then
    let d := sum (l.map s)
    match f32Key d with
    | some k => if 0 < k then (l.map fun a => (a.e, Num.divF32 (s a) d), false) else (l.map fun a => (a.e, 0), true)
    | none => if d = 0x7F800000 then (l.map fun a => (a.e, Num.divF32 (s a) d), false) else (l.map fun a => (a.e, 0), true)
  else
    let m := maxF32 raw
    let d := sum (raw.map fun x => Num.expF32 (subF32 x m))
    (l.map fun a => (a.e, Num.divF32 (Num.expF32 (subF32 (s a) m)) d), false)

/-- Fields of an owner table entry (R172). -/
structure Owner where
  tmask : Nat
  sender : Nat
  slot : Nat
  land0 : Nat
  land1 : Nat
  outb : Nat
  clean : Bool
deriving DecidableEq, Repr

/-- An owner table entry from its 32 bytes. -/
def ownerOf (v : Nat) : Owner :=
  ⟨bits v 0 64, bits v 64 6, bits v 80 16, bits v 96 32, bits v 128 32, bits v 160 32, bits v 70 10 == 0 && bits v 192 64 == 0⟩

/-- Halves of a mask. -/
def halvesOf (m : Nat) : List Nat := (List.range 64).filter (bit m)

/-- Entries of an owner table from `first` on, and the address of a poisoned read. -/
def State.readOwners (s : State) (sl h table first cnt : Nat) : State × List (Nat × Owner) × Option Nat :=
  (List.range cnt).foldl (fun (a : State × List (Nat × Owner) × Option Nat) i =>
    if a.2.2.isSome then a else
    let r := a.1.vRead sl h (32 * (table + first + i)) 32
    (r.s, a.2.1 ++ [(first + i, ownerOf (leNat r.bs))], r.bad)) (s, [], none)

/-- Whether an owner entry of an expert of this module names a half in which the slice has no scratch (R176). -/
def State.ownerAway (s : State) (sl : Nat) (o : Owner) : Bool :=
  o.tmask != 0 && (o.sender :: halvesOf o.tmask).any fun g => (s.halfUnits sl g).isEmpty

/-- How many entries of 8 bytes at an address lie in a slice's scratch, of `n`. -/
def State.fitting (s : State) (sl h at_ n : Nat) : Nat := ((List.range (n + 1)).reverse.find? fun j => s.halfOk sl h at_ (8 * j)).getD 0

/-- A dispatch list entry (R172). -/
def listEntry (t rank : Nat) (shr rrt : Bool) (w : Nat) : List Byte :=
  leBytes 8 (t % 65536 + rank % 32 * 2 ^ 16 + shr.toNat * 2 ^ 21 + rrt.toNat * 2 ^ 22 + w % 2 ^ 32 * 2 ^ 32)

/-- The first byte of the entry area of a list region (R172). -/
def entryArea (list e : Nat) : Nat := 32 * list + 128 + (4 * (e + 1) + 31) / 32 * 32

/-- Status of a ROUTE's fixed fields and regions, 0 where they are good (R176). -/
def State.routeCheck (s : State) (sl h : Nat) (w : Item) : Nat :=
  let e := ifld w 32 10 + 1
  let t := ifld w 48 12 + 1
  let sz := vSize (ifld w 12 2)
  let p0 := ifld w 352 16
  let p1 := ifld w 368 16
  let out (o n : Nat) : Bool := !s.halfOk sl h o n
  if ifld w 0 8 ≠ 1 then 1
  else if ifld w 12 2 = 3 || ifld w 19 13 != 0 || ifld w 42 6 != 0 || ifld w 60 4 != 0 || ifld w 89 7 != 0 || ifld w 448 64 != 0 ||
      e < ifld w 8 4 + 1 || ifld w 64 16 == 0 || 32 * ifld w 160 32 < e * sz || p0 == 0 || 2048 < p0 || 2048 < p1 ||
      ifld w 320 32 < p0 || (p1 != 0 && ifld w 416 32 < p1) then 2
  else if out (32 * ifld w 128 32) ((t - 1) * 32 * ifld w 160 32 + e * sz) || (ifld w 16 1 == 1 && out (32 * ifld w 192 32) (4 * e)) ||
      out (32 * ifld w 224 32) (32 * (e + ifld w 18 1)) || out (32 * ifld w 256 32) (128 + 4 * (e + 1)) ||
      out (32 * ifld w 288 32) (32 * ((t - 1) * ifld w 320 32 + p0)) || (p1 != 0 && out (32 * ifld w 384 32) (32 * ((t - 1) * ifld w 416 32 + p1))) then 3
  else 0

/-- Splits bytes into numbers of `n` bytes. -/
def words (n : Nat) (bs : List Byte) : List Nat := (List.range (bs.length / n)).map fun i => leNat ((bs.drop (n * i)).take n)

/-- Tokens with their weights on each expert's list. -/
structure Routed where
  c : VCount
  lists : NMap (List (Nat × Nat × Bool))
  /-- Weight of expert e for token t at key 4096 e + t. -/
  w : NMap Nat
deriving DecidableEq, Repr

/-- Selection, assignment and weights of a ROUTE from its scores and bias (R169 to R171). -/
def routeAll (scores : List (List Nat)) (bias : Option (List Nat)) (sf k cap wmode : Nat) (ovf : Bool) : Routed :=
  let raws := scores.map fun row => row.map fun v => Num.encodeRN .f32 (Num.decode (vFmt sf) v)
  let cands := raws.map fun raw => candidates raw (match bias with | some b => raw.zipIdx.map fun p => Num.addF32 p.1 (b.getD p.2 0) | none => raw)
  let p := passes cands k cap ovf
  let ws := (raws.zipIdx.filter fun x => (cands.getD x.2 none).isSome).map fun x => (x.2, weights wmode x.1 (NMap.get [] p.toks x.2))
  let degen := (ws.filter fun x => x.2.2).length
  ⟨{ p.c with degen := degen }, p.lists, ws.foldl (fun m x => x.2.1.foldl (fun m y => NMap.put m (4096 * y.1 + x.1) y.2) m) []⟩

/-- An expert's list entries as (token, rank, rerouted, weight); the shared entry takes every token (R171, R172). -/
def Routed.entries (r : Routed) (e n t : Nat) (sh : Bool) : List (Nat × Nat × Bool × Nat) :=
  if e < n then (NMap.get [] r.lists e).map fun x => (x.1, x.2.1, x.2.2, NMap.get 0 r.w (4096 * e + x.1))
  else if sh then (List.range t).map fun i => (i, 31, false, 0x3F800000) else []

/-- ROUTE after its checks: owner halves, which are checked at acceptance, scores, lists, rows (R169 to R176). -/
def State.routeRun (s : State) (sl h : Nat) (w : Item) : State × VCount × VEnd :=
  let n := ifld w 32 10 + 1
  let t := ifld w 48 12 + 1
  let sz := vSize (ifld w 12 2)
  let sh := ifld w 18 1 == 1
  let cap := ifld w 64 16
  let own := s.readOwners sl h (ifld w 224 32) 0 (n + sh.toNat)
  if own.2.1.any fun x => s.ownerAway sl x.2 then (own.1, {}, .status 4 0) else
  let s := own.1
  let rd := (List.range t).foldl (fun (a : State × List (List Nat) × Option Nat) i =>
    if a.2.2.isSome then a else
    let r := a.1.vRead sl h (32 * (ifld w 128 32 + i * ifld w 160 32)) (n * sz)
    (r.s, a.2.1 ++ [words sz r.bs], r.bad)) (s, [], none)
  let s := rd.1
  let b := if ifld w 16 1 = 1 then s.vRead sl h (32 * ifld w 192 32) (4 * n) else ⟨s, [], none⟩
  match own.2.2, rd.2.2, b.bad with
  | some pa, _, _ => (own.1, {}, .poison pa)
  | none, some pa, _ => (s, {}, .poison pa)
  | none, none, some pa => (b.s, {}, .poison pa)
  | none, none, none =>
    let r := routeAll rd.2.1 (if ifld w 16 1 = 1 then some (words 4 b.bs) else none) (ifld w 12 2) (ifld w 8 4 + 1) cap (ifld w 14 2) (ifld w 17 1 == 1)
    let c : VCount := { r.c with kept := r.c.kept + (if sh then t else 0) }
    let es (e : Nat) := r.entries e n t sh
    let list := 32 * ifld w 256 32
    let mask := (List.range n).foldl (fun m e => if (es e).isEmpty then m else m + 2 ^ e) 0
    let s := (b.s.vWrite sl h list (leBytes 128 mask)).vWrite sl h (list + 128) ((List.range (n + 1)).flatMap fun e => leBytes 4 (es e).length)
    let v := s.vetchOf h
    let s := s.putVetch h { v with lists := NMap.put v.lists (ifld w 256 32) n }
    let tok (e : Nat) : Nat := match es e with | x :: _ => x.1 | [] => 0
    -- owner entries, with the lists that they place
    let ow := own.2.1.foldl (fun (a : State × List (Nat × Owner) × Option VEnd) x =>
      if a.2.2.isSome then a else
      let (e, o) := x
      let at_ := entryArea (ifld w 256 32) n + 8 * (o.slot * cap)
      let l := es e
      if !o.clean || (o.tmask ≠ 0 && !a.1.halfOk sl h at_ (8 * cap)) then (a.1, a.2.1, some (.status 5 (tok e)))
      else if o.tmask = 0 then a
      else
        let fit := if l.length ≤ cap then l.length else a.1.fitting sl h at_ l.length
        let t := a.1.vWrite sl h at_ ((l.take fit).flatMap fun x => listEntry x.1 x.2.1 (decide (n ≤ e)) x.2.2.1 x.2.2.2)
        match l.drop fit with
        | x :: _ => (t, a.2.1, some (.status 3 x.1))
        | [] => (t, a.2.1 ++ [(e, o)], none)) (s, [], none)
    match ow.2.2 with
    | some f => (ow.1, c, f)
    | none =>
      let s := ow.1
      let mine := ow.2.1.filter fun x => x.2.sender == h
      let p0 := ifld w 352 16
      let p1 := ifld w 368 16
      let bad := mine.findSome? fun x => (halvesOf x.2.tmask).findSome? fun g =>
        if !s.halfOk sl g (32 * x.2.land0) (32 * p0 * (es x.1).length) || (p1 != 0 && !s.halfOk sl g (32 * x.2.land1) (32 * p1 * (es x.1).length)) then some (VEnd.status 3 (tok x.1))
        else none
      match bad with
      | some f => (s, c, f)
      | none =>
        let sent := mine.foldl (fun (a : State × Option Nat) x => (es x.1).zipIdx.foldl (fun (a : State × Option Nat) y =>
          if a.2.isSome then a else
          let plane (a : State × Option Nat) (src str p land : Nat) : State × Option Nat :=
            if a.2.isSome || p == 0 then a else
            let r := a.1.vRead sl h (32 * (src + y.1.1 * str)) (32 * p)
            match r.bad with
            | some pa => (r.s, some pa)
            | none => ((halvesOf x.2.tmask).foldl (fun s g => s.vWrite sl g (32 * (land + y.2 * p)) r.bs) r.s, none)
          plane (plane a (ifld w 288 32) (ifld w 320 32) p0 x.2.land0) (ifld w 384 32) (ifld w 416 32) p1 x.2.land1) a) (s, none)
        (sent.1, c, match sent.2 with | some pa => .poison pa | none => .status 0 0)

/-- ROUTE; a reserved operation ends with status 0x01 (R169 to R176). -/
def execRoute (half : Nat) (s : State) : Host.Outcome State Fault Refusal :=
  .next (s.vTake half (fun op => op != 2 && op != 3) fun w s =>
    let sl := s.vOwner half
    match s.routeCheck sl half w with
    | 0 => let r := s.routeRun sl half w; r.1.vFinish half w r.2.1 r.2.2
    | st => s.vFinish half w {} (.status st 0))

/-- Status of a COMBINE's fixed fields and regions (R176). -/
def State.combineCheck (s : State) (sl h n : Nat) (w : Item) : Nat :=
  let hh := 32 * ifld w 32 10
  let out (g o m : Nat) : Bool := !s.halfOk sl g o m
  if ifld w 8 2 = 3 || ifld w 10 22 != 0 || ifld w 42 22 != 0 || ifld w 89 7 != 0 || ifld w 198 26 != 0 || ifld w 288 224 != 0 ||
      ifld w 32 10 == 0 || 512 < ifld w 32 10 || ifld w 64 16 == 0 || 32 * ifld w 256 32 < hh * vSize (ifld w 8 2) then 2
  else if out h (32 * ifld w 160 32) (128 + 4 * (n + 1)) || out h (32 * ifld w 128 32) (32 * n) then 3
  else if (s.halfUnits sl (ifld w 192 6)).isEmpty then 4
  else 0

/-- One list entry of a COMBINE: the row times its weight, added under the expert's key (R175). -/
def State.combineEntry (s : State) (sl h : Nat) (w : Item) (e row : Nat) (ent : Nat) : State × Option VEnd :=
  let hh := 32 * ifld w 32 10
  let tok := ent % 65536
  let sz := vSize (ifld w 8 2)
  let g := ifld w 192 6
  let o := 32 * (ifld w 224 32 + tok * ifld w 256 32)
  if !s.halfOk sl h row (4 * hh) || !s.halfOk sl g o (sz * hh) then (s, some (.status 3 tok)) else
  let r := s.vRead sl h row (4 * hh)
  match r.bad with
  | some pa => (r.s, some (.poison pa))
  | none =>
    let f := vFmt (ifld w 8 2)
    let wt := Num.decode .f32 (ent / 2 ^ 32)
    let vals := (words 4 r.bs).map fun x => Num.encodeRN f (Num.mul (Num.decode .f32 x) wt)
    let aty := if f = .f32 then 2 else if f = .bf16 then 5 else 6
    ((r.s.halfCuts sl g o (sz * hh)).foldl (fun (a : State × List Nat) c =>
      let a := (cutBy (c.2 / 128 + 2) 128 c.1 c.2).foldl (fun (a : State × List Nat) p =>
        let ls := (a.2.take (p.2 / sz)).zipIdx.map fun x => (p.1 % 128 + sz * x.2, x.1)
        ((a.1.countAccess g sl 3 (sliceOf (p.1 / 128)) true).takeContrib g ⟨.vetch h, sl, p.1 / 128, aty, ls, some (BitVec.ofNat 32 e), 2 ^ 64⟩, a.2.drop (p.2 / sz))) a
      a) (r.s, vals) |>.1, none)

/-- COMBINE after its checks: owner halves, which are checked at acceptance, then experts in ascending index, entries in list order; the
shared entry is read where its list is not empty (R172, R175, R176; log 69). -/
def State.combineRun (s : State) (sl h n : Nat) (w : Item) : State × VCount × VEnd :=
  let own := s.readOwners sl h (ifld w 128 32) 0 n
  if own.2.1.any fun x => s.ownerAway sl x.2 then (own.1, {}, .status 4 0) else
  let cnt := own.1.vRead sl h (32 * ifld w 160 32 + 128) (4 * (n + 1))
  match own.2.2, cnt.bad with
  | some pa, _ => (own.1, {}, .poison pa)
  | none, some pa => (cnt.s, {}, .poison pa)
  | none, none =>
    let cs := words 4 cnt.bs
    let cap := ifld w 64 16
    let last : State × List (Nat × Owner) × Option VEnd :=
      if cs.getD n 0 = 0 then (cnt.s, own.2.1, none)
      else if !cnt.s.halfOk sl h (32 * (ifld w 128 32 + n)) 32 then (cnt.s, own.2.1, some (.status 3 0))
      else
        let r := cnt.s.readOwners sl h (ifld w 128 32) n 1
        (r.1, own.2.1 ++ r.2.1, match r.2.2 with | some pa => some (.poison pa) | none => if r.2.1.any fun x => r.1.ownerAway sl x.2 then some (.status 4 0) else none)
    let r := last.2.1.foldl (fun (a : State × Nat × Option VEnd) x =>
      if a.2.2.isSome then a else
      let (e, o) := x
      let at_ := entryArea (ifld w 160 32) n + 8 * (o.slot * cap)
      if e = n ∧ last.2.2.isSome then (a.1, a.2.1, last.2.2)
      else if !o.clean then (a.1, a.2.1, some (.status 5 0))
      else if o.tmask = 0 || o.sender != h then a
      else if !a.1.halfOk sl h at_ (8 * cap) then (a.1, a.2.1, some (.status 5 0))
      else
        let len := cs.getD e 0
        let fit := if len ≤ cap then len else a.1.fitting sl h at_ (min len 65536)
        let l := a.1.vRead sl h at_ (8 * fit)
        match l.bad with
        | some pa => (l.s, a.2.1, some (.poison pa))
        | none =>
          let b := (words 8 l.bs).zipIdx.foldl (fun (b : State × Nat × Option VEnd) x =>
            if b.2.2.isSome then b else
            let y := b.1.combineEntry sl h w e (32 * o.outb + x.2 * (4 * 32 * ifld w 32 10)) x.1
            (y.1, if y.2.isNone then b.2.1 + 1 else b.2.1, y.2)) (l.s, a.2.1, none)
          if b.2.2.isNone && decide (fit < len) then (b.1, b.2.1, some (.status 3 0)) else b) (last.1, 0, none)
    let stop : Option VEnd := match r.2.2 with | some f => some f | none => last.2.2
    (r.1, { kept := r.2.1 }, stop.getD (.status 0 0))

/-- COMBINE (R175, R176). The number of experts is that of the ROUTE that wrote the list region (log 30). -/
def execCombine (half : Nat) (s : State) : Host.Outcome State Fault Refusal :=
  .next (s.vTake half (fun op => op == 2) fun w s =>
    let sl := s.vOwner half
    let (f, s) := s.freely 30
    let n := (NMap.find? (s.vetchOf half).lists (ifld w 160 32)).getD (f % 1024 + 1)
    match s.combineCheck sl half n w with
    | 0 => let r := s.combineRun sl half n w; r.1.vFinish half w r.2.1 r.2.2
    | st => s.vFinish half w {} (.status st 0))

/-- STAT: the engine's cumulative counts, cleared after with CLR (R165). -/
def execVetchStat (half : Nat) (s : State) : Host.Outcome State Fault Refusal :=
  .next (s.vTake half (fun op => op == 3) fun w s =>
    let v := s.vetchOf half
    if ifld w 9 71 ≠ 0 || ifld w 89 7 ≠ 0 || ifld w 128 384 ≠ 0 then s.vFinish half w {} (.status 2 0)
    else
      let item := complItem 3 0 (ifld w 96 32) v.kept v.dropped v.rerouted v.nonfin v.degen 0 s.time.toNat v.cmds
      let v := if ifld w 8 1 = 1 then { Vetch.init with lists := v.lists } else { v with cmds := v.cmds + 1 }
      (s.putVetch half { v with done := some (ifld w 80 9, item) }).vSetState half 2)

/-- The completion item is pushed at priority 3, or the engine waits for room, or for a target of a converted multicast (R165, R173,
R352). -/
def execVetchCompletionPush (half : Nat) (s : State) : Host.Outcome State Fault Refusal :=
  let v := s.vetchOf half
  match v.done with
  | none => .next s
  | some (q, w) =>
    if s.flight.net.any fun i => match i with | .conversionNotice src _ => src == half | _ => false then .next s else
    match s.enginePush q 3 w with
    | some t => .next ((t.putVetch half { t.vetchOf half with done := none }).vSetState half 1)
    | none => .next (s.vSetState half 3)

end Sys2Proof.Machine
end

