-- ==== Sys2Proof/Machine/Dispatch.lean ====
section
/-! DEFINITION. The dispatch of a command to its meaning, one arm per row of the table. -/

namespace Sys2Proof.Machine

/-- The effect of a command on everything but the queue. -/
def exec (i : Instr) (s : State) : Host.Outcome State Fault Refusal :=
  match i with
  | .add at_ w => Sys2Proof.Machine.execAdd at_ w s
  | .sub at_ w => Sys2Proof.Machine.execSub at_ w s
  | .mulLo at_ w => Sys2Proof.Machine.execMulLo at_ w s
  | .mulHi at_ w => Sys2Proof.Machine.execMulHi at_ w s
  | .madLo at_ w => Sys2Proof.Machine.execMadLo at_ w s
  | .min at_ w => Sys2Proof.Machine.execMin at_ w s
  | .max at_ w => Sys2Proof.Machine.execMax at_ w s
  | .abs at_ w => Sys2Proof.Machine.execAbs at_ w s
  | .and at_ w => Sys2Proof.Machine.execAnd at_ w s
  | .or at_ w => Sys2Proof.Machine.execOr at_ w s
  | .xor at_ w => Sys2Proof.Machine.execXor at_ w s
  | .not at_ w => Sys2Proof.Machine.execNot at_ w s
  | .shl at_ w => Sys2Proof.Machine.execShl at_ w s
  | .shr at_ w => Sys2Proof.Machine.execShr at_ w s
  | .sra at_ w => Sys2Proof.Machine.execSra at_ w s
  | .popc at_ w => Sys2Proof.Machine.execPopc at_ w s
  | .clz at_ w => Sys2Proof.Machine.execClz at_ w s
  | .brev at_ w => Sys2Proof.Machine.execBrev at_ w s
  | .sel at_ w => Sys2Proof.Machine.execSel at_ w s
  | .setp at_ w => Sys2Proof.Machine.execSetp at_ w s
  | .mov at_ w => Sys2Proof.Machine.execMov at_ w s
  | .movVk at_ w => Sys2Proof.Machine.execMovVk at_ w s
  | .fma at_ w => Sys2Proof.Machine.execFma at_ w s
  | .addFloat at_ w => Sys2Proof.Machine.execAddFloat at_ w s
  | .mulFloat at_ w => Sys2Proof.Machine.execMulFloat at_ w s
  | .minFloat at_ w => Sys2Proof.Machine.execMinFloat at_ w s
  | .maxFloat at_ w => Sys2Proof.Machine.execMaxFloat at_ w s
  | .rcp at_ w => Sys2Proof.Machine.execRcp at_ w s
  | .rsq at_ w => Sys2Proof.Machine.execRsq at_ w s
  | .sqrt at_ w => Sys2Proof.Machine.execSqrt at_ w s
  | .ex2 at_ w => Sys2Proof.Machine.execEx2 at_ w s
  | .lg2 at_ w => Sys2Proof.Machine.execLg2 at_ w s
  | .setpFloat at_ w => Sys2Proof.Machine.execSetpFloat at_ w s
  | .cvt at_ w => Sys2Proof.Machine.execCvt at_ w s
  | .pack at_ w => Sys2Proof.Machine.execPack at_ w s
  | .unpack at_ w => Sys2Proof.Machine.execUnpack at_ w s
  | .shflIdx at_ w => Sys2Proof.Machine.execShflIdx at_ w s
  | .shflUp at_ w => Sys2Proof.Machine.execShflUp at_ w s
  | .shflDown at_ w => Sys2Proof.Machine.execShflDown at_ w s
  | .shflXor at_ w => Sys2Proof.Machine.execShflXor at_ w s
  | .voteAny at_ w => Sys2Proof.Machine.execVoteAny at_ w s
  | .voteAll at_ w => Sys2Proof.Machine.execVoteAll at_ w s
  | .ballot at_ w => Sys2Proof.Machine.execBallot at_ w s
  | .addUniform at_ w => Sys2Proof.Machine.execAddUniform at_ w s
  | .subUniform at_ w => Sys2Proof.Machine.execSubUniform at_ w s
  | .mulUniform at_ w => Sys2Proof.Machine.execMulUniform at_ w s
  | .andUniform at_ w => Sys2Proof.Machine.execAndUniform at_ w s
  | .orUniform at_ w => Sys2Proof.Machine.execOrUniform at_ w s
  | .xorUniform at_ w => Sys2Proof.Machine.execXorUniform at_ w s
  | .shlUniform at_ w => Sys2Proof.Machine.execShlUniform at_ w s
  | .shrUniform at_ w => Sys2Proof.Machine.execShrUniform at_ w s
  | .sraUniform at_ w => Sys2Proof.Machine.execSraUniform at_ w s
  | .minUniform at_ w => Sys2Proof.Machine.execMinUniform at_ w s
  | .maxUniform at_ w => Sys2Proof.Machine.execMaxUniform at_ w s
  | .addi at_ w => Sys2Proof.Machine.execAddi at_ w s
  | .movi at_ w => Sys2Proof.Machine.execMovi at_ w s
  | .ori at_ w => Sys2Proof.Machine.execOri at_ w s
  | .v2u at_ w => Sys2Proof.Machine.execV2u at_ w s
  | .u2q at_ w => Sys2Proof.Machine.execU2q at_ w s
  | .setpU at_ w => Sys2Proof.Machine.execSetpU at_ w s
  | .ld at_ w => Sys2Proof.Machine.execLd at_ w s
  | .st at_ w => Sys2Proof.Machine.execSt at_ w s
  | .ldRo at_ w => Sys2Proof.Machine.execLdRo at_ w s
  | .ldu at_ w => Sys2Proof.Machine.execLdu at_ w s
  | .stu at_ w => Sys2Proof.Machine.execStu at_ w s
  | .atom at_ w => Sys2Proof.Machine.execAtom at_ w s
  | .redLine at_ w => Sys2Proof.Machine.execRedLine at_ w s
  | .redLineOrd at_ w => Sys2Proof.Machine.execRedLineOrd at_ w s
  | .mxa at_ w => Sys2Proof.Machine.execMxa at_ w s
  | .mxw at_ w => Sys2Proof.Machine.execMxw at_ w s
  | .tmov at_ w => Sys2Proof.Machine.execTmov at_ w s
  | .dld at_ w => Sys2Proof.Machine.execDld at_ w s
  | .dset at_ w => Sys2Proof.Machine.execDset at_ w s
  | .dmov at_ w => Sys2Proof.Machine.execDmov at_ w s
  | .dstD at_ w => Sys2Proof.Machine.execDstD at_ w s
  | .qpush at_ w => Sys2Proof.Machine.execQpush at_ w s
  | .qpop at_ w => Sys2Proof.Machine.execQpop at_ w s
  | .qmark at_ w => Sys2Proof.Machine.execQmark at_ w s
  | .qrewind at_ w => Sys2Proof.Machine.execQrewind at_ w s
  | .qrel at_ w => Sys2Proof.Machine.execQrel at_ w s
  | .qstat at_ w => Sys2Proof.Machine.execQstat at_ w s
  | .bra at_ w => Sys2Proof.Machine.execBra at_ w s
  | .braCc at_ w => Sys2Proof.Machine.execBraCc at_ w s
  | .braInd at_ w => Sys2Proof.Machine.execBraInd at_ w s
  | .call at_ w => Sys2Proof.Machine.execCall at_ w s
  | .ret at_ w => Sys2Proof.Machine.execRet at_ w s
  | .nop at_ w => Sys2Proof.Machine.execNop at_ w s
  | .exit at_ w => Sys2Proof.Machine.execExit at_ w s
  | .barB at_ w => Sys2Proof.Machine.execBarB at_ w s
  | .wait at_ w => Sys2Proof.Machine.execWait at_ w s
  | .fence at_ w => Sys2Proof.Machine.execFence at_ w s
  | .sreg at_ w => Sys2Proof.Machine.execSreg at_ w s
  | .trap at_ w => Sys2Proof.Machine.execTrap at_ w s
  | .tokTest at_ w => Sys2Proof.Machine.execTokTest at_ w s
  | .pathSwitch at_ => Sys2Proof.Machine.execPathSwitch at_ s
  | .loadReturn at_ op => Sys2Proof.Machine.execLoadReturn at_ op s
  | .mxaStart core => Sys2Proof.Machine.execMxaStart core s
  | .mxaComplete core n => Sys2Proof.Machine.execMxaComplete core n s
  | .mxwStart core => Sys2Proof.Machine.execMxwStart core s
  | .mxwComplete core n => Sys2Proof.Machine.execMxwComplete core n s
  | .moverOperationStart core mover => Sys2Proof.Machine.execMoverOperationStart core mover s
  | .moverOperationComplete core mover n => Sys2Proof.Machine.execMoverOperationComplete core mover n s
  | .moverOperationFailed core mover n => Sys2Proof.Machine.execMoverOperationFailed core mover n s
  | .moverPoison core mover n => Sys2Proof.Machine.execMoverPoison core mover n s
  | .hardwareErrorInCore core block => Sys2Proof.Machine.execHardwareErrorInCore core block s
  | .prefetchFill half pf => Sys2Proof.Machine.execPrefetchFill half pf s
  | .streamIdleTimeout half pf => Sys2Proof.Machine.execStreamIdleTimeout half pf s
  | .blockRetire core block => Sys2Proof.Machine.execBlockRetire core block s
  | .taskReady slice stream task fromHost => Sys2Proof.Machine.execTaskReady slice stream task fromHost s
  | .blockStart slice => Sys2Proof.Machine.execBlockStart slice s
  | .taskOverrun slice no => Sys2Proof.Machine.execTaskOverrun slice no s
  | .clockChange half => Sys2Proof.Machine.execClockChange half s
  | .halfGated half => Sys2Proof.Machine.execHalfGated half s
  | .llmRequest r => Sys2Proof.Machine.execLlmRequest r s
  | .scratchRequest r => Sys2Proof.Machine.execScratchRequest r s
  | .addToLineContribution half c => Sys2Proof.Machine.execAddToLineContribution half c s
  | .reductionHoldEnd half line => Sys2Proof.Machine.execReductionHoldEnd half line s
  | .combineWindowClose half line => Sys2Proof.Machine.execCombineWindowClose half line s
  | .llmPatrol half found => Sys2Proof.Machine.execLlmPatrol half found s
  | .thrashWindowEnd half => Sys2Proof.Machine.execThrashWindowEnd half s
  | .scratchUnitZeroed half unit => Sys2Proof.Machine.execScratchUnitZeroed half unit s
  | .llmFlush half => Sys2Proof.Machine.execLlmFlush half s
  | .llmFlushDone half => Sys2Proof.Machine.execLlmFlushDone half s
  | .llmPowerOffDone half => Sys2Proof.Machine.execLlmPowerOffDone half s
  | .llmPowerUpDone half => Sys2Proof.Machine.execLlmPowerUpDone half s
  | .rds q => Sys2Proof.Machine.execRds q s
  | .rdx q hold => Sys2Proof.Machine.execRdx q hold s
  | .rdxn q => Sys2Proof.Machine.execRdxn q s
  | .rdna q => Sys2Proof.Machine.execRdna q s
  | .rdfine q sector => Sys2Proof.Machine.execRdfine q sector s
  | .wrna q bytes => Sys2Proof.Machine.execWrna q bytes s
  | .putm q d => Sys2Proof.Machine.execPutm q d s
  | .dropm q => Sys2Proof.Machine.execDropm q s
  | .holdend q => Sys2Proof.Machine.execHoldend q s
  | .atomRequest q a => Sys2Proof.Machine.execAtomRequest q a s
  | .inv half line node ackTo => Sys2Proof.Machine.execInv half line node ackTo s
  | .fwds f => Sys2Proof.Machine.execFwds f s
  | .fwdx f => Sys2Proof.Machine.execFwdx f s
  | .fwdrd f => Sys2Proof.Machine.execFwdrd f s
  | .recall f => Sys2Proof.Machine.execRecall f s
  | .fwdop f op => Sys2Proof.Machine.execFwdop f op s
  | .dataMsg m => Sys2Proof.Machine.execDataMsg m s
  | .grant dst tag node line ackcnt => Sys2Proof.Machine.execGrant dst tag node line ackcnt s
  | .ack half line node dst => Sys2Proof.Machine.execAck half line node dst s
  | .nodata f kind => Sys2Proof.Machine.execNodata f kind s
  | .wbdata f kind d => Sys2Proof.Machine.execWbdata f kind d s
  | .atomret dst tag node line vals poison => Sys2Proof.Machine.execAtomret dst tag node line vals poison s
  | .doneMsg src node line => Sys2Proof.Machine.execDoneMsg src node line s
  | .cmp dst tag node line stale => Sys2Proof.Machine.execCmp dst tag node line stale s
  | .parkedForwardServed half line => Sys2Proof.Machine.execParkedForwardServed half line s
  | .requestPromotion at_ => Sys2Proof.Machine.execRequestPromotion at_ s
  | .regimeSwitchDrained node => Sys2Proof.Machine.execRegimeSwitchDrained node s
  | .switchslow node => Sys2Proof.Machine.execSwitchslow node s
  | .directoryScanDone node => Sys2Proof.Machine.execDirectoryScanDone node s
  | .scrubRead sector found last => Sys2Proof.Machine.execScrubRead sector found last s
  | .refresh node channel bank => Sys2Proof.Machine.execRefresh node channel bank s
  | .stackTemperatureReading node temp => Sys2Proof.Machine.execStackTemperatureReading node temp s
  | .nodeRetired node => Sys2Proof.Machine.execNodeRetired node s
  | .frameRewriteDone node frame south => Sys2Proof.Machine.execFrameRewriteDone node frame south s
  | .bridgeReplay die edge link => Sys2Proof.Machine.execBridgeReplay die edge link s
  | .laneFailed die edge link lane => Sys2Proof.Machine.execLaneFailed die edge link lane s
  | .linkRetrain die edge link => Sys2Proof.Machine.execLinkRetrain die edge link s
  | .linkRetrainDone die edge link good => Sys2Proof.Machine.execLinkRetrainDone die edge link good s
  | .netLinkCtrlRetrain host w value => Sys2Proof.Machine.execNetLinkCtrlRetrain host w value s
  | .routeRepair routes => Sys2Proof.Machine.execRouteRepair routes s
  | .meshDrained => Sys2Proof.Machine.execMeshDrained s
  | .qslow => Sys2Proof.Machine.execQslow s
  | .multicastConversion src dst => Sys2Proof.Machine.execMulticastConversion src dst s
  | .conversionNotice src dst => Sys2Proof.Machine.execConversionNotice src dst s
  | .commitMsg b die epoch instant => Sys2Proof.Machine.execCommitMsg b die epoch instant s
  | .commitInstant => Sys2Proof.Machine.execCommitInstant s
  | .timeMsg b die value => Sys2Proof.Machine.execTimeMsg b die value s
  | .quiesce b start => Sys2Proof.Machine.execQuiesce b start s
  | .modeMsg b blocking => Sys2Proof.Machine.execModeMsg b blocking s
  | .lost b halves => Sys2Proof.Machine.execLost b halves s
  | .trip b die => Sys2Proof.Machine.execTrip b die s
  | .budget b die watts period cap slow => Sys2Proof.Machine.execBudget b die watts period cap slow s
  | .lend b die watts period => Sys2Proof.Machine.execLend b die watts period s
  | .pace b src clock cause => Sys2Proof.Machine.execPace b src clock cause s
  | .doorbell b slice stream value => Sys2Proof.Machine.execDoorbell b slice stream value s
  | .dispatch b die slice no preempt => Sys2Proof.Machine.execDispatch b die slice no preempt s
  | .doneBugle b slice no => Sys2Proof.Machine.execDoneBugle b slice no s
  | .intrMsg b slice index gen => Sys2Proof.Machine.execIntrMsg b slice index gen s
  | .linkctl b drained => Sys2Proof.Machine.execLinkctl b drained s
  | .errMsg b r => Sys2Proof.Machine.execErrMsg b r s
  | .telem b die power demand => Sys2Proof.Machine.execTelem b die power demand s
  | .bugleLinkDown die edge => Sys2Proof.Machine.execBugleLinkDown die edge s
  | .headRingRefill q => Sys2Proof.Machine.execHeadRingRefill q s
  | .hostPush port pasid ofs bytes => Sys2Proof.Machine.execHostPush port pasid ofs bytes s
  | .qfcInChange pin level => Sys2Proof.Machine.execQfcInChange pin level s
  | .qfcInTimeout pin => Sys2Proof.Machine.execQfcInTimeout pin s
  | .route half => Sys2Proof.Machine.execRoute half s
  | .combine half => Sys2Proof.Machine.execCombine half s
  | .vetchStat half => Sys2Proof.Machine.execVetchStat half s
  | .vetchCompletionPush half => Sys2Proof.Machine.execVetchCompletionPush half s
  | .linkWrite port p => Sys2Proof.Machine.execLinkWrite port p s
  | .linkReadRequest port p => Sys2Proof.Machine.execLinkReadRequest port p s
  | .linkReadResponse port p => Sys2Proof.Machine.execLinkReadResponse port p s
  | .linkAdd port p => Sys2Proof.Machine.execLinkAdd port p s
  | .linkQueuePush port p => Sys2Proof.Machine.execLinkQueuePush port p s
  | .linkAcknowledgement port p => Sys2Proof.Machine.execLinkAcknowledgement port p s
  | .linkRefusal port p => Sys2Proof.Machine.execLinkRefusal port p s
  | .paceNotice port p => Sys2Proof.Machine.execPaceNotice port p s
  | .timeSyncFrame port p offset => Sys2Proof.Machine.execTimeSyncFrame port p offset s
  | .managementTunnel port p => Sys2Proof.Machine.execManagementTunnel port p s
  | .linkPacketReplay port seq tag => Sys2Proof.Machine.execLinkPacketReplay port seq tag s
  | .portRetrain port lanes => Sys2Proof.Machine.execPortRetrain port lanes s
  | .portRetrainDone port lanes nbr nbrPort => Sys2Proof.Machine.execPortRetrainDone port lanes nbr nbrPort s
  | .lnkPortCfgRetrain host port => Sys2Proof.Machine.execLnkPortCfgRetrain host port s
  | .remoteTimeout id => Sys2Proof.Machine.execRemoteTimeout id s
  | .linkEngineAdd slice => Sys2Proof.Machine.execLinkEngineAdd slice s
  | .coll slice => Sys2Proof.Machine.execColl slice s
  | .collStageComplete slice => Sys2Proof.Machine.execCollStageComplete slice s
  | .linkEngineStat slice => Sys2Proof.Machine.execLinkEngineStat slice s
  | .paceNoticeSend => Sys2Proof.Machine.execPaceNoticeSend s
  | .paceNoticeExpiry src => Sys2Proof.Machine.execPaceNoticeExpiry src s
  | .timeSyncExchange port => Sys2Proof.Machine.execTimeSyncExchange port s
  | .timeParentLost port => Sys2Proof.Machine.execTimeParentLost port s
  | .linkRekey port => Sys2Proof.Machine.execLinkRekey port s
  | .linkSessionExchange port kx => Sys2Proof.Machine.execLinkSessionExchange port kx s
  | .linkSessionRetry port => Sys2Proof.Machine.execLinkSessionRetry port s
  | .slcSDoorbell port pasid stream value => Sys2Proof.Machine.execSlcSDoorbell port pasid stream value s
  | .hostReadCompletion id addr status bytes => Sys2Proof.Machine.execHostReadCompletion id addr status bytes s
  | .hostReadTimeout id addr => Sys2Proof.Machine.execHostReadTimeout id addr s
  | .zeroLengthReadComplete port => Sys2Proof.Machine.execZeroLengthReadComplete port s
  | .atsInvalidation port tag slice addr len => Sys2Proof.Machine.execAtsInvalidation port tag slice addr len s
  | .flrPf0 port => Sys2Proof.Machine.execFlrPf0 port s
  | .flrPf1 port => Sys2Proof.Machine.execFlrPf1 port s
  | .hostLinkDown port => Sys2Proof.Machine.execHostLinkDown port s
  | .ownershipFailover => Sys2Proof.Machine.execOwnershipFailover s
  | .podWindowAccess port ofs size write => Sys2Proof.Machine.execPodWindowAccess port ofs size write s
  | .tunnelReadTimeout port module opid => Sys2Proof.Machine.execTunnelReadTimeout port module opid s
  | .getVersion port => Sys2Proof.Machine.execGetVersion port s
  | .getCapabilities port => Sys2Proof.Machine.execGetCapabilities port s
  | .negotiateAlgorithms port offered => Sys2Proof.Machine.execNegotiateAlgorithms port offered s
  | .getDigests port => Sys2Proof.Machine.execGetDigests port s
  | .getCertificate port slot ofs len => Sys2Proof.Machine.execGetCertificate port slot ofs len s
  | .challenge port slot nonce => Sys2Proof.Machine.execChallenge port slot nonce s
  | .getMeasurements port index signed nonce => Sys2Proof.Machine.execGetMeasurements port index signed nonce s
  | .keyExchange port slot point => Sys2Proof.Machine.execKeyExchange port slot point s
  | .finish port session good => Sys2Proof.Machine.execFinish port session good s
  | .keyUpdate port session => Sys2Proof.Machine.execKeyUpdate port session s
  | .heartbeat port session => Sys2Proof.Machine.execHeartbeat port session s
  | .endSession port session => Sys2Proof.Machine.execEndSession port session s
  | .keyProg port session stream info zero pf1 => Sys2Proof.Machine.execKeyProg port session stream info zero pf1 s
  | .ideIntegrityFailure port stream => Sys2Proof.Machine.execIdeIntegrityFailure port stream s
  | .slcCtrlStart host slice => Sys2Proof.Machine.execSlcCtrlStart host slice s
  | .slcCtrlStop host slice => Sys2Proof.Machine.execSlcCtrlStop host slice s
  | .slcSJobctlStart port pasid => Sys2Proof.Machine.execSlcSJobctlStart port pasid s
  | .slcSJobctlEnd port pasid => Sys2Proof.Machine.execSlcSJobctlEnd port pasid s
  | .kernelStart slice stream fromHost => Sys2Proof.Machine.execKernelStart slice stream fromHost s
  | .modelSwap slice fromHost => Sys2Proof.Machine.execModelSwap slice fromHost s
  | .clusterQuantumExpiry cluster => Sys2Proof.Machine.execClusterQuantumExpiry cluster s
  | .drainExpiry cluster => Sys2Proof.Machine.execDrainExpiry cluster s
  | .windowCycleStart => Sys2Proof.Machine.execWindowCycleStart s
  | .windowGuard w => Sys2Proof.Machine.execWindowGuard w s
  | .windowOpen w => Sys2Proof.Machine.execWindowOpen w s
  | .windowClose w => Sys2Proof.Machine.execWindowClose w s
  | .blockSaveComplete core block => Sys2Proof.Machine.execBlockSaveComplete core block s
  | .remoteWaitAbandon id => Sys2Proof.Machine.execRemoteWaitAbandon id s
  | .blockRestore slice index core => Sys2Proof.Machine.execBlockRestore slice index core s
  | .routeset port seq image => Sys2Proof.Machine.execRouteset port seq image s
  | .fwupdate port seq => Sys2Proof.Machine.execFwupdate port seq s
  | .fwupdateComplete bytes => Sys2Proof.Machine.execFwupdateComplete bytes s
  | .handover port seq => Sys2Proof.Machine.execHandover port seq s
  | .probationEnd => Sys2Proof.Machine.execProbationEnd s
  | .standbyTakeover failed => Sys2Proof.Machine.execStandbyTakeover failed s
  | .diereload port seq => Sys2Proof.Machine.execDiereload port seq s
  | .subst port seq => Sys2Proof.Machine.execSubst port seq s
  | .recal port seq => Sys2Proof.Machine.execRecal port seq s
  | .pdpower port seq => Sys2Proof.Machine.execPdpower port seq s
  | .mreset port seq => Sys2Proof.Machine.execMreset port seq s
  | .hbmgrant port seq => Sys2Proof.Machine.execHbmgrant port seq s
  | .hbmgrantComplete => Sys2Proof.Machine.execHbmgrantComplete s
  | .hbmfree port seq => Sys2Proof.Machine.execHbmfree port seq s
  | .map port seq => Sys2Proof.Machine.execMap port seq s
  | .unmap port seq => Sys2Proof.Machine.execUnmap port seq s
  | .objload port seq => Sys2Proof.Machine.execObjload port seq s
  | .objloadComplete bytes => Sys2Proof.Machine.execObjloadComplete bytes s
  | .migrate port seq => Sys2Proof.Machine.execMigrate port seq s
  | .migrateComplete => Sys2Proof.Machine.execMigrateComplete s
  | .attest port seq => Sys2Proof.Machine.execAttest port seq s
  | .cfgrec port seq bytes => Sys2Proof.Machine.execCfgrec port seq bytes s
  | .unlockreq port seq => Sys2Proof.Machine.execUnlockreq port seq s
  | .unlock port seq token => Sys2Proof.Machine.execUnlock port seq token s
  | .unlockChallengeExpiry => Sys2Proof.Machine.execUnlockChallengeExpiry s
  | .quote slice => Sys2Proof.Machine.execQuote slice s
  | .keyx slice fromHost => Sys2Proof.Machine.execKeyx slice fromHost s
  | .openBlob slice fromHost => Sys2Proof.Machine.execOpenBlob slice fromHost s
  | .sealBlob slice fromHost => Sys2Proof.Machine.execSealBlob slice fromHost s
  | .keydel slice => Sys2Proof.Machine.execKeydel slice s
  | .attestationKeyCertified die => Sys2Proof.Machine.execAttestationKeyCertified die s
  | .transitionEnd => Sys2Proof.Machine.execTransitionEnd s
  | .cfgCommitGo host => Sys2Proof.Machine.execCfgCommitGo host s
  | .commitCheckDone => Sys2Proof.Machine.execCommitCheckDone s
  | .cfgCommitDiscard host => Sys2Proof.Machine.execCfgCommitDiscard host s
  | .repairCommit routes mask => Sys2Proof.Machine.execRepairCommit routes mask s
  | .computeDieFailure die => Sys2Proof.Machine.execComputeDieFailure die s
  | .reserveDieSubstitution die good => Sys2Proof.Machine.execReserveDieSubstitution die good s
  | .pwrEnAssert early strap => Sys2Proof.Machine.execPwrEnAssert early strap s
  | .devReady r => Sys2Proof.Machine.execDevReady r s
  | .bootTimeout step => Sys2Proof.Machine.execBootTimeout step s
  | .pwrEnDeassert => Sys2Proof.Machine.execPwrEnDeassert s
  | .resetNAssert => Sys2Proof.Machine.execResetNAssert s
  | .resetNDeassert => Sys2Proof.Machine.execResetNDeassert s
  | .forceSlowNAssert => Sys2Proof.Machine.execForceSlowNAssert s
  | .forceSlowNDeassert => Sys2Proof.Machine.execForceSlowNDeassert s
  | .rateLimitedChange pin asserted early strap => Sys2Proof.Machine.execRateLimitedChange pin asserted early strap s
  | .stuckEventInput pin => Sys2Proof.Machine.execStuckEventInput pin s
  | .ibcFailure ibc => Sys2Proof.Machine.execIbcFailure ibc s
  | .inputUndervoltage => Sys2Proof.Machine.execInputUndervoltage s
  | .inputOvervoltage => Sys2Proof.Machine.execInputOvervoltage s
  | .refclkLoss => Sys2Proof.Machine.execRefclkLoss s
  | .pcieRefclkLoss port => Sys2Proof.Machine.execPcieRefclkLoss port s
  | .budgetPeriodStart input => Sys2Proof.Machine.execBudgetPeriodStart input s
  | .pwrCap host value => Sys2Proof.Machine.execPwrCap host value s
  | .budgetClockEvaluation half m lend => Sys2Proof.Machine.execBudgetClockEvaluation half m lend s
  | .budgetLost die => Sys2Proof.Machine.execBudgetLost die s
  | .thermalClockEvaluation half temp => Sys2Proof.Machine.execThermalClockEvaluation half temp s
  | .ageingMonitor half margins holds => Sys2Proof.Machine.execAgeingMonitor half margins holds s
  | .droopDetected half => Sys2Proof.Machine.execDroopDetected half s
  | .droopRecovered half => Sys2Proof.Machine.execDroopRecovered half s
  | .thermalTrip die => Sys2Proof.Machine.execThermalTrip die s
  | .tripRestart hot => Sys2Proof.Machine.execTripRestart hot s
  | .telemetrySample dv input dies => Sys2Proof.Machine.execTelemetrySample dv input dies s
  | .energyAttribution shares => Sys2Proof.Machine.execEnergyAttribution shares s
  | .sampleWindowBoundary => Sys2Proof.Machine.execSampleWindowBoundary s
  | .coolantHot inlet outlet => Sys2Proof.Machine.execCoolantHot inlet outlet s
  | .dynamicAddressAssignment addr => Sys2Proof.Machine.execDynamicAddressAssignment addr s
  | .privateWrite bytes => Sys2Proof.Machine.execPrivateWrite bytes s
  | .privateRead => Sys2Proof.Machine.execPrivateRead s
  | .mgtEvtRead host port => Sys2Proof.Machine.execMgtEvtRead host port s
  | .errStatusAlertClear host => Sys2Proof.Machine.execErrStatusAlertClear host s
  | .netCohPredCfgClr host node value => Sys2Proof.Machine.execNetCohPredCfgClr host node value s
  | .rcRead host ofs => Sys2Proof.Machine.execRcRead host ofs s
  | .badRegisterRead at_ => Sys2Proof.Machine.execBadRegisterRead at_ s
  | .registerWrite w => Sys2Proof.Machine.execRegisterWrite w s
  | .refclkReturn => Sys2Proof.Machine.execRefclkReturn s
  | .hostLinkUp port rate width flit => Sys2Proof.Machine.execHostLinkUp port rate width flit s
  | .tdispRequest port start => Sys2Proof.Machine.execTdispRequest port start s
  | .inputRestored strap => Sys2Proof.Machine.execInputRestored strap s
  | .pwrEnDelayedAssert strap => Sys2Proof.Machine.execPwrEnDelayedAssert strap s

end Sys2Proof.Machine
end

