-- ==== Sys2Proof/Machine/Tick.lean ====
section
/-! DEFINITION. What one nanosecond of the time base does while no command waits. -/

namespace Sys2Proof.Machine

/-- On an empty queue one nanosecond passes where the module has power: the time base counts where it has started, a power-on advances, and
a waiting HBMFREE completes once its unit is free (R4, R459, R537; log 1). -/
def State.tick (s : State) : State :=
  if s.phase = .off ∨ s.phase = .delayed then s else
  let s : State := if s.timed then { s with time := s.time + 1 } else s
  (if s.phase = .running then s.bootTick else s).finishFree

end Sys2Proof.Machine
end

