-- ==== Sys2Proof/Certificates/Slice0/Obligations.lean ====
section
/-! DEFINITION. The statements for the provers, with the terms they are stated in (namespace Sys2Proof.Claim). A statement writes
`{ t with f := s.f } = s` for: t differs from s in the field f alone. -/

namespace Sys2Proof.Claim

open Machine

/-- A Lamiz instruction issues at a place (R35, R52, R63, R64): a group is there with the context `c`, it is ready, its word can be
fetched, and every vector register that the word names is below V. -/
def Issues (s : State) (x : Site) (c : Ctx) (vs us : List Nat) : Prop :=
  s.ctx? x = some c ∧ c.ready s vs us = true ∧ (s.translate c.b.slice c.p.pc).isSome = true ∧ ∀ r ∈ vs, r < c.b.v

/-- The next state differs only in the group of the slot, which is `g'`. -/
def OnlyGroup (s t : State) (core slot : Nat) (g' : Group) : Prop :=
  { t with cores := s.cores } = s ∧ (∀ n, n ≠ core → t.core n = s.core n) ∧
  { t.core core with groups := (s.core core).groups } = s.core core ∧
  NMap.find? (t.core core).groups slot = some g' ∧
  ∀ k, k ≠ slot → NMap.find? (t.core core).groups k = NMap.find? (s.core core).groups k

/-- A group with the path table and the turn of another: what the end of every instruction may change (R37 to R45). -/
def pathsOf (g g' : Group) : Group := { g' with ents := g.ents, cur := g.cur, turn := g.turn, loop := g.loop, clock := g.clock }

/-- The registers of `dst` under a type hold `val l` in the lanes of the mask; every other vector register and lane is unchanged. -/
def LanesWritten (g g' : Group) (ty dst : Nat) (m : W32) (val : Nat → Nat) : Prop :=
  (∀ l, l < 32 → inMask m l = true → g'.lane ty dst l = val l) ∧
  ∀ r l, l < 32 → (inMask m l = false ∨ r ∉ regsOf ty dst) → g'.vreg r l = g.vreg r l

/-- An integer row: its command, the operands it takes, and what its result is of the width, the signedness, SAT and the operands. -/
structure IntRow where
  make : Site → VForm → Instr
  uses : Uses
  rule : Nat → Bool → Bool → Nat → Nat → Nat → Nat → Prop

/-- An exact result under SAT is the nearest number of the type, otherwise it wraps (R73). -/
def Narrowed (n : Nat) (sg sat : Bool) (v : Int) (r : Nat) : Prop :=
  let lo : Int := if sg then -(2 ^ (n - 1) : Nat) else 0
  let hi : Int := if sg then (2 ^ (n - 1) : Nat) - 1 else (2 ^ n : Nat) - 1
  r < 2 ^ n ∧
  if sat then (asInt sg n r = if v < lo then lo else if hi < v then hi else v) else (asInt sg n r - v) % (2 ^ n : Nat) = 0

/-- The integer rows of R73 with a vector result, but for abs and sel. -/
def intRows : List IntRow :=
  [⟨.add, { sat := true, vi := true }, fun n sg sat a b _ r => Narrowed n sg sat (asInt sg n a + asInt sg n b) r⟩,
   ⟨.sub, { sat := true }, fun n sg sat a b _ r => Narrowed n sg sat (asInt sg n a - asInt sg n b) r⟩,
   ⟨.mulLo, { sat := true, vi := true }, fun n sg sat a b _ r => Narrowed n sg sat (asInt sg n a * asInt sg n b) r⟩,
   ⟨.mulHi, {}, fun n sg _ a b _ r => r < 2 ^ n ∧ asInt sg n r = asInt sg n a * asInt sg n b / (2 ^ n : Nat)⟩,
   ⟨.madLo, { c := true, sat := true }, fun n sg sat a b c r => Narrowed n sg sat (asInt sg n a * asInt sg n b + asInt sg n c) r⟩,
   ⟨.min, { vi := true }, fun n sg _ a b _ r => (r = a ∨ r = b) ∧ asInt sg n r ≤ asInt sg n a ∧ asInt sg n r ≤ asInt sg n b⟩,
   ⟨.max, { vi := true }, fun n sg _ a b _ r => (r = a ∨ r = b) ∧ asInt sg n a ≤ asInt sg n r ∧ asInt sg n b ≤ asInt sg n r⟩,
   ⟨.and, { vi := true }, fun _ _ _ a b _ r => ∀ i, r.testBit i = (a.testBit i && b.testBit i)⟩,
   ⟨.or, { vi := true }, fun _ _ _ a b _ r => ∀ i, r.testBit i = (a.testBit i || b.testBit i)⟩,
   ⟨.xor, { vi := true }, fun _ _ _ a b _ r => ∀ i, r.testBit i = (a.testBit i ^^ b.testBit i)⟩,
   ⟨.not, { b := false }, fun n _ _ a _ _ r => r < 2 ^ n ∧ ∀ i, i < n → r.testBit i = !a.testBit i⟩,
   ⟨.shl, { vi := true }, fun n _ _ a b _ r => r = a * 2 ^ b % 2 ^ n⟩,
   ⟨.shr, { vi := true }, fun _ _ _ a b _ r => r = a / 2 ^ b⟩,
   ⟨.sra, { vi := true }, fun n _ _ a b _ r => r < 2 ^ n ∧ asInt true n r = asInt true n a / (2 ^ b : Nat)⟩,
   ⟨.popc, { b := false }, fun n _ _ a _ _ r => r = ((List.range n).map fun i => (a.testBit i).toNat).sum⟩,
   ⟨.clz, { b := false }, fun n _ _ a _ _ r => r ≤ n ∧ a < 2 ^ (n - r) ∧ (r < n → 2 ^ (n - r - 1) ≤ a)⟩,
   ⟨.brev, { b := false }, fun n _ _ a _ _ r => r < 2 ^ n ∧ ∀ i, i < n → r.testBit i = a.testBit (n - 1 - i)⟩,
   ⟨.mov, { b := false }, fun _ _ _ a _ _ r => r = a⟩]

end Sys2Proof.Claim

open Sys2Proof Sys2Proof.Machine

/-- Step takes the command at the front of the queue and runs it on the queue's rest (tier 1; DESIGN CHOICE of the block form). -/
def Obligations.StepRunsFrontCommand : Prop :=
  ∀ (c : Instr) (r : List Instr) (s : State), step { s with pending := c :: r } = exec c { s with pending := r }

/-- R73: every integer row of format VV completes with the result of its rule in the guarded lanes, and changes nothing else. -/
def Obligations.IntegerVectorResults : Prop :=
  ∀ row ∈ Claim.intRows, ∀ (s : State) (x : Site) (c : Ctx) (w : VV),
    Claim.Issues s x c (w.regs row.uses true) w.uregs → w.intOk row.uses true = true → (row.uses.c = true ∨ w.c = 0) →
    ∃ t g', exec (row.make x (.vv w)) s = .next t ∧ Claim.OnlyGroup s t x.core x.slot g' ∧
      { Claim.pathsOf c.g g' with v := c.g.v } = c.g ∧
      ∃ val, Claim.LanesWritten c.g g' w.ty.toNat w.dst.toNat (c.guarded w.h) val ∧
      ∀ l, l < 32 → row.rule (tyBits w.ty.toNat) (tySigned w.ty.toNat) w.sat (c.g.lane w.ty.toNat w.a.toNat l)
        (if row.uses.b then w.bLane c.g l else 0) (if row.uses.c then c.g.lane w.ty.toNat w.c.toNat l else 0) (val l)

namespace Sys2Proof.Claim

/-- A float row: its command, the modifiers it takes, and its result of the format, the mode, SAT, the random source and the operands. -/
structure FloatRow where
  make : Site → VForm → Instr
  uses : FUses
  rule : Num.Fmt → Nat → Bool → (Nat → Nat → Nat) → Num.Val → Num.Val → Num.Val → Nat

/-- The float rows of R76 with a vector result: each forms the exact result and rounds it once (R114, R120 to R122). -/
def floatRows : List FloatRow :=
  [⟨.fma, { c := true, nc := true }, fun f m sat rnd a b c => Num.encode f m sat rnd (Num.add m (Num.mul a b) c)⟩,
   ⟨.addFloat, { vi := true }, fun f m sat rnd a b _ => Num.encode f m sat rnd (Num.add m a b)⟩,
   ⟨.mulFloat, { vi := true }, fun f m sat rnd a b _ => Num.encode f m sat rnd (Num.mul a b)⟩,
   ⟨.minFloat, { vi := true, rnd := 3 }, fun f m sat rnd a b _ =>
     Num.encode f m sat rnd (if a = .nan then b else if b = .nan then a else if Num.less true b a then b else a)⟩,
   ⟨.maxFloat, { vi := true, rnd := 3 }, fun f m sat rnd a b _ =>
     Num.encode f m sat rnd (if a = .nan then b else if b = .nan then a else if Num.less true a b then b else a)⟩,
   ⟨.rcp, { b := false, rnd := 0 }, fun f _ sat _ a _ _ => Num.approx .rcp f sat a⟩,
   ⟨.rsq, { b := false, rnd := 0 }, fun f _ sat _ a _ _ => Num.approx .rsq f sat a⟩,
   ⟨.sqrt, { b := false, rnd := 0 }, fun f _ sat _ a _ _ => Num.approx .sqrt f sat a⟩,
   ⟨.ex2, { b := false, rnd := 0 }, fun f _ sat _ a _ _ => Num.approx .ex2 f sat a⟩,
   ⟨.lg2, { b := false, rnd := 0 }, fun f _ sat _ a _ _ => Num.approx .lg2 f sat a⟩]

/-- The lanes of a predicate that a mask names take `val`; every other lane and predicate is unchanged. -/
def PredWritten (g g' : Group) (q : Nat) (m : W32) (val : Nat → Bool) : Prop :=
  (∀ l, l < 32 → inMask (g'.pred q) l = if inMask m l then val l else inMask (g.pred q) l) ∧ ∀ k, k ≠ q → g'.pred k = g.pred k

/-- The command completes, changes only its group, and there only vector registers, the path table and the turn. -/
def CompletesV (i : Instr) (s : State) (x : Site) (c : Ctx) (P : Group → Prop) : Prop :=
  ∃ t g', exec i s = .next t ∧ OnlyGroup s t x.core x.slot g' ∧ { pathsOf c.g g' with v := c.g.v } = c.g ∧ P g'
/-- The same with predicates in place of vector registers. -/
def CompletesQ (i : Instr) (s : State) (x : Site) (c : Ctx) (P : Group → Prop) : Prop :=
  ∃ t g', exec i s = .next t ∧ OnlyGroup s t x.core x.slot g' ∧ { pathsOf c.g g' with q := c.g.q } = c.g ∧ P g'
/-- The same with uniform registers. -/
def CompletesU (i : Instr) (s : State) (x : Site) (c : Ctx) (P : Group → Prop) : Prop :=
  ∃ t g', exec i s = .next t ∧ OnlyGroup s t x.core x.slot g' ∧ { pathsOf c.g g' with u := c.g.u } = c.g ∧ P g'
/-- The same with descriptors. -/
def CompletesD (i : Instr) (s : State) (x : Site) (c : Ctx) (P : Group → Prop) : Prop :=
  ∃ t g', exec i s = .next t ∧ OnlyGroup s t x.core x.slot g' ∧ { pathsOf c.g g' with d := c.g.d } = c.g ∧ P g'

/-- Every element of the destination in the guarded lanes; every other register and lane is unchanged. -/
def ElemsWritten (g g' : Group) (dst n w : Nat) (m : W32) (val : Nat → Nat → Nat) : Prop :=
  (∀ l i, l < 32 → i < n → inMask m l = true → elemAt n w (g'.lane 0 dst l) i = val l i) ∧
  ∀ r l, l < 32 → (inMask m l = false ∨ r ≠ dst) → g'.vreg r l = g.vreg r l

/-- A binary uniform row of R74: its command and its result on 64 bits. -/
structure UniformRow where
  make : Site → UF → Instr
  rule : W64 → W64 → W64 → Prop

def uniformRows : List UniformRow :=
  [⟨.addUniform, fun a b r => r.toNat = (a.toNat + b.toNat) % 2 ^ 64⟩,
   ⟨.subUniform, fun a b r => (r.toNat + b.toNat) % 2 ^ 64 = a.toNat⟩,
   ⟨.mulUniform, fun a b r => r.toNat = a.toNat * b.toNat % 2 ^ 64⟩,
   ⟨.andUniform, fun a b r => ∀ i, r.getLsbD i = (a.getLsbD i && b.getLsbD i)⟩,
   ⟨.orUniform, fun a b r => ∀ i, r.getLsbD i = (a.getLsbD i || b.getLsbD i)⟩,
   ⟨.xorUniform, fun a b r => ∀ i, r.getLsbD i = (a.getLsbD i ^^ b.getLsbD i)⟩,
   ⟨.shlUniform, fun a b r => r.toNat = a.toNat * 2 ^ b.toNat % 2 ^ 64⟩,
   ⟨.shrUniform, fun a b r => r.toNat = a.toNat / 2 ^ b.toNat⟩,
   ⟨.sraUniform, fun a b r => r.toInt = a.toInt / (2 ^ b.toNat : Nat)⟩,
   ⟨.minUniform, fun a b r => r.toInt = min a.toInt b.toInt⟩,
   ⟨.maxUniform, fun a b r => r.toInt = max a.toInt b.toInt⟩]

/-- A shuffle row of R78: its command and the lane that it reads, of operand b and the own lane. -/
structure ShuffleRow where
  make : Site → VV → Instr
  src : Nat → Nat → Option Nat

def shuffleRows : List ShuffleRow :=
  [⟨.shflIdx, fun b _ => some (b % 32)⟩,
   ⟨.shflUp, fun b l => if b ≤ l then some (l - b) else none⟩,
   ⟨.shflDown, fun b l => if l + b < 32 then some (l + b) else none⟩,
   ⟨.shflXor, fun b l => if Nat.xor l b < 32 then some (Nat.xor l b) else none⟩]

end Sys2Proof.Claim

/-- R73: abs, sel, setp and the move of an immediate. Of the most negative number, whose magnitude R73 does not state, the result of
abs is a free value of the model (log 14), and nothing is claimed of that lane. -/
def Obligations.AbsSelSetpMovImmediate : Prop :=
  (∀ (s : State) (x : Site) (c : Ctx) (w : VV),
    Claim.Issues s x c (w.regs { b := false } true) w.uregs → w.intOk { b := false } true = true → w.c = 0 →
    ∃ t g', exec (.abs x (.vv w)) s = .next t ∧ Claim.OnlyGroup { s with free := t.free } t x.core x.slot g' ∧
      { Claim.pathsOf c.g g' with v := c.g.v } = c.g ∧
      ∃ val, Claim.LanesWritten c.g g' w.ty.toNat w.dst.toNat (c.guarded w.h) val ∧
      ∀ l, l < 32 → asInt (tySigned w.ty.toNat) (tyBits w.ty.toNat) (c.g.lane w.ty.toNat w.a.toNat l) ≠ -(2 ^ (tyBits w.ty.toNat - 1) : Nat) →
        val l = (asInt (tySigned w.ty.toNat) (tyBits w.ty.toNat) (c.g.lane w.ty.toNat w.a.toNat l)).natAbs) ∧
  (∀ (s : State) (x : Site) (c : Ctx) (w : VV),
    Claim.Issues s x c (w.regs {} true) w.uregs → w.intOk {} true = true → w.c.toNat < 8 →
    Claim.CompletesV (.sel x (.vv w)) s x c fun g' =>
      Claim.LanesWritten c.g g' w.ty.toNat w.dst.toNat (c.guarded w.h) fun l =>
        if inMask (c.g.pred w.c.toNat) l then c.g.lane w.ty.toNat w.a.toNat l else w.bLane c.g l) ∧
  (∀ (s : State) (x : Site) (c : Ctx) (w : VV),
    Claim.Issues s x c (w.regs {} false) w.uregs → w.intOk {} false = true → w.c.toNat < 6 → w.dst.toNat < 8 →
    Claim.CompletesQ (.setp x (.vv w)) s x c fun g' =>
      Claim.PredWritten c.g g' w.dst.toNat (c.guarded w.h) fun l =>
        intCond w.c.toNat (asInt (tySigned w.ty.toNat) (tyBits w.ty.toNat) (c.g.lane w.ty.toNat w.a.toNat l))
          (asInt (tySigned w.ty.toNat) (tyBits w.ty.toNat) (w.bLane c.g l))) ∧
  (∀ (s : State) (x : Site) (c : Ctx) (w : VI),
    Claim.Issues s x c (w.regs false) [] → w.intOk { vi := true } false = true → bits w.dst.toNat 3 3 < 6 → w.dst.toNat < 64 →
    Claim.CompletesQ (.setp x (.vi w)) s x c fun g' =>
      Claim.PredWritten c.g g' (w.dst.toNat % 8) (c.guarded w.h) fun l =>
        intCond (bits w.dst.toNat 3 3) (asInt (tySigned w.ty.toNat) (tyBits w.ty.toNat) (c.g.lane w.ty.toNat w.a.toNat l))
          (asInt (tySigned w.ty.toNat) (tyBits w.ty.toNat) w.immVal)) ∧
  (∀ (s : State) (x : Site) (c : Ctx) (w : VK),
    Claim.Issues s x c [w.dst.toNat] [] → w.h.ok = true → w.res = 0 →
    Claim.CompletesV (.movVk x w) s x c fun g' =>
      Claim.LanesWritten c.g g' 0 w.dst.toNat (c.guarded w.h) fun _ => w.imm.toNat)

/-- R76, R114, R120 to R122: every float row of format VV completes with its exact result rounded once in every element of every
guarded lane, after AA, NA and NC, and changes nothing else. -/
def Obligations.FloatVectorResults : Prop :=
  ∀ row ∈ Claim.floatRows, ∀ (s : State) (x : Site) (c : Ctx) (w : VV) (f : Num.Fmt) (n : Nat),
    Claim.Issues s x c ([w.dst.toNat, w.a.toNat] ++ (if row.uses.b && !w.ub then [w.b.toNat] else []) ++ (if row.uses.c then [w.c.toNat] else [])) w.uregs →
    w.floatOk row.uses = true → (row.uses.c = true ∨ w.c = 0) → floatFmt w.ty.toNat = (f, n) →
    Claim.CompletesV (row.make x (.vv w)) s x c fun g' =>
      Claim.ElemsWritten c.g g' w.dst.toNat n f.width (c.guarded w.h) fun l i =>
        let val (v : Nat) := Num.decode f (elemAt n f.width v i)
        row.rule f w.rnd.toNat w.sat (Num.random16 c.seed l i)
          (let a := val (c.g.lane 0 w.a.toNat l)
           let a := if w.aa then a.abs else a
           if w.na then a.negate else a)
          (val (if row.uses.b then w.bLane c.g l else 0))
          (if w.nc then (val (c.g.lane 0 w.c.toNat l)).negate else val (c.g.lane 0 w.c.toNat l))

/-- R69, R70, R73, R76: the integer and float rows that have format VI complete with operand b the 24-bit immediate: sign-extended for an integer type, the high
bits of an f32. -/
def Obligations.ImmediateFormResults : Prop :=
  (∀ row ∈ Claim.intRows, ∀ (s : State) (x : Site) (c : Ctx) (w : VI),
     Claim.Issues s x c (w.regs true) [] → w.intOk row.uses true = true →
     ∃ t g', exec (row.make x (.vi w)) s = .next t ∧ Claim.OnlyGroup s t x.core x.slot g' ∧
       { Claim.pathsOf c.g g' with v := c.g.v } = c.g ∧
       ∃ val, Claim.LanesWritten c.g g' w.ty.toNat w.dst.toNat (c.guarded w.h) val ∧
       ∀ l, l < 32 → row.rule (tyBits w.ty.toNat) (tySigned w.ty.toNat) false (c.g.lane w.ty.toNat w.a.toNat l)
         ((w.imm.signExtend (tyBits w.ty.toNat)).toNat) 0 (val l)) ∧
  ∀ row ∈ Claim.floatRows, ∀ (s : State) (x : Site) (c : Ctx) (w : VI),
    Claim.Issues s x c [w.dst.toNat, w.a.toNat] [] → w.floatOk row.uses = true →
    Claim.CompletesV (row.make x (.vi w)) s x c fun g' =>
      Claim.ElemsWritten c.g g' w.dst.toNat 1 32 (c.guarded w.h) fun l _ =>
        row.rule .f32 0 false (Num.random16 c.seed l 0) (Num.decode .f32 (c.g.lane 0 w.a.toNat l))
          (Num.decode .f32 (w.imm.toNat * 256)) (Num.decode .f32 0)

/-- R77, R121: float setp, cvt, pack and unpack. That pack and unpack move halves as they do is the model's reading (log 16). -/
def Obligations.FloatSetpAndConversions : Prop :=
  (∀ (s : State) (x : Site) (c : Ctx) (w : VV) (f : Num.Fmt) (n : Nat),
    Claim.Issues s x c ([w.a.toNat] ++ (if w.ub then [] else [w.b.toNat])) w.uregs →
    w.floatOk { sat := false, rnd := 0 } = true → w.c.toNat < 8 → w.dst.toNat < 8 → floatFmt w.ty.toNat = (f, n) →
    Claim.CompletesQ (.setpFloat x (.vv w)) s x c fun g' =>
      Claim.PredWritten c.g g' w.dst.toNat (c.guarded w.h) fun l => decide (∀ i, i < n →
        Num.fcond w.c.toNat (w.modA (Num.decode f (elemAt n f.width (c.g.lane 0 w.a.toNat l) i)))
          (Num.decode f (elemAt n f.width (w.bLane c.g l) i)) = true)) ∧
  (∀ (s : State) (x : Site) (c : Ctx) (w : VI),
    Claim.Issues s x c [w.a.toNat] [] → w.floatOk { vi := true } = true → w.dst.toNat < 64 →
    Claim.CompletesQ (.setpFloat x (.vi w)) s x c fun g' =>
      Claim.PredWritten c.g g' (w.dst.toNat % 8) (c.guarded w.h) fun l =>
        Num.fcond (bits w.dst.toNat 3 3) (Num.decode .f32 (c.g.lane 0 w.a.toNat l)) (Num.decode .f32 (w.imm.toNat * 256))) ∧
  (∀ (s : State) (x : Site) (c : Ctx) (w : VV) (sf df : Num.Fmt) (sn dn : Nat),
    tyElem w.c.toNat = some (sf, sn) → tyElem w.ty.toNat = some (df, dn) →
    Claim.Issues s x c (regsOf w.c.toNat w.a.toNat ++ regsOf w.ty.toNat w.dst.toNat) [] →
    w.h.ok = true → w.rnd.toNat ≤ 4 → w.na = false → w.nc = false → w.aa = false → w.b = 0 → w.ub = false →
    pairOk w.c.toNat w.a.toNat = true → pairOk w.ty.toNat w.dst.toNat = true →
    Claim.CompletesV (.cvt x w) s x c fun g' =>
      (∀ l i, l < 32 → i < dn → inMask (c.guarded w.h) l = true → elemAt dn df.width (g'.lane w.ty.toNat w.dst.toNat l) i =
        if i < sn then Num.convert sf df w.rnd.toNat w.sat (Num.random16 c.seed l i) (elemAt sn sf.width (c.g.lane w.c.toNat w.a.toNat l) i)
        else 0) ∧
      ∀ r l, l < 32 → (inMask (c.guarded w.h) l = false ∨ r ∉ regsOf w.ty.toNat w.dst.toNat) → g'.vreg r l = c.g.vreg r l) ∧
  (∀ (s : State) (x : Site) (c : Ctx) (w : VV) (f : Num.Fmt) (n : Nat),
    tyElem w.ty.toNat = some (f, n) → 2 ≤ n → w.h.ok = true → w.rnd = 0 → w.sat = false → w.na = false → w.nc = false → w.aa = false → w.c = 0 →
    (w.bOk {} = true → Claim.Issues s x c ([w.dst.toNat, w.a.toNat] ++ (if w.ub then [] else [w.b.toNat])) w.uregs →
      Claim.CompletesV (.pack x w) s x c fun g' =>
        Claim.ElemsWritten c.g g' w.dst.toNat 2 16 (c.guarded w.h) fun l i =>
          if i = 0 then c.g.lane 0 w.a.toNat l % 2 ^ 16 else w.bLane c.g l % 2 ^ 16) ∧
    (w.ub = false → w.b.toNat < (if n = 2 then 2 else 4) → Claim.Issues s x c [w.dst.toNat, w.a.toNat] [] →
      Claim.CompletesV (.unpack x w) s x c fun g' =>
        Claim.LanesWritten c.g g' 0 w.dst.toNat (c.guarded w.h) fun l =>
          if n = 2 then c.g.lane 0 w.a.toNat l / 2 ^ (16 * w.b.toNat) % 2 ^ 16 else c.g.lane 0 w.a.toNat l / 2 ^ (8 * w.b.toNat) % 2 ^ 8))

/-- R78: shuffles read the named active lane, or their own where there is none; votes and ballots see the active lanes. -/
def Obligations.CrossLaneResults : Prop :=
  (∀ row ∈ Claim.shuffleRows, ∀ (s : State) (x : Site) (c : Ctx) (w : VV),
    Claim.Issues s x c ([w.dst.toNat, w.a.toNat] ++ (if w.ub then [] else [w.b.toNat])) w.uregs →
    crossOk w = true → w.c = 0 → w.bOk {} = true →
    Claim.CompletesV (row.make x w) s x c fun g' =>
      Claim.LanesWritten c.g g' 0 w.dst.toNat (c.guarded w.h) fun l =>
        match row.src (w.bLane c.g l) l with
        | some j => if inMask c.p.mask j then (c.g.vreg w.a.toNat j).toNat else (c.g.vreg w.a.toNat l).toNat
        | none => (c.g.vreg w.a.toNat l).toNat) ∧
  ∀ (s : State) (x : Site) (c : Ctx) (w : VV),
    Claim.Issues s x c [w.dst.toNat] [] → crossOk w = true → w.a = 0 → w.b = 0 → w.ub = false → w.c.toNat < 8 →
    Claim.CompletesV (.voteAny x w) s x c (fun g' =>
      Claim.LanesWritten c.g g' 0 w.dst.toNat (c.guarded w.h) fun _ =>
        if lanes.any fun l => inMask c.p.mask l && inMask (c.g.pred w.c.toNat) l then 1 else 0) ∧
    Claim.CompletesV (.voteAll x w) s x c (fun g' =>
      Claim.LanesWritten c.g g' 0 w.dst.toNat (c.guarded w.h) fun _ =>
        if lanes.all fun l => !inMask c.p.mask l || inMask (c.g.pred w.c.toNat) l then 1 else 0) ∧
    Claim.CompletesV (.ballot x w) s x c (fun g' =>
      ∃ b : W32, (∀ l, l < 32 → b.getLsbD l = (inMask c.p.mask l && inMask (c.g.pred w.c.toNat) l)) ∧
      Claim.LanesWritten c.g g' 0 w.dst.toNat (c.guarded w.h) fun _ => b.toNat)

/-- R74, R78: every binary uniform row writes its result once for the whole group; addi, movi, ori, v2u, u2q and setp.u. -/
def Obligations.UniformRegisterResults : Prop :=
  (∀ row ∈ Claim.uniformRows, ∀ (s : State) (x : Site) (c : Ctx) (w : UF),
    Claim.Issues s x c [] [w.dst.toNat, w.a.toNat, w.b.toNat] → w.h.unguarded = true → w.imm = 0 →
    Claim.CompletesU (row.make x w) s x c fun g' =>
      row.rule (c.g.ureg w.a.toNat) (c.g.ureg w.b.toNat) (g'.ureg w.dst.toNat) ∧ ∀ r, r ≠ w.dst.toNat → g'.ureg r = c.g.ureg r) ∧
  ∀ (s : State) (x : Site) (c : Ctx) (w : UF), w.h.unguarded = true →
    (Claim.Issues s x c [] [w.dst.toNat, w.a.toNat] → w.b = 0 →
      Claim.CompletesU (.addi x w) s x c fun g' =>
        g'.ureg w.dst.toNat = c.g.ureg w.a.toNat + BitVec.ofInt 64 w.imm.toInt ∧ ∀ r, r ≠ w.dst.toNat → g'.ureg r = c.g.ureg r) ∧
    (Claim.Issues s x c [] [w.dst.toNat] → w.a = 0 → w.b = 0 →
      Claim.CompletesU (.movi x w) s x c fun g' =>
        (g'.ureg w.dst.toNat).toInt = w.imm.toInt ∧ ∀ r, r ≠ w.dst.toNat → g'.ureg r = c.g.ureg r) ∧
    (Claim.Issues s x c [] [w.dst.toNat, w.a.toNat] → w.b = 0 →
      Claim.CompletesU (.ori x w) s x c fun g' =>
        (∀ i, (g'.ureg w.dst.toNat).getLsbD i = ((c.g.ureg w.a.toNat).getLsbD i || w.imm.getLsbD i)) ∧
        ∀ r, r ≠ w.dst.toNat → g'.ureg r = c.g.ureg r) ∧
    (Claim.Issues s x c [w.imm.toNat] [w.dst.toNat] → w.a = 0 → w.b = 0 → w.imm.toNat < 256 →
      Claim.CompletesU (.v2u x w) s x c fun g' =>
        (g'.ureg w.dst.toNat).toNat = (c.g.vreg w.imm.toNat (lowestLane c.p.mask)).toNat ∧ ∀ r, r ≠ w.dst.toNat → g'.ureg r = c.g.ureg r) ∧
    (Claim.Issues s x c [] [w.a.toNat] → w.dst.toNat < 8 → w.b = 0 → w.imm = 0 →
      Claim.CompletesQ (.u2q x w) s x c fun g' =>
        Claim.PredWritten c.g g' w.dst.toNat c.p.mask fun l => (c.g.ureg w.a.toNat).getLsbD l) ∧
    (Claim.Issues s x c [] [w.a.toNat, w.b.toNat] → w.dst.toNat < 8 → w.imm.toNat < 6 →
      Claim.CompletesQ (.setpU x w) s x c fun g' =>
        Claim.PredWritten c.g g' w.dst.toNat c.p.mask fun _ =>
          intCond w.imm.toNat (c.g.ureg w.a.toNat).toInt (c.g.ureg w.b.toNat).toInt)

namespace Sys2Proof.Claim

/-- The command completes, changes only its group, and there only the path table and the turn. -/
def CompletesP (i : Instr) (s : State) (x : Site) (c : Ctx) (P : Group → Prop) : Prop :=
  ∃ t g', exec i s = .next t ∧ OnlyGroup s t x.core x.slot g' ∧ pathsOf c.g g' = c.g ∧ P g'

/-- A lane is in a runnable path at an address. -/
def LaneAt (g : Group) (l pc : Nat) : Prop := ∃ e p, g.path? e = some p ∧ inMask p.mask l = true ∧ p.pc = pc ∧ p.wait = .run

/-- The address of the next instruction. -/
def nextPc (c : Ctx) : Nat := (c.p.pc + 8) % 2 ^ 48

/-- No reconvergence point is open, and a transfer of the active lanes to `tgt` fits the path table beside a point at `rcv`. -/
def Room (c : Ctx) (tgt : Nat → Nat) (rcv : Nat) : Prop :=
  c.p.point = none ∧
  ((∃ a, ∀ l, l < 32 → inMask c.p.mask l = true → tgt l = a) ∨
   (((lanes.filter (inMask c.p.mask)).map tgt).eraseDups.length ≤ c.g.freeEnts.length ∧
    ∀ l, l < 32 → inMask c.p.mask l = true → tgt l ≠ rcv))

/-- The same for a conditional branch, which leaves the path whole where its condition is equal in every active lane. -/
def RoomTwo (c : Ctx) (taken : Nat → Bool) (tgt rcv : Nat) : Prop :=
  c.p.point = none ∧
  ((∀ l, l < 32 → inMask c.p.mask l = true → taken l = true) ∨ (∀ l, l < 32 → inMask c.p.mask l = true → taken l = false) ∨
   (2 ≤ c.g.freeEnts.length ∧ tgt ≠ rcv ∧ nextPc c ≠ rcv))

/-- What the special register of a selector reads in a lane (R97). -/
def specialValue (s : State) (c : Ctx) (l : Nat) : List W64 :=
  [BitVec.ofNat 64 l, BitVec.ofNat 64 (s.cycles c.core), s.time, BitVec.ofNat 64 (s.coreRank c.b.slice c.core),
   BitVec.ofNat 64 (s.fld (aPwrHalf (c.core / 32)) 0 11), BitVec.ofNat 64 (s.gen c.b.slice), c.b.taskNo, BitVec.ofNat 64 c.p.mask.toNat]

end Sys2Proof.Claim

/-- R37 to R39, R42, R79 to R81: branches, calls and returns. Every active lane goes on in a path at its target, or after the branch where
it is not taken; a call writes its return and reconvergence indices. -/
def Obligations.BranchesMoveLanes : Prop :=
  (∀ (s : State) (x : Site) (c : Ctx) (w : BF), Claim.Issues s x c [] [] → w.h.ok = true → (w.h.pg = true ∨ w.rcv = 0) →
    Claim.RoomTwo c (inMask (c.guarded w.h)) (target c.p.pc w.tgt) (target c.p.pc w.rcv) →
    Claim.CompletesP (.bra x w) s x c fun g' => ∀ l, l < 32 → inMask c.p.mask l = true →
      Claim.LaneAt g' l (if inMask (c.guarded w.h) l then target c.p.pc w.tgt else Claim.nextPc c)) ∧
  (∀ (s : State) (x : Site) (c : Ctx) (w : CF) (cond : Nat → Bool), Claim.Issues s x c [w.a.toNat] [] → w.h.unguarded = true → w.cc.toNat < 6 →
    (∀ l, cond l = if w.un then intCond w.cc.toNat (c.g.vreg w.a.toNat l).toNat (w.imm.signExtend 32).toNat
      else intCond w.cc.toNat (c.g.vreg w.a.toNat l).toInt w.imm.toInt) →
    Claim.RoomTwo c cond (target c.p.pc w.tgt) (target c.p.pc w.rcv) →
    Claim.CompletesP (.braCc x w) s x c fun g' => ∀ l, l < 32 → inMask c.p.mask l = true →
      Claim.LaneAt g' l (if cond l then target c.p.pc w.tgt else Claim.nextPc c)) ∧
  (∀ (s : State) (x : Site) (c : Ctx) (w : BF), Claim.Issues s x c [w.lnk.toNat] [] → w.h.unguarded = true → w.ctgt = 0 → c.p.mask ≠ 0 →
    Claim.Room c (fun l => (c.b.code + 8 * (c.g.vreg w.lnk.toNat l).toNat) % 2 ^ 48) (target c.p.pc w.rcv) →
    Claim.CompletesP (.braInd x w) s x c fun g' => ∀ l, l < 32 → inMask c.p.mask l = true →
      Claim.LaneAt g' l ((c.b.code + 8 * (c.g.vreg w.lnk.toNat l).toNat) % 2 ^ 48)) ∧
  (∀ (s : State) (x : Site) (c : Ctx) (w : BF), Claim.Issues s x c [w.lnk.toNat, w.lnk.toNat + 1] [] → w.h.unguarded = true → w.ctgt = 0 → w.rcv = 0 →
    w.lnk.toNat % 2 = 0 → c.p.mask ≠ 0 →
    Claim.Room c (fun l => (c.b.code + 8 * (c.g.vreg w.lnk.toNat l).toNat) % 2 ^ 48)
      ((c.b.code + 8 * (c.g.vreg (w.lnk.toNat + 1) (lowestLane c.p.mask)).toNat) % 2 ^ 48) →
    Claim.CompletesP (.ret x w) s x c fun g' => ∀ l, l < 32 → inMask c.p.mask l = true →
      Claim.LaneAt g' l ((c.b.code + 8 * (c.g.vreg w.lnk.toNat l).toNat) % 2 ^ 48)) ∧
  (∀ (s : State) (x : Site) (c : Ctx) (w : BF) (r q : W32), Claim.Issues s x c [w.lnk.toNat, w.lnk.toNat + 1] [] → w.h.unguarded = true → w.lnk.toNat % 2 = 0 →
    c.p.point = none → c.b.code ≤ c.p.pc → c.p.pc + 8 < 2 ^ 48 →
    (c.p.pc + 8 - c.b.code) / 8 = r.toNat → (c.b.code + 8 * q.toNat) % 2 ^ 48 = target c.p.pc w.rcv →
    Claim.CompletesV (.call x w) s x c fun g' => (∀ l, l < 32 → inMask c.p.mask l = true →
      Claim.LaneAt g' l (target c.p.pc w.ctgt) ∧ g'.vreg w.lnk.toNat l = r ∧
      g'.vreg (w.lnk.toNat + 1) l = q) ∧
      ∀ v l, l < 32 → (inMask c.p.mask l = false ∨ (v ≠ w.lnk.toNat ∧ v ≠ w.lnk.toNat + 1)) → g'.vreg v l = c.g.vreg v l)

/-- R39, R67, R100: a word of format VV, VI, U, S or Q with a header bit that is reserved and not 0 raises fault 0x01, without any effect, as does one with a
reserved FMT or an unlisted OP; a divergence that needs
more entries of the path table than are free raises fault 0x0A before the branch takes effect. -/
def Obligations.IllegalWordsAndPathOverflowFault : Prop :=
  (∀ (s : State) (x : Site) (c : Ctx), s.ctx? x = some c → (∀ vs us, c.ready s vs us = true) →
     (s.translate c.b.slice c.p.pc).isSome = true →
     (∀ row ∈ Claim.intRows, ∀ w : VForm, (match w with | .vv v => v.h.res | .vi v => v.h.res) ≠ 0 →
       exec (row.make x w) s = .next (s.programFault c.core c.slot { code := 0x01, lanes := c.p.mask })) ∧
     (∀ row ∈ Claim.floatRows, ∀ w : VForm, (match w with | .vv v => v.h.res | .vi v => v.h.res) ≠ 0 →
       exec (row.make x w) s = .next (s.programFault c.core c.slot { code := 0x01, lanes := c.p.mask })) ∧
     (∀ row ∈ Claim.uniformRows, ∀ w : UF, w.h.res ≠ 0 →
       exec (row.make x w) s = .next (s.programFault c.core c.slot { code := 0x01, lanes := c.p.mask })) ∧
     (∀ w : SF, w.h.res ≠ 0 → ∀ i ∈ [Instr.nop x w, .exit x w, .barB x w, .wait x w, .fence x w, .trap x (.word w), .tokTest x w],
       exec i s = .next (s.programFault c.core c.slot { code := 0x01, lanes := c.p.mask })) ∧
     (∀ w : QF, w.h.res ≠ 0 → ∀ i ∈ [Instr.qpush x w, .qpop x w, .qmark x w, .qrewind x w, .qrel x w, .qstat x w],
       exec i s = .next (s.programFault c.core c.slot { code := 0x01, lanes := c.p.mask })) ∧
     ∀ v : W64, decodeLamiz x v = none → exec (.trap x (.illegal v)) s = .next (s.programFault c.core c.slot { code := 0x01, lanes := c.p.mask })) ∧
  ∀ (s : State) (x : Site) (c : Ctx) (w : BF), Claim.Issues s x c [] [] → w.h.ok = true → w.h.pg = true →
    c.guarded w.h ≠ 0 → c.guarded w.h ≠ c.p.mask → c.p.point = none → c.g.freeEnts.length < 2 →
    exec (.bra x w) s = .next (s.programFault c.core c.slot { code := 0x0A, lanes := c.p.mask })

/-- R43, R82, R93, R97, R193: nop, sreg, tok.test, trap, fence and wait. -/
def Obligations.SystemInstructionsComplete : Prop :=
  ∀ (s : State) (x : Site) (c : Ctx) (w : SF), w.res = 0 → c.p.point = none →
    (Claim.Issues s x c [] [] → w.h.ok = true → w.arg = 0 →
      Claim.CompletesP (.nop x w) s x c fun g' =>
        g'.path? c.g.cur = some { c.p with pc := Claim.nextPc c, fence := none } ∧ g'.cur = c.g.cur ∧ g'.turn = c.g.turn + 1) ∧
    (Claim.Issues s x c [] [] → w.h.ok = true → w.arg.toNat < 128 →
      Claim.CompletesQ (.tokTest x w) s x c fun g' =>
        Claim.PredWritten c.g g' (w.arg.toNat / 16) (if w.h.pg then (if w.h.pn then ~~~(c.g.pred w.h.pq.toNat) else c.g.pred w.h.pq.toNat) else allLanes) fun _ => decide (c.g.token (w.arg.toNat % 16) = .complete)) ∧
    (Claim.Issues s x c [] [] → w.h.ok = true → c.guarded w.h = 0 → Claim.CompletesP (.trap x (.word w)) s x c fun _ => True) ∧
    (Claim.Issues s x c [] [] → w.h.ok = true → c.guarded w.h ≠ 0 →
      exec (.trap x (.word w)) s = .next (s.programFault c.core c.slot { code := 0x11, lanes := c.guarded w.h, unit := w.arg.toNat })) ∧
    (Claim.Issues s x c [] [] → w.h.unguarded = true → w.arg.toNat < 4 →
      Claim.CompletesP (.fence x w) s x c fun g' =>
        g'.path? c.g.cur = some { c.p with
          pc := Claim.nextPc c
          fence := some ⟨w.arg.toNat, if 2 ≤ w.arg.toNat then c.c.sb.map (·.id) else [], if w.arg.toNat = 3 then s.unacked else []⟩ }) ∧
    (Claim.Issues s x c [] [] → w.h.unguarded = true → (∀ k, k < 16 → w.arg.getLsbD k = true → c.g.token k = .complete) →
      Claim.CompletesP (.wait x w) s x c fun g' => g'.path? c.g.cur = some { c.p with pc := Claim.nextPc c, fence := none }) ∧
    (Claim.Issues s x c [] [] → w.h.unguarded = true → (∃ k, k < 16 ∧ w.arg.getLsbD k = true ∧ c.g.token k = .pending) →
      Claim.CompletesP (.wait x w) s x c fun g' => g'.path? c.g.cur = some { c.p with wait := .tokens w.arg, fence := none }) ∧
    (∀ k e, Claim.Issues s x c [] [] → w.h.unguarded = true → k < 16 → w.arg.getLsbD k = true → c.g.token k = .failed e →
      (∀ j, j < 16 → w.arg.getLsbD j = true → c.g.token j ≠ .pending) → (∀ j, j < k → w.arg.getLsbD j = true → c.g.token j = .complete) →
      ∃ g', exec (.wait x w) s = .next ((s.putGroup x.core x.slot g').programFault x.core x.slot
          { code := 0x0E, lanes := c.p.mask, addr := e.addr, unit := e.code + 256 * e.campion, row := e.row }) ∧
        { Claim.pathsOf c.g g' with k := c.g.k } = c.g ∧
        ∀ j, g'.token j = if j < 16 ∧ w.arg.getLsbD j = true then .complete else c.g.token j) ∧
    (∀ sel d, Claim.Issues s x c [] [d] → w.h.unguarded = true → w.arg.toNat = d + 256 + 4096 * sel → d < 64 → 1 ≤ sel → sel < 8 →
      Claim.CompletesU (.sreg x w) s x c fun g' =>
        some (g'.ureg d) = (Claim.specialValue s c 0)[sel]? ∧ ∀ r, r ≠ d → g'.ureg r = c.g.ureg r) ∧
    (∀ sel d, w.h.ok = true → w.arg.toNat = d + 4096 * sel → d < 256 → sel < 8 →
      if sel = 1 ∨ sel = 2 ∨ sel = 6 then
        Claim.Issues s x c [d, d + 1] [] → d % 2 = 0 →
        Claim.CompletesV (.sreg x w) s x c fun g' =>
          Claim.LanesWritten c.g g' 12 d (c.guarded w.h) fun l => (((Claim.specialValue s c l)[sel]?).getD 0).toNat
      else
        Claim.Issues s x c [d] [] →
        Claim.CompletesV (.sreg x w) s x c fun g' =>
          Claim.LanesWritten c.g g' 0 d (c.guarded w.h) fun l => (((Claim.specialValue s c l)[sel]?).getD 0).toNat % 2 ^ 32)

/-- R41, R44, R47, R48, R194: exit takes the active lanes out of every path of the group; bar.b, once the group's accesses have returned, makes the path wait until every lane of the
block has arrived or exited, and then no path of the block waits any more. -/
def Obligations.ExitAndBarriers : Prop :=
  ∀ (s : State) (x : Site) (c : Ctx) (w : SF), Claim.Issues s x c [] [] → w.h.unguarded = true → w.res = 0 →
    (w.arg = 0 →
      ∃ t g', exec (.exit x w) s = .next t ∧ { t with cores := s.cores } = s ∧ NMap.find? (t.core x.core).groups x.slot = some g' ∧
        Claim.pathsOf c.g g' = { c.g with exited := c.g.exited ||| c.p.mask } ∧ ∀ e p, g'.path? e = some p → p.mask &&& c.p.mask = 0) ∧
    (c.g.ops = [] → ∀ k g2 l, w.arg.toNat < 16 → k ≠ x.slot → NMap.find? (s.core x.core).groups k = some g2 → g2.block = c.g.block → g2.index ≠ c.g.index →
      g2.index < 32 → c.g.index < 32 → l < 32 → inMask (NMap.get 0 c.b.arrive (32 * w.arg.toNat + g2.index)) l = false → inMask g2.exited l = false →
      ∃ t g' b', exec (.barB x w) s = .next t ∧ { t with cores := s.cores } = s ∧ (∀ n, n ≠ x.core → t.core n = s.core n) ∧
        NMap.find? (t.core x.core).groups x.slot = some g' ∧ Claim.pathsOf c.g g' = c.g ∧
        (∀ j, j ≠ x.slot → NMap.find? (t.core x.core).groups j = NMap.find? (s.core x.core).groups j) ∧
        g'.path? c.g.cur = some { c.p with pc := Claim.nextPc c, wait := .barrier w.arg.toNat, fence := none } ∧
        NMap.find? (t.core x.core).blocks c.g.block = some b' ∧ { b' with arrive := c.b.arrive } = c.b ∧
        ∀ i, NMap.get 0 b'.arrive i =
          if i = 32 * w.arg.toNat + c.g.index then NMap.get 0 c.b.arrive i ||| c.p.mask else NMap.get 0 c.b.arrive i) ∧
    (c.g.ops = [] → w.arg.toNat < 16 → c.g.cur < 32 → ((s.core x.core).groups.map (·.1)).Nodup →
      (∀ k g2, (k, g2) ∈ (s.core x.core).groups → g2.block = c.g.block →
        (if k = x.slot then c.p.mask else 0) ||| NMap.get 0 c.b.arrive (32 * w.arg.toNat + g2.index) ||| g2.exited = allLanes) →
      ∃ t b', exec (.barB x w) s = .next t ∧ { t with cores := s.cores } = s ∧
        NMap.find? (t.core x.core).blocks c.g.block = some b' ∧ (∀ i, 32 * w.arg.toNat ≤ i → i < 32 * w.arg.toNat + 32 → NMap.get 0 b'.arrive i = 0) ∧
        ∀ k g' e p, NMap.find? (t.core x.core).groups k = some g' → g'.block = c.g.block → e < 32 → g'.path? e = some p →
          p.wait ≠ .barrier w.arg.toNat)

/-- R43, R45: at a boundary where the turn is over, the path that has been runnable longest becomes current, the outgoing one is the newest
runnable path, and turn and flag are cleared; nothing else changes. The same choice is made at every switch, and a path that waits keeps its place. -/
def Obligations.PathSwitchTakesOldest : Prop :=
  (∀ g : Group, g.others ≠ [] → ∃ q, (g.switch.cur, q) ∈ g.others ∧ (∀ e r, (e, r) ∈ g.others → q.since < r.since ∨ (q.since = r.since ∧ g.switch.cur ≤ e)) ∧
    ∀ p, g.path? g.cur = some p → g.switch.path? g.cur = some (if p.wait = .run then { p with since := g.clock } else p)) ∧
  ∀ (s : State) (x : Site) (g : Group) (p : Path), NMap.find? (s.core x.core).groups x.slot = some g → g.loop = true → 64 ≤ g.turn → g.others ≠ [] → g.path? g.cur = some p → p.wait = .run → g.cur < 32 →
    ∃ t g' q, exec (.pathSwitch x) s = .next t ∧ Claim.OnlyGroup s t x.core x.slot g' ∧ Claim.pathsOf g g' = g ∧
      (g'.cur, q) ∈ g.others ∧ (∀ e r, (e, r) ∈ g.others → q.since < r.since ∨ (q.since = r.since ∧ g'.cur ≤ e)) ∧
      g'.turn = 0 ∧ g'.loop = false ∧ g'.path? g.cur = some { p with since := g.clock } ∧ g'.clock = g.clock + 1

namespace Sys2Proof.Claim

/-- The slice-virtual or local address of a lane under a format M word (R83). -/
def mAddr (c : Ctx) (w : MF) (l : Nat) : Nat :=
  laneAddr w.space.toNat (c.g.ureg w.base.toNat) (if w.ua then 0 else (c.g.vreg w.addr.toNat l).toNat) (w.ofs.toInt * sizeBytes w.size.toNat)
/-- The address of a lane under a format A word (R83). -/
def aAddr (c : Ctx) (w : AF) (l : Nat) : Nat := laneAddr w.space.toNat (c.g.ureg w.base.toNat) (c.g.vreg w.addr.toNat l).toNat 0

/-- Vector registers that a format M word names. -/
def mRegs (w : MF) : List Nat := dataRegs w.data.toNat (sizeBytes w.size.toNat) ++ (if w.ua then [] else [w.addr.toNat])

/-- The lane's address is in local memory, aligned and in range (R52, R84). -/
def LocalOk (c : Ctx) (n a : Nat) : Prop := a % n = 0 ∧ a < c.b.l * 1024

/-- A lane of a global access lies at a backed physical address of a page (R84, R285). -/
def GlobalAt (c : Ctx) (s : State) (n a pa : Nat) (p : Page) : Prop :=
  a % n = 0 ∧ pa % n = 0 ∧ s.translate c.b.slice a = some (.mem pa p) ∧ (s.place pa).isSome = true

/-- What of the cores a memory instruction leaves alone: the other cores, groups and blocks, and all but the store buffer and the near cache. -/
def RestOfCores (s t : State) (x : Site) (c : Ctx) : Prop :=
  (∀ n, n ≠ x.core → t.core n = s.core n) ∧
  (∀ k, k ≠ x.slot → NMap.find? (t.core x.core).groups k = NMap.find? (s.core x.core).groups k) ∧
  (∀ k, k ≠ c.g.block → NMap.find? (t.core x.core).blocks k = NMap.find? (s.core x.core).blocks k) ∧
  { t.core x.core with groups := (s.core x.core).groups, blocks := (s.core x.core).blocks, sb := (s.core x.core).sb, near := (s.core x.core).near } = s.core x.core

/-- The request that asks for the sector of byte `j` of an access at a place (R85, R240, R250, R288, R438). -/
def AsksFor (s t : State) (x : Site) (op : Nat) (hint j : Nat) : Place → Prop
  | .mem pa _ =>
    if hint = 2 then
      .rdfine ⟨(s.homeNode ((pa + j) / 128)).getD 0, .fine x.core x.slot op, 0, (pa + j) / 128⟩ ((pa + j) / 32 % 4) ∈ t.flight.net ++ t.mesh.held
    else ∃ r ∈ t.flight.llm, ∃ m : BitVec 4, r.agent = .load x.core x.slot op ∧ r.half = x.core / 32 ∧ r.line = (pa + j) / 128 ∧ r.body = .read m ∧
      m.getLsbD ((pa + j) / 32 % 4) = true
  | .scr pa => ∃ r ∈ t.flight.scr, ∃ m : BitVec 4, r.agent = .load x.core x.slot op ∧ r.line = (pa + j) / 128 ∧ r.body = .read m ∧
      m.getLsbD ((pa + j) / 32 % 4) = true
  | .host port a _ => ∃ r ∈ t.hostReads, r.id = op ∧ r.agent = .load x.core x.slot op ∧ r.port = port ∧ r.addr = (a + j) / 32 * 32 ∧ r.len = 32
  | _ => True

/-- A place that a load reads: backed memory, scratch or host memory, aligned. -/
def Readable (n : Nat) : Place → Prop
  | .mem pa _ | .scr pa => pa % n = 0 ∧ pa < 2 ^ 60
  | .host _ a _ => a % n = 0 ∧ a < 2 ^ 60
  | _ => False

/-- The first half of an issued load: the operation stands in its group with the bytes' sectors to wait for, a request asks for each of
them, and neither memory nor any register has changed. -/
def LoadIssued (i : Instr) (s : State) (x : Site) (c : Ctx) (dst : OpDst) (n : Nat) (hint : Nat) (at_ : List (Nat × Place × Nat)) : Prop :=
  ∃ t g' op, exec i s = .next t ∧
    { t with cores := s.cores, flight := s.flight, ids := s.ids, mesh := s.mesh, hostReads := s.hostReads } = s ∧ RestOfCores s t x c ∧
    NMap.find? (t.core x.core).groups x.slot = some g' ∧ { pathsOf c.g g' with ops := c.g.ops } = c.g ∧ g'.ops = c.g.ops ++ [op] ∧
    op.dst = dst ∧ op.lanes = (at_.filterMap fun y => y.2.1.key.map fun k => (y.1, k, y.2.2)) ∧ op.own = [] ∧ op.poison = [] ∧
    (∀ sec, sec ∈ op.wait ↔ ∃ y ∈ op.lanes, ∃ j, j < n ∧ sec = (y.2.1 + j) / 32) ∧
    ∀ y ∈ at_, ∀ j, j < n → AsksFor s t x op.id hint j y.2.1

/-- Nothing that the instruction touches is on its way to the group or in the core's store buffer (R184, R185). -/
def Untouched (c : Ctx) (at_ : List (Nat × Place × Nat)) (n : Nat) : Prop :=
  ∀ y ∈ at_, ∀ k, y.2.1.key = some k → c.c.redHeld (k / 128) = false ∧ ∀ j, j < n → c.g.awaits ((k + j) / 32) = false ∧ c.c.buffered (k + j) = none

/-- The core's loads through the fine path are all back (R289). -/
def NoFine (c : Ctx) : Prop := ∀ sg ∈ c.c.groups, ∀ o ∈ sg.2.ops, o.fine = false

end Sys2Proof.Claim

/-- R83 to R85: ld and ldu from local memory complete at once with the bytes there, zero- or sign-extended. -/
def Obligations.LocalLoads : Prop :=
  (∀ (s : State) (x : Site) (c : Ctx) (w : MF), Claim.Issues s x c (Claim.mRegs w) [w.base.toNat] → w.h.ok = true → MFok w true = true → w.space = 0 →
    w.data.toNat % max 1 (sizeBytes w.size.toNat / 4) = 0 →
    (∀ l, l < 32 → inMask (c.guarded w.h) l = true → Claim.LocalOk c (sizeBytes w.size.toNat) (Claim.mAddr c w l)) →
    Claim.CompletesV (.ld x w) s x c fun g' =>
      (∀ l k, l < 32 → inMask (c.guarded w.h) l = true → k < max 1 (sizeBytes w.size.toNat / 4) →
        (g'.vreg (w.data.toNat + k) l).toNat =
          (if w.size = 5 then ((c.b.loc.read (Claim.mAddr c w l)).signExtend 32).toNat
           else if w.size = 6 then ((c.b.loc.read (Claim.mAddr c w l + 1) ++ c.b.loc.read (Claim.mAddr c w l)).signExtend 32).toNat
           else c.b.loc.readLE (Claim.mAddr c w l) (sizeBytes w.size.toNat)) / 2 ^ (32 * k) % 2 ^ 32) ∧
      ∀ r l, l < 32 → (inMask (c.guarded w.h) l = false ∨ r ∉ dataRegs w.data.toNat (sizeBytes w.size.toNat)) → g'.vreg r l = c.g.vreg r l) ∧
  ∀ (s : State) (x : Site) (c : Ctx) (w : MF), Claim.Issues s x c [] [w.data.toNat, w.base.toNat] → w.h.unguarded = true → MFok w true = true → w.space = 0 →
    w.ua = true → (w.size = 2 ∨ w.size = 3) → w.data.toNat < 64 → Claim.LocalOk c (sizeBytes w.size.toNat) (Claim.mAddr c w 0) →
    Claim.CompletesU (.ldu x w) s x c fun g' =>
      (g'.ureg w.data.toNat).toNat = c.b.loc.readLE (Claim.mAddr c w 0) (sizeBytes w.size.toNat) ∧ ∀ r, r ≠ w.data.toNat → g'.ureg r = c.g.ureg r

/-- R85 to R87, R185, R240, R250, R289: ld, ld.ro and ldu from global memory, scratch and host memory issue one operation, with a read
request for every sector. -/
def Obligations.LoadsIssueRequests : Prop :=
  (∀ (s : State) (x : Site) (c : Ctx) (w : MF) (at_ : List (Nat × Place × Nat)), Claim.Issues s x c (Claim.mRegs w) [w.base.toNat] → w.h.ok = true →
    MFok w true = true → w.space ≠ 0 → w.data.toNat % max 1 (sizeBytes w.size.toNat / 4) = 0 → c.guarded w.h ≠ 0 → Claim.NoFine c →
    at_ = ((lanes.filter (inMask (c.guarded w.h))).map fun l => (l, c.locate s w.space.toNat (sizeBytes w.size.toNat) (Claim.mAddr c w l) false, Claim.mAddr c w l)) →
    (∀ y ∈ at_, Claim.Readable (sizeBytes w.size.toNat) y.2.1) → Claim.Untouched c at_ (sizeBytes w.size.toNat) →
    Claim.LoadIssued (.ld x w) s x c (.vec w.data.toNat (sizeBytes w.size.toNat) (decide (5 ≤ w.size.toNat))) (sizeBytes w.size.toNat) w.hint.toNat at_ ∧
    (w.sem = 0 → w.space = 1 → c.c.near = [] → c.c.nearOpen = [] →
      Claim.LoadIssued (.ldRo x w) s x c (.vec w.data.toNat (sizeBytes w.size.toNat) (decide (5 ≤ w.size.toNat))) (sizeBytes w.size.toNat)
        w.hint.toNat at_)) ∧
  ∀ (s : State) (x : Site) (c : Ctx) (w : MF) (p : Place), Claim.Issues s x c [] [w.data.toNat, w.base.toNat] → w.h.unguarded = true → MFok w true = true →
    w.space ≠ 0 → w.ua = true → (w.size = 2 ∨ w.size = 3) → w.data.toNat < 64 → Claim.NoFine c →
    p = c.locate s w.space.toNat (sizeBytes w.size.toNat) (Claim.mAddr c w 0) false → Claim.Readable (sizeBytes w.size.toNat) p →
    Claim.Untouched c [(lowestLane c.p.mask, p, Claim.mAddr c w 0)] (sizeBytes w.size.toNat) →
    Claim.LoadIssued (.ldu x w) s x c (.uni w.data.toNat (sizeBytes w.size.toNat)) (sizeBytes w.size.toNat) w.hint.toNat
      [(lowestLane c.p.mask, p, Claim.mAddr c w 0)]

/-- R99, R185: the return of an operation whose sectors have all arrived unpoisoned and unrefused writes its registers and ends it. -/
def Obligations.LoadReturnWritesRegisters : Prop :=
  ∀ (s : State) (x : Site) (g : Group) (o : LoadOp) (d n : Nat) (sx : Bool), NMap.find? (s.core x.core).groups x.slot = some g →
    g.ops.find? (fun q => q.id == o.id) = some o → o.wait = [] → o.poison = [] → o.refused = [] → (o.lanes.map (·.1)).Nodup → (∀ y ∈ o.lanes, y.1 < 32) →
    ∃ t g', exec (.loadReturn x o.id) s = .next t ∧ Claim.OnlyGroup s t x.core x.slot g' ∧ g'.ops = g.ops.filter (fun q => !(q.id == o.id)) ∧
      { Claim.pathsOf g g' with ops := g.ops, v := g.v, u := g.u } = g ∧
      (o.dst = .vec d n sx → ((∀ y ∈ o.lanes, ∀ k, k < max 1 (n / 4) → (g'.vreg (d + k) y.1).toNat = bits (extend n sx (o.got.readLE y.2.1 n)) (32 * k) 32) ∧
        ∀ r l, l < 32 → ((∀ y ∈ o.lanes, y.1 ≠ l) ∨ r < d ∨ d + max 1 (n / 4) ≤ r) → g'.vreg r l = g.vreg r l) ∧ g'.u = g.u) ∧
      (∀ l k v, o.dst = .uni d n → o.lanes = [(l, k, v)] →
        (g'.ureg d).toNat = o.got.readLE k n % 2 ^ 64 ∧ (∀ r, r ≠ d → g'.ureg r = g.ureg r) ∧ g'.v = g.v) ∧
      (o.dst = .old d n → ((∀ y ∈ o.lanes, ∀ k, k < max 1 (n / 4) → (g'.vreg (d + k) y.1).toNat = bits (NMap.get 0 o.rets y.1) (32 * k) 32) ∧
        ∀ r l, l < 32 → ((∀ y ∈ o.lanes, y.1 ≠ l) ∨ r < d ∨ d + max 1 (n / 4) ≤ r) → g'.vreg r l = g.vreg r l) ∧ g'.u = g.u) ∧
      (o.dst = .none → g'.v = g.v ∧ g'.u = g.u)

/-- R85, R186, R189: a store to local memory, a release once the path's loads have returned, writes each guarded lane's bytes at its address, the highest lane last; all other bytes are as before. -/
def Obligations.LocalStores : Prop :=
  (∀ (s : State) (x : Site) (c : Ctx) (w : MF), Claim.Issues s x c (Claim.mRegs w) [w.base.toNat] → w.h.ok = true → MFok w false = true → w.space = 0 → (w.sem = 0 ∨ c.g.ops = []) →
    w.data.toNat % max 1 (sizeBytes w.size.toNat / 4) = 0 →
    (∀ l, l < 32 → inMask (c.guarded w.h) l = true → Claim.LocalOk c (sizeBytes w.size.toNat) (Claim.mAddr c w l)) →
    ∃ t b', exec (.st x w) s = .next t ∧ { t with cores := s.cores } = s ∧ Claim.RestOfCores s t x c ∧ NMap.find? (t.core x.core).blocks c.g.block = some b' ∧
      { b' with loc := c.b.loc } = c.b ∧
      (∀ l, l < 32 → inMask (c.guarded w.h) l = true →
        (∀ m, l < m → m < 32 → inMask (c.guarded w.h) m = true → Claim.mAddr c w m ≠ Claim.mAddr c w l) →
        b'.loc.readLE (Claim.mAddr c w l) (sizeBytes w.size.toNat) = c.g.getData w.data.toNat (sizeBytes w.size.toNat) l) ∧
      ∀ a, (∀ l, l < 32 → inMask (c.guarded w.h) l = true → a < Claim.mAddr c w l ∨ Claim.mAddr c w l + sizeBytes w.size.toNat ≤ a) →
        b'.loc.read a = c.b.loc.read a) ∧
  (∀ (s : State) (x : Site) (c : Ctx) (w : MF), Claim.Issues s x c [] [w.data.toNat, w.base.toNat] → w.h.unguarded = true → MFok w false = true → w.space = 0 → (w.sem = 0 ∨ c.g.ops = []) →
    w.ua = true → (w.size = 2 ∨ w.size = 3) → w.data.toNat < 64 → Claim.LocalOk c (sizeBytes w.size.toNat) (Claim.mAddr c w 0) →
    ∃ t b', exec (.stu x w) s = .next t ∧ { t with cores := s.cores } = s ∧ Claim.RestOfCores s t x c ∧ NMap.find? (t.core x.core).blocks c.g.block = some b' ∧
      { b' with loc := c.b.loc } = c.b ∧
      b'.loc.readLE (Claim.mAddr c w 0) (sizeBytes w.size.toNat) = (c.g.ureg w.data.toNat).toNat % 2 ^ (8 * sizeBytes w.size.toNat) ∧
      ∀ a, (a < Claim.mAddr c w 0 ∨ Claim.mAddr c w 0 + sizeBytes w.size.toNat ≤ a) → b'.loc.read a = c.b.loc.read a) ∧
  ∀ (s : State) (x : Site) (c : Ctx) (w : XF), Claim.Issues s x c [] [w.ur.toNat] → w.h.unguarded = true → w.xu = true → w.x2 = false → w.dep = 0 → w.k = 0 → w.d2 = 0 →
    ((c.g.ureg w.ur.toNat).toNat + 32 * w.sub.toNat) % 2 ^ 32 % 32 = 0 → ((c.g.ureg w.ur.toNat).toNat + 32 * w.sub.toNat) % 2 ^ 32 + 32 ≤ c.b.l * 1024 →
    (∃ t b', exec (.dstD x w) s = .next t ∧ { t with cores := s.cores } = s ∧ Claim.RestOfCores s t x c ∧ NMap.find? (t.core x.core).blocks c.g.block = some b' ∧
      { b' with loc := c.b.loc } = c.b ∧
      b'.loc.readLE (((c.g.ureg w.ur.toNat).toNat + 32 * w.sub.toNat) % 2 ^ 32) 32 = (c.g.desc w.d.toNat).toNat ∧
      ∀ a, (a < ((c.g.ureg w.ur.toNat).toNat + 32 * w.sub.toNat) % 2 ^ 32 ∨ ((c.g.ureg w.ur.toNat).toNat + 32 * w.sub.toNat) % 2 ^ 32 + 32 ≤ a) →
        b'.loc.read a = c.b.loc.read a) ∧
    Claim.CompletesD (.dld x w) s x c fun g' =>
      (g'.desc w.d.toNat).toNat = c.b.loc.readLE (((c.g.ureg w.ur.toNat).toNat + 32 * w.sub.toNat) % 2 ^ 32) 32 ∧
      ∀ k, k ≠ w.d.toNat → g'.desc k = c.g.desc k

/-- R185, R242: a store to global memory enters the core's store buffer, one entry for each sector, and memory itself is unchanged. -/
def Obligations.GlobalStoresEnterBuffer : Prop :=
  (∀ (s : State) (x : Site) (c : Ctx) (w : MF) (pa : Nat → Nat) (p : Nat → Page), Claim.Issues s x c (Claim.mRegs w) [w.base.toNat] → w.h.ok = true → MFok w false = true →
    w.space = 1 → w.sem = 0 → w.data.toNat % max 1 (sizeBytes w.size.toNat / 4) = 0 → c.c.sb.length ≤ 32 →
    (∀ l, l < 32 → inMask (c.guarded w.h) l = true → (p l).ro = false ∧ Claim.GlobalAt c s (sizeBytes w.size.toNat) (Claim.mAddr c w l) (pa l) (p l)) →
    (∀ l, l < 32 → inMask (c.guarded w.h) l = true → c.g.awaits (pa l / 32) = false) →
    ∃ t new, exec (.st x w) s = .next t ∧ { t with cores := s.cores, flight := s.flight, ids := s.ids } = s ∧ Claim.RestOfCores s t x c ∧
      (t.core x.core).sb = c.c.sb ++ new ∧
      (∀ l j, l < 32 → j < sizeBytes w.size.toNat → inMask (c.guarded w.h) l = true →
        ∃ e ∈ new, e.sector = (pa l + j) / 32 ∧ e.slice = c.b.slice ∧
          ((pa l + j) % 32, BitVec.ofNat 8 (c.g.getData w.data.toNat (sizeBytes w.size.toNat) l / 2 ^ (8 * j))) ∈ e.bytes) ∧
      ∀ e ∈ new, ∃ r ∈ t.flight.llm, r.agent = .store x.core e.id ∧ r.line = e.sector / 4 ∧
        r.body = .write (e.bytes.map fun b => (32 * (e.sector % 4) + b.1, b.2))) ∧
  ∀ (s : State) (x : Site) (c : Ctx) (w : MF) (pa : Nat) (p : Page), Claim.Issues s x c [] [w.data.toNat, w.base.toNat] → w.h.unguarded = true → MFok w false = true →
    w.space = 1 → w.sem = 0 → w.ua = true → (w.size = 2 ∨ w.size = 3) → w.data.toNat < 64 → c.c.sb.length < 64 → p.ro = false →
    Claim.GlobalAt c s (sizeBytes w.size.toNat) (Claim.mAddr c w 0) pa p → c.g.awaits (pa / 32) = false →
    ∃ t e r, exec (.stu x w) s = .next t ∧ { t with cores := s.cores, flight := s.flight, ids := s.ids } = s ∧ Claim.RestOfCores s t x c ∧
      (t.core x.core).sb = c.c.sb ++ [e] ∧ e.sector = pa / 32 ∧ t.flight = { s.flight with llm := s.flight.llm ++ [r] } ∧
      e.bytes = (List.range (sizeBytes w.size.toNat)).map fun j => ((pa + j) % 32, BitVec.ofNat 8 ((c.g.ureg w.data.toNat).toNat / 2 ^ (8 * j)))

/-- R88, R200 to R203: an atomic on local memory applies its lanes in ascending order and returns the old values. -/
def Obligations.LocalAtomics : Prop :=
  ∀ (s : State) (x : Site) (c : Ctx) (w : AF) (l : Nat), w.h.ok = true → atomValid w.aop.toNat w.aty.toNat = true → w.space = 0 → (w.sem.toNat < 2 ∨ c.g.ops = []) →
    Claim.Issues s x c ((if w.ret then dataRegs w.dst.toNat (atyBytes w.aty.toNat) else []) ++ dataRegs w.src.toNat (atyBytes w.aty.toNat) ++
      (if w.aop = 7 then dataRegs (w.src.toNat + max 1 (atyBytes w.aty.toNat / 4)) (atyBytes w.aty.toNat) else []) ++ [w.addr.toNat]) [w.base.toNat] →
    (w.ret = true ∨ w.dst = 0) → (w.ret = true → w.dst.toNat % max 1 (atyBytes w.aty.toNat / 4) = 0) →
    w.src.toNat % (if w.aop = 7 then 2 * max 1 (atyBytes w.aty.toNat / 4) else max 1 (atyBytes w.aty.toNat / 4)) = 0 →
    l < 32 → (∀ m, m < 32 → (inMask (c.guarded w.h) m = true ↔ m = l)) → Claim.LocalOk c (atyBytes w.aty.toNat) (Claim.aAddr c w l) →
    ∃ t b' g', exec (.atom x w) s = .next t ∧ { t with cores := s.cores } = s ∧ Claim.RestOfCores s t x c ∧
      NMap.find? (t.core x.core).blocks c.g.block = some b' ∧ { b' with loc := c.b.loc } = c.b ∧
      NMap.find? (t.core x.core).groups x.slot = some g' ∧ { Claim.pathsOf c.g g' with v := c.g.v } = c.g ∧
      (let old := c.b.loc.readLE (Claim.aAddr c w l) (atyBytes w.aty.toNat)
       let r := c.g.getData w.src.toNat (atyBytes w.aty.toNat) l
       let y := c.g.getData (w.src.toNat + max 1 (atyBytes w.aty.toNat / 4)) (atyBytes w.aty.toNat) l
       (w.aop = 3 → b'.loc.readLE (Claim.aAddr c w l) (atyBytes w.aty.toNat) = old &&& r) ∧
       (w.aop = 4 → b'.loc.readLE (Claim.aAddr c w l) (atyBytes w.aty.toNat) = old ||| r) ∧
       (w.aop = 5 → b'.loc.readLE (Claim.aAddr c w l) (atyBytes w.aty.toNat) = old ^^^ r) ∧
       (w.aop = 6 → b'.loc.readLE (Claim.aAddr c w l) (atyBytes w.aty.toNat) = r) ∧
       (w.aop = 7 → b'.loc.readLE (Claim.aAddr c w l) (atyBytes w.aty.toNat) = if old = r then y else old) ∧
       (w.aop = 0 → (w.aty = 0 ∨ w.aty = 1 ∨ w.aty = 3 ∨ w.aty = 4) →
         b'.loc.readLE (Claim.aAddr c w l) (atyBytes w.aty.toNat) = (old + r) % 2 ^ (8 * atyBytes w.aty.toNat)) ∧
       (w.aop = 1 → w.aty ≠ 2 → w.aty.toNat < 5 → asInt (w.aty = 1 ∨ w.aty = 4) (8 * atyBytes w.aty.toNat) (b'.loc.readLE (Claim.aAddr c w l) (atyBytes w.aty.toNat)) =
         min (asInt (w.aty = 1 ∨ w.aty = 4) (8 * atyBytes w.aty.toNat) old) (asInt (w.aty = 1 ∨ w.aty = 4) (8 * atyBytes w.aty.toNat) r)) ∧
       (w.aop = 2 → w.aty ≠ 2 → w.aty.toNat < 5 → asInt (w.aty = 1 ∨ w.aty = 4) (8 * atyBytes w.aty.toNat) (b'.loc.readLE (Claim.aAddr c w l) (atyBytes w.aty.toNat)) =
         max (asInt (w.aty = 1 ∨ w.aty = 4) (8 * atyBytes w.aty.toNat) old) (asInt (w.aty = 1 ∨ w.aty = 4) (8 * atyBytes w.aty.toNat) r)) ∧
       (w.ret = true → g'.getData w.dst.toNat (atyBytes w.aty.toNat) l = old)) ∧
      ∀ a, (a < Claim.aAddr c w l ∨ Claim.aAddr c w l + atyBytes w.aty.toNat ≤ a) → b'.loc.read a = c.b.loc.read a

namespace Sys2Proof.Claim

/-- The command completes with a next state. -/
def RunsOn (i : Instr) (s : State) : Prop := ∃ t, exec i s = .next t

/-- A reduction completes: one contribution for each line of its lanes goes to the line's reduction point, with the lanes' values there in
ascending lane order, and an entry of the store buffer stands for each; nothing else changes. -/
def Contributes (i : Instr) (s : State) (x : Site) (c : Ctx) (w : AF) (pa : Nat → Nat) (key : Option (BitVec 32)) : Prop :=
  ∃ t new sent, exec i s = .next t ∧ { t with cores := s.cores, flight := s.flight, ids := s.ids, slices := s.slices } = s ∧ RestOfCores s t x c ∧
    (t.core x.core).sb = c.c.sb ++ new ∧ t.flight = { s.flight with contrib := s.flight.contrib ++ sent } ∧
    (sent.map fun r => r.2.line).Nodup ∧ sent.length = new.length ∧
    (∀ l, l < 32 → inMask (c.guarded w.h) l = true → ∃ r ∈ sent, r.2.line = pa l / 128) ∧
    ∀ r ∈ sent, r.1 = s.reductionPoint r.2.line ∧ ∃ e ∈ new, e.red = true ∧ e.sector = 4 * r.2.line ∧ r.2.src = .store x.core e.id ∧
      r.2.slice = c.b.slice ∧ r.2.aty = w.aty.toNat ∧ r.2.key = key ∧ r.2.no = c.b.taskNo.toNat ∧
      r.2.lanes = (lanes.filter fun l => inMask (c.guarded w.h) l && pa l / 128 == r.2.line).map fun l =>
        (pa l % 128, c.g.getData w.src.toNat (atyBytes w.aty.toNat) l)

end Sys2Proof.Claim

/-- R89, R204 to R206, R262: a reduction sends one contribution for each line that its lanes name to the line's reduction point, with its
sequence key where it is ordered. That an entry of the store buffer stands for it until it is accepted is the model's choice (log 17). -/
def Obligations.ReductionsSendContributions : Prop :=
  ∀ (s : State) (x : Site) (c : Ctx) (w : AF) (pa : Nat → Nat), w.h.ok = true → w.aop = 0 → (w.aty = 1 ∨ w.aty = 2 ∨ w.aty = 5 ∨ w.aty = 6) →
    (w.space = 1 ∨ w.space = 2) → (w.sem = 0 ∨ w.sem = 2) → c.released s w.sem.toNat w.scope.toNat = true → w.ret = false → c.c.sb.length ≤ 32 →
    (∀ l, l < 32 → inMask (c.guarded w.h) l = true → (∃ p, c.locate s w.space.toNat (atyBytes w.aty.toNat) (Claim.aAddr c w l) true = .mem (pa l) p) ∨
      c.locate s w.space.toNat (atyBytes w.aty.toNat) (Claim.aAddr c w l) true = .scr (pa l)) →
    (w.dst = 0 → Claim.Issues s x c [w.src.toNat, w.addr.toNat] [w.base.toNat] →
      Claim.Contributes (.redLine x w) s x c w pa none ∧ Claim.RunsOn (.redLine x w) s) ∧
    (w.dst.toNat < 64 → Claim.Issues s x c [w.src.toNat, w.addr.toNat] [w.base.toNat, w.dst.toNat] →
      Claim.Contributes (.redLineOrd x w) s x c w pa (some (BitVec.ofNat 32 (c.g.ureg w.dst.toNat).toNat)) ∧ Claim.RunsOn (.redLineOrd x w) s)

/-- R44, R88, R200 to R203: an atomic on global memory issues one request for its address; with RET the path waits for the old value. -/
def Obligations.GlobalAtomicsIssue : Prop :=
  ∀ (s : State) (x : Site) (c : Ctx) (w : AF) (pa : Nat) (p : Page) (l : Nat), w.h.ok = true → atomValid w.aop.toNat w.aty.toNat = true → w.space = 1 → w.sem = 0 →
    Claim.Issues s x c ((if w.ret then dataRegs w.dst.toNat (atyBytes w.aty.toNat) else []) ++ dataRegs w.src.toNat (atyBytes w.aty.toNat) ++
      (if w.aop = 7 then dataRegs (w.src.toNat + max 1 (atyBytes w.aty.toNat / 4)) (atyBytes w.aty.toNat) else []) ++ [w.addr.toNat]) [w.base.toNat] →
    (w.ret = true ∨ w.dst = 0) → (w.ret = true → w.dst.toNat % max 1 (atyBytes w.aty.toNat / 4) = 0) →
    w.src.toNat % (if w.aop = 7 then 2 * max 1 (atyBytes w.aty.toNat / 4) else max 1 (atyBytes w.aty.toNat / 4)) = 0 →
    l < 32 → (∀ m, m < 32 → (inMask (c.guarded w.h) m = true ↔ m = l)) → p.ro = false →
    Claim.GlobalAt c s (atyBytes w.aty.toNat) (Claim.aAddr c w l) pa p → c.g.awaits (pa / 32) = false → c.c.redHeld (pa / 128) = false → (∀ q ∈ c.c.sb, q.sector ≠ pa / 32) →
    ∃ t g' op r, exec (.atom x w) s = .next t ∧
      { t with cores := s.cores, flight := s.flight, ids := s.ids, slices := s.slices } = s ∧ Claim.RestOfCores s t x c ∧
      NMap.find? (t.core x.core).groups x.slot = some g' ∧ { Claim.pathsOf c.g g' with ops := c.g.ops } = c.g ∧ g'.ops = c.g.ops ++ [op] ∧
      op.dst = (if w.ret then .old w.dst.toNat (atyBytes w.aty.toNat) else .none) ∧ op.wait = [pa] ∧ op.lanes = [(l, pa, Claim.aAddr c w l)] ∧
      t.flight = { s.flight with llm := s.flight.llm ++ [r] } ∧ r.half = x.core / 32 ∧ r.agent = .load x.core x.slot op.id ∧ r.line = pa / 128 ∧
      (∃ y, r.body = .atom ⟨w.aop.toNat, w.aty.toNat, pa, [(l, c.g.getData w.src.toNat (atyBytes w.aty.toNat) l, y)]⟩ ∧
        (w.aop = 7 → y = c.g.getData (w.src.toNat + max 1 (atyBytes w.aty.toNat / 4)) (atyBytes w.aty.toNat) l)) ∧
      (w.ret = true → g'.path? c.g.cur = some { c.p with pc := Claim.nextPc c, fence := none, wait := .atomic op.id })

namespace Sys2Proof.Claim

/-- An asynchronous word is ready for its unit: its unused fields are 0, its dependencies are complete, its token is free (R90). -/
def AsyncOk (c : Ctx) (w : XF) : Prop :=
  XFok w = true ∧ (∀ k, k < 16 → w.dep.getLsbD k = true → c.g.token k = .complete) ∧ c.g.token w.k.toNat ≠ .pending

/-- Copied operands of an asynchronous word (R90). -/
def copyD (c : Ctx) (w : XF) : W256 := c.g.desc w.d.toNat
def copyD2 (c : Ctx) (w : XF) : W256 := if w.x2 then c.g.desc w.d2.toNat else 0
def copyU (c : Ctx) (w : XF) (d : W64) : W64 := if w.xu then c.g.ureg w.ur.toNat else d

/-- An asynchronous instruction completes its issue: its token is pending, the block's count rises, and `P` says what the core holds. -/
def AsyncIssued (i : Instr) (s : State) (x : Site) (c : Ctx) (w : XF) (P : Core → Prop) : Prop :=
  ∃ t g' b', exec i s = .next t ∧ { t with cores := s.cores } = s ∧ (∀ n, n ≠ x.core → t.core n = s.core n) ∧
    NMap.find? (t.core x.core).groups x.slot = some g' ∧ { pathsOf c.g g' with k := c.g.k } = c.g ∧
    g'.token w.k.toNat = .pending ∧ (∀ j, j ≠ w.k.toNat → g'.token j = c.g.token j) ∧
    NMap.find? (t.core x.core).blocks c.g.block = some b' ∧ b' = { c.b with async := c.b.async + 1 } ∧ P (t.core x.core)

/-- The end of an asynchronous operation of group `g` of block `b`: its token changes, the block's count falls, a path that waited for
this token alone goes on behind its wait, and but for the cores nothing changes. -/
def TokenEnds (s t : State) (core slot k : Nat) (g : Group) (b : Block) (tok : Token) (loc acc : Mem) : Prop :=
  { t with cores := s.cores } = s ∧ (∀ n, n ≠ core → t.core n = s.core n) ∧
  (∃ g', NMap.find? (t.core core).groups slot = some g' ∧ { pathsOf g g' with k := g.k } = g ∧ g'.token k = tok ∧
    (∀ j, j ≠ k → g'.token j = g.token j) ∧
    ∀ e p m, e < 32 → g.path? e = some p → p.wait = .tokens m → p.point = none → (∀ j, j < 16 → m.getLsbD j = true → j = k ∨ g.token j = .complete) →
      tok = .complete → ∃ p', g'.path? e = some p' ∧ p'.wait = .run ∧ p'.pc = (p.pc + 8) % 2 ^ 48 ∧ p'.mask = p.mask) ∧
  NMap.find? (t.core core).blocks g.block = some { b with async := b.async - 1, loc := loc, acc := acc }

/-- No token of a group is failed, and a group that no path waits on tokens in. -/
def NoFailed (g : Group) : Prop := ∀ j e, g.token j ≠ .failed e
def NoTokenWaits (g : Group) : Prop := ∀ e p m, e < 32 → g.path? e = some p → p.wait ≠ .tokens m

/-- No started operation of the mover waits to be processed: each awaits an answer, is processed, is stopped, or is a hint or a queue
transfer. -/
def MoverSettled (s : State) (core m : Nat) : Prop :=
  ∀ r ∈ ((s.core core).mover m).run, r.ready = true ∨ r.waits ≠ [] ∨ r.err.isSome = true ∨ dfld r.op.d 0 4 ≠ 4

end Sys2Proof.Claim

/-- R90 to R92, R147, R148, R217: mxa, mxw and tmov queue an operation with the operands copied at issue and set their token pending; dset
and dmov change one descriptor register. -/
def Obligations.AsyncInstructionsIssue : Prop :=
  (∀ (s : State) (x : Site) (c : Ctx) (w : XF), Claim.Issues s x c [] (if w.xu then [w.ur.toNat] else []) → Claim.AsyncOk c w →
    (w.sub = 0 → c.c.mxq.length < 8 → mxaFault c (Claim.copyD c w) (Claim.copyD2 c w) w.x2 (Claim.copyU c w 0) = none →
      Claim.AsyncIssued (.mxa x w) s x c w fun k => k.mxq = c.c.mxq ++
        [⟨c.g.block, x.slot, w.k.toNat, Claim.copyD c w, Claim.copyD2 c w, Claim.copyU c w 0, true, c.codeOfs, c.g.index⟩]) ∧
    (w.sub = 0 → w.x2 = false → c.c.mxq.length < 8 → mxwFault c (Claim.copyD c w) w.xu (Claim.copyU c w 0x3F800000) = none →
      Claim.AsyncIssued (.mxw x w) s x c w fun k => k.mxq = c.c.mxq ++
        [⟨c.g.block, x.slot, w.k.toNat, Claim.copyD c w, 0, Claim.copyU c w 0x3F800000, false, c.codeOfs, c.g.index⟩]) ∧
    (∀ m, w.sub.toNat < 3 → c.c.pickMover w.sub.toNat = some m →
      tmovFault c (Claim.copyD c w) (Claim.copyD2 c w) w.x2 w.xu (Claim.copyU c w 0) = none →
      Claim.AsyncIssued (.tmov x w) s x c w fun k => (k.mover m).queue = (c.c.mover m).queue ++
        [⟨c.g.block, x.slot, w.k.toNat, Claim.copyD c w, Claim.copyD2 c w, Claim.copyU c w 0, c.codeOfs, c.b.index, c.g.index, c.p.pc, 0,
          c.c.sb.map (·.id), c.g.ops.map (·.id)⟩])) ∧
  (∀ (s : State) (x : Site) (c : Ctx) (w : XF) (p n : Nat), Claim.Issues s x c [] [w.ur.toNat] → w.h.unguarded = true → w.xu = true → w.x2 = false → w.k = 0 → w.d2 = 0 →
    w.sub = 0 → w.dep.toNat = p + 256 * n → p < 256 → 1 ≤ n → n ≤ 64 → p + n ≤ 256 →
    Claim.CompletesD (.dset x w) s x c fun g' =>
      (∀ i, i < 256 → (g'.desc w.d.toNat).getLsbD i =
        if p ≤ i ∧ i < p + n then (c.g.ureg w.ur.toNat).getLsbD (i - p) else (c.g.desc w.d.toNat).getLsbD i) ∧
      ∀ k, k ≠ w.d.toNat → g'.desc k = c.g.desc k) ∧
  ∀ (s : State) (x : Site) (c : Ctx) (w : XF), Claim.Issues s x c [] [] → w.h.unguarded = true → w.x2 = true → w.xu = false → w.dep = 0 → w.k = 0 → w.ur = 0 → w.sub = 0 →
    Claim.CompletesD (.dmov x w) s x c fun g' => g'.desc w.d.toNat = c.g.desc w.d2.toNat ∧ ∀ k, k ≠ w.d.toNat → g'.desc k = c.g.desc k

/-- R126, R131, R140, R148, R149, R151, R152: while none of its kind runs, the first queued operation of a kind that meets no conflict starts with its operands read; on completion its
accumulator and local bytes are written and its token is complete. An INT8 or INT4 mxa of dense operands in rows of K adds the exact dot
product to every element, modulo 2^32. -/
def Obligations.MatrixOperationsRun : Prop :=
  (∀ (s : State) (core : Nat) (before after : List MxOp) (o : MxOp) (b : Block), (s.core core).mxq = before ++ o :: after →
    (∀ q ∈ before, q.mxa ≠ o.mxa) → (∀ q ∈ before, o.conflicts q = false) →
    (∀ r ∈ (s.core core).mxaRun ++ (s.core core).mxwRun, o.conflicts r.op = false) → NMap.find? (s.core core).blocks o.block = some b →
    (o.mxa = true → (s.core core).mxaRun = [] → ∃ t, exec (.mxaStart core) s = .next t ∧ { t with cores := s.cores } = s ∧ (∀ n, n ≠ core → t.core n = s.core n) ∧
      t.core core = { s.core core with mxq := before ++ after, mxaRun := [⟨o, mxaWrites b o, []⟩] }) ∧
    (o.mxa = false → (s.core core).mxwRun = [] → ∃ t, exec (.mxwStart core) s = .next t ∧ { t with cores := s.cores } = s ∧ (∀ n, n ≠ core → t.core n = s.core n) ∧
      t.core core = { s.core core with mxq := before ++ after, mxwRun := [⟨o, mxwClears o, mxwWrites b o⟩] })) ∧
  (∀ (s : State) (core n : Nat) (r : MxRun) (g : Group) (b : Block), NMap.find? (s.core core).groups r.op.slot = some g → g.block = r.op.block →
     NMap.find? (s.core core).blocks r.op.block = some b → Claim.NoFailed g →
     ((s.core core).mxaRun[n]? = some r → ∃ t, exec (.mxaComplete core n) s = .next t ∧
       Claim.TokenEnds s t core r.op.slot r.op.k g b .complete (writePieces b.loc r.loc) (writePieces b.acc r.acc) ∧
       (t.core core).mxaRun = (s.core core).mxaRun.eraseIdx n) ∧
     ((s.core core).mxwRun[n]? = some r → ∃ t, exec (.mxwComplete core n) s = .next t ∧
       Claim.TokenEnds s t core r.op.slot r.op.k g b .complete (writePieces b.loc r.loc) (writePieces b.acc r.acc) ∧
       (t.core core).mxwRun = (s.core core).mxwRun.eraseIdx n)) ∧
  ∀ (b : Block) (a : MxaD) (p : PlaneD) (kofs r c : Nat), codeInt a.fa = true → codeInt a.fb = true → a.fa ≠ 0xF → a.fb ≠ 0xF → a.spa = 0 → a.bt = false →
    ((mxaElem b a p kofs r c (fun _ => true) : Int) -
      ((if a.zc then 0 else sext 32 (b.acc.readLE (a.caddr + a.cstr * r + 4 * c) 4)) +
        ((List.range a.k).map fun k =>
          sext (codeWidth a.fa) (planeBits b.loc (a.aaddr + a.astr * r) (32 * kofs + k) (codeWidth a.fa)) *
          sext (codeWidth a.fb) (planeBits b.loc (a.baddr + a.bstr * c) (32 * kofs + k) (codeWidth a.fb))).sum)) % (2 ^ 32 : Nat) = 0 ∧
    mxaElem b a p kofs r c (fun _ => true) < 2 ^ 32

/-- R194, R217, R221, R224, R236: a copy between local rows of one format starts, once the stores and loads that happen before it are
performed, with its rows read and completes with them written. -/
def Obligations.MoverCopiesLocalRows : Prop :=
  (∀ (s : State) (core m : Nat) (o : MvOp) (q : List MvOp) (b : Block) (x : Xfer), m < 2 → ((s.core core).mover m).queue = o :: q →
    (∀ r ∈ ((s.core core).mover m).run, r.issued = true) → s.mvMayStart core o = true → NMap.find? (s.core core).blocks o.block = some b → dfld o.d 0 4 = 4 → x = xferOf o.d o.d2 o.u →
    x.op = 0 → x.src.sp = 0 → x.dst.sp = 0 → x.src.fc = x.dst.fc → codeBlock x.src.fc = false → 0 < x.srcBytes →
    (∀ i, i < x.rows → x.src.base + i * x.src.stride + x.srcBytes ≤ b.l * 1024 ∧ x.dst.base + i * x.dst.stride + x.srcBytes ≤ b.l * 1024) →
    ∃ t r, exec (.moverOperationStart core m) s = .next t ∧ { t with cores := s.cores } = s ∧ (∀ n, n ≠ core → t.core n = s.core n) ∧
      (t.core core).mover m = { (s.core core).mover m with queue := q, run := ((s.core core).mover m).run ++ [r] } ∧ r.op = o ∧ r.ready = true ∧ r.err = none ∧ r.waits = [] ∧ r.tag = [] ∧
      r.loc = (List.range x.rows).map fun i => (x.dst.base + i * x.dst.stride, b.loc.readBytes (x.src.base + i * x.src.stride) x.srcBytes)) ∧
  ∀ (s : State) (core m n : Nat) (r : MvRun) (g : Group) (b : Block), m < 2 → ((s.core core).mover m).run[n]? = some r → Claim.MoverSettled s core m → r.waits = [] → r.tag = [] →
    NMap.find? (s.core core).groups r.op.slot = some g → g.block = r.op.block → NMap.find? (s.core core).blocks r.op.block = some b →
    (r.finished = true → r.err = none → Claim.NoFailed g →
      ∃ t, exec (.moverOperationComplete core m n) s = .next t ∧
        Claim.TokenEnds s t core r.op.slot r.op.k g b .complete (writePieces b.loc r.loc) b.acc ∧
        ((t.core core).mover m).run = ((s.core core).mover m).run.eraseIdx n) ∧
    (∀ code campion addr row, r.err = some (false, code, campion, addr, row) → Claim.NoTokenWaits g →
      ∃ t, exec (.moverOperationFailed core m n) s = .next t ∧
        Claim.TokenEnds s t core r.op.slot r.op.k g b (.failed ⟨code, campion, addr, row⟩) (writePieces b.loc r.loc) b.acc ∧
        ((t.core core).mover m).run = ((s.core core).mover m).run.eraseIdx n)

/-- R100, R233, R463: a program fault writes the primary fault record and ends the job: the generation advances, JOB reads 2 with reason 1
and the fault code, and no block of the slice stays. It is so of trap, and of a mover that read poison. -/
def Obligations.ProgramFaultEndsJob : Prop :=
  (∀ (s : State) (x : Site) (c : Ctx) (w : SF), Claim.Issues s x c [] [] → w.h.ok = true → w.res = 0 → c.guarded w.h ≠ 0 → c.b.slice < 64 → s.jobOf c.b.slice = 1 →
    ∃ t, exec (.trap x (.word w)) s = .next t ∧ t.jobOf c.b.slice = 2 ∧ t.gen c.b.slice = (s.gen c.b.slice + 1) % 2 ^ 16 ∧
      t.fld (aSlc c.b.slice 0x40) 24 8 = 1 ∧ t.fld (aSlc c.b.slice 0x40) 32 8 = 0x11 ∧
      t.sreg c.b.slice 0xD040 = (0x11 + c.g.index * 2 ^ 8 + c.b.index % 2 ^ 16 * 2 ^ 13) % 2 ^ 64 ∧ t.sreg c.b.slice 0xD048 = c.b.taskNo.toNat ∧
      t.sreg c.b.slice 0xD050 = c.p.pc % 2 ^ 64 ∧ t.sreg c.b.slice 0xD058 = (c.guarded w.h).toNat + w.arg.toNat * 2 ^ 32 ∧
      ∀ n k b, NMap.find? (t.core n).blocks k = some b → b.slice ≠ c.b.slice) ∧
  ∀ (s : State) (core m n : Nat) (r : MvRun) (g : Group) (b : Block) (obj addr : Nat) (row : Nat), m < 2 → ((s.core core).mover m).run[n]? = some r → Claim.MoverSettled s core m →
    r.err = some (true, 8, obj, addr, row) → r.waits = [] → r.tag = [] → NMap.find? (s.core core).groups r.op.slot = some g → g.block = r.op.block →
    NMap.find? (s.core core).blocks r.op.block = some b → b.slice < 64 → s.jobOf b.slice = 1 →
    ∃ t, exec (.moverPoison core m n) s = .next t ∧ t.jobOf b.slice = 2 ∧ t.fld (aSlc b.slice 0x40) 32 8 = 8 ∧ t.sreg b.slice 0xD050 = r.op.pc % 2 ^ 64 ∧
      t.sreg b.slice 0xD060 = addr % 2 ^ 64 ∧ ∀ n k b', NMap.find? (t.core n).blocks k = some b' → b'.slice ≠ b.slice

/-- R154, R548: a hardware error in a core sends the task whose block it hit back to its start where nothing escaped it; where something
did, the job ends with reason 7. -/
def Obligations.HardwareErrorReplaysTask : Prop :=
  ∀ (s : State) (core bs : Nat) (b : Block), NMap.find? (s.core core).blocks bs = some b →
    ((∀ k ∈ (s.slice b.slice).kernels, ∀ t ∈ k.tasks, t.no = b.taskNo → t.st = .running → t.effect = false) →
      ∃ t, exec (.hardwareErrorInCore core bs) s = .next t ∧
        (∀ n k b', NMap.find? (t.core n).blocks k = some b' → ¬ (b'.slice = b.slice ∧ b'.taskNo = b.taskNo)) ∧
        (∀ k ∈ (t.slice b.slice).kernels, ∀ u ∈ k.tasks, u.no = b.taskNo → u.st = .running → u.started = 0 ∧ u.retired = [] ∧ u.begun = none) ∧
        (∀ v ∈ (t.slice b.slice).saved, v.block.taskNo ≠ b.taskNo)) ∧
    ((∃ k ∈ (s.slice b.slice).kernels, ∃ t ∈ k.tasks, t.no = b.taskNo ∧ t.st = .running ∧ t.effect = true) → b.slice < 64 → s.jobOf b.slice = 1 →
      ∃ t, exec (.hardwareErrorInCore core bs) s = .next t ∧ t.jobOf b.slice = 2 ∧ t.fld (aSlc b.slice 0x40) 24 8 = 7 ∧
        ∀ n k b', NMap.find? (t.core n).blocks k = some b' → b'.slice ≠ b.slice)

namespace Sys2Proof.Claim

/-- A handle names a queue of this module that the slice may use, which is enabled and has not failed (R376, R385). -/
def HandleOk (s : State) (c : Ctx) (w : QF) (q : Nat) (push : Bool) : Prop :=
  (c.g.ureg w.qh.toNat).toNat = q ∧ q < 512 ∧ s.qAllowed q c.b.slice push = true ∧ s.qEn q = true ∧ s.qFailed q = false

/-- Items whose push numbers ascend, as every run keeps them. -/
def Ordered (x : Queue) : Prop := x.items.Pairwise fun a b => a.no < b.no

/-- The item that the next pop gives: unread, of the highest priority, the lowest push number of it (R379). -/
def IsNext (x : Queue) (i : QItem) : Prop :=
  i ∈ x.items ∧ i.read = none ∧ ∀ j ∈ x.items, j.read = none → j.pri < i.pri ∨ (j.pri = i.pri ∧ i.no ≤ j.no)

/-- The tail ring takes `n` more items without a spill (R577). -/
def TailRoom (x : Queue) (n : Nat) : Prop := (x.items.filter fun i => i.at_ == .tail).length + n ≤ 16

/-- What a queue instruction leaves alone: everything but its group, the task's mark of an effect, the queue, the flow-control pins and the
model's numbering; the other queues. -/
def QueueFrame (s t : State) (x : Site) (q : Nat) : Prop :=
  { t with cores := s.cores, slices := s.slices, queues := s.queues, regs := s.regs, ids := s.ids } = s ∧
  (∀ n, n ≠ x.core → t.core n = s.core n) ∧ (∀ k, k ≠ x.slot → NMap.find? (t.core x.core).groups k = NMap.find? (s.core x.core).groups k) ∧
  (∀ j, j ≠ q → t.queue j = s.queue j) ∧ ∀ a, a ≠ aCqG 0x48 → t.reg a = s.reg a

/-- A queue instruction completes with a status, and changes no register but the status register and, of a pop, DATA. -/
def QueueDone (i : Instr) (s : State) (x : Site) (c : Ctx) (w : QF) (q status : Nat) (P : State → Group → Prop) : Prop :=
  ∃ t g', exec i s = .next t ∧ QueueFrame s t x q ∧ NMap.find? (t.core x.core).groups x.slot = some g' ∧
    { pathsOf c.g g' with u := c.g.u, v := c.g.v } = c.g ∧ (g'.ureg w.qs.toNat).toNat = status ∧ (∀ r, r ≠ w.qs.toNat → g'.ureg r = c.g.ureg r) ∧ P t g'

/-- Registers of issue of the queue instructions. -/
def QIssues (s : State) (x : Site) (c : Ctx) (w : QF) (data : Bool) : Prop := Issues s x c (if data then [w.data.toNat] else []) [w.qh.toNat, w.qs.toNat]

/-- The words of an item: of lanes `b` to `b + 15` of DATA, 0 for a lane that is not active (R94). -/
def ItemOf (c : Ctx) (w : QF) (b : Nat) (v : Item) : Prop :=
  ∀ i, i < 16 → v.toNat / 2 ^ (32 * i) % 2 ^ 32 = if inMask c.p.mask (b + i) then (c.g.vreg w.data.toNat (b + i)).toNat else 0

end Sys2Proof.Claim

/-- R94, R378, R384, R385, R388: qpush appends its items with the next push numbers and status 0; where they do not fit, or the spill area is still being zeroed (R253), it returns status 1 or
its path waits. -/
def Obligations.QueuePush : Prop :=
  ∀ (s : State) (x : Site) (c : Ctx) (w : QF) (q : Nat), Claim.QIssues s x c w true → QFok w 0 = true → w.sem = 0 → Claim.HandleOk s c w q true →
    (w.two = false → s.qZeroing q = false → (s.queue q).waits = [] → Claim.TailRoom (s.queue q) 1 → (s.queue q).items.length + 1 ≤ s.qCap q →
      Claim.QueueDone (.qpush x w) s x c w q 0 fun t g' => g'.v = c.g.v ∧ ∃ v, Claim.ItemOf c w 0 v ∧
        { t.queue q with fc := (s.queue q).fc } = { s.queue q with
          items := (s.queue q).items ++ [⟨v, w.pri.toNat, (s.queue q).pushes, none, .tail, false⟩], pushes := (s.queue q).pushes + 1 }) ∧
    (w.two = true → s.qZeroing q = false → (s.queue q).waits = [] → Claim.TailRoom (s.queue q) 2 → (s.queue q).items.length + 2 ≤ s.qCap q →
      Claim.QueueDone (.qpush x w) s x c w q 0 fun t g' => g'.v = c.g.v ∧ ∃ v0 v1, Claim.ItemOf c w 0 v0 ∧ Claim.ItemOf c w 16 v1 ∧
        { t.queue q with fc := (s.queue q).fc } = { s.queue q with
          items := (s.queue q).items ++ [⟨v0, w.pri.toNat, (s.queue q).pushes, none, .tail, false⟩, ⟨v1, w.pri.toNat, (s.queue q).pushes + 1, none, .tail, false⟩]
          pushes := (s.queue q).pushes + 2 }) ∧
    (w.nb = true → (s.qZeroing q = true ∨ s.qCap q < (s.queue q).items.length + (if w.two then 2 else 1)) →
      Claim.QueueDone (.qpush x w) s x c w q 1 fun t g' => g'.v = c.g.v ∧ t.queue q = s.queue q) ∧
    (w.nb = false → (s.queue q).waits = [] → (s.qZeroing q = true ∨ s.qCap q < (s.queue q).items.length + (if w.two then 2 else 1)) →
      ∃ t g' op v, exec (.qpush x w) s = .next t ∧ Claim.QueueFrame s t x q ∧ NMap.find? (t.core x.core).groups x.slot = some g' ∧ Claim.pathsOf c.g g' = c.g ∧
        g'.path? c.g.cur = some { c.p with pc := Claim.nextPc c, fence := none, wait := .queue op } ∧
        t.queue q = { s.queue q with waits := [v] } ∧ v.pri = w.pri.toNat ∧ v.push.length = if w.two then 2 else 1)

/-- R94, R379, R383, R385: qpop reads the next item into DATA and advances the read position; without marks the item leaves. -/
def Obligations.QueuePop : Prop :=
  ∀ (s : State) (x : Site) (c : Ctx) (w : QF) (q : Nat), Claim.QIssues s x c w true → QFok w 1 = true → w.sem = 0 → Claim.HandleOk s c w q false →
    (∀ i, w.two = false → s.qZeroing q = false → (s.queue q).waits = [] → s.qHeld q = false → Claim.Ordered (s.queue q) → Claim.IsNext (s.queue q) i → (i.at_ = .head ∨ i.at_ = .tail) → i.poison = false →
      Claim.QueueDone (.qpop x w) s x c w q 0 fun t g' =>
        (∀ l, l < 16 → inMask c.p.mask l = true → (g'.vreg w.data.toNat l).toNat = i.w.toNat / 2 ^ (32 * l) % 2 ^ 32) ∧
        (∀ r l, l < 32 → (16 ≤ l ∨ inMask c.p.mask l = false ∨ r ≠ w.data.toNat) → g'.vreg r l = c.g.vreg r l) ∧
        { t.queue q with fc := (s.queue q).fc } = { s.queue q with
          pos := (s.queue q).pos + 1
          items := if s.qMarks q then (s.queue q).items.map (fun j => if j.no = i.no then { j with read := some (s.queue q).pos } else j)
                   else (s.queue q).items.filter fun j => j.no != i.no }) ∧
    (∀ i j, w.two = true → s.qZeroing q = false → (s.queue q).waits = [] → s.qHeld q = false → Claim.Ordered (s.queue q) → Claim.IsNext (s.queue q) i →
      Claim.IsNext { s.queue q with items := (s.queue q).items.filter fun k => k.no != i.no } j → (i.at_ = .head ∨ i.at_ = .tail) → (j.at_ = .head ∨ j.at_ = .tail) →
      i.poison = false → j.poison = false →
      Claim.QueueDone (.qpop x w) s x c w q 0 fun t g' =>
        (∀ l, l < 16 → inMask c.p.mask l = true → (g'.vreg w.data.toNat l).toNat = i.w.toNat / 2 ^ (32 * l) % 2 ^ 32) ∧
        (∀ l, l < 16 → inMask c.p.mask (16 + l) = true → (g'.vreg w.data.toNat (16 + l)).toNat = j.w.toNat / 2 ^ (32 * l) % 2 ^ 32) ∧
        (∀ r l, l < 32 → (inMask c.p.mask l = false ∨ r ≠ w.data.toNat) → g'.vreg r l = c.g.vreg r l) ∧ (t.queue q).pos = (s.queue q).pos + 2) ∧
    (w.nb = true → (s.qZeroing q = true ∨ s.qHeld q = true ∨ (s.queue q).unread < (if w.two then 2 else 1)) →
      Claim.QueueDone (.qpop x w) s x c w q (if s.qHeld q then 3 else 2) fun t g' => g'.v = c.g.v ∧ t.queue q = s.queue q) ∧
    (w.nb = false → (s.queue q).waits = [] → (s.qZeroing q = true ∨ s.qHeld q = true ∨ (s.queue q).unread < (if w.two then 2 else 1)) →
      ∃ t g' op v, exec (.qpop x w) s = .next t ∧ Claim.QueueFrame s t x q ∧ NMap.find? (t.core x.core).groups x.slot = some g' ∧ Claim.pathsOf c.g g' = c.g ∧
        g'.path? c.g.cur = some { c.p with pc := Claim.nextPc c, fence := none, wait := .queue op } ∧
        t.queue q = { s.queue q with waits := [v] } ∧ v.push = [] ∧ v.pop = if w.two then 2 else 1)

/-- R380 to R386: qmark, qrewind, qrel and qstat; a queue that is not enabled or has failed gives status 6 or 7. -/
def Obligations.QueueMarksAndStatus : Prop :=
  ∀ (s : State) (x : Site) (c : Ctx) (w : QF) (q : Nat), Claim.QIssues s x c w false → (c.g.ureg w.qh.toNat).toNat = q → q < 512 → s.qAllowed q c.b.slice false = true →
    (QFok w 5 = true →
      Claim.QueueDone (.qstat x w) s x c w q
        (if s.qEn q = false then 2 ^ 63 + 6 else if s.qFailed q = true then 2 ^ 63 + 7 else
          ((s.queue q).items.length + (s.queue q).unread * 2 ^ 25 + (s.queue q).fc.toNat * 2 ^ 50 + (s.qHeld q).toNat * 2 ^ 51) % 2 ^ 64)
        fun t g' => g'.v = c.g.v ∧ t.queue q = s.queue q) ∧
    (QFok w 2 = true → ∀ i ∈ [Instr.qmark x w, .qrewind x w, .qrel x w],
      (s.qEn q = false → Claim.QueueDone i s x c w q 6 fun t g' => g'.v = c.g.v ∧ t.queue q = s.queue q) ∧
      (s.qEn q = true → s.qFailed q = true → Claim.QueueDone i s x c w q 7 fun t g' => g'.v = c.g.v ∧ t.queue q = s.queue q) ∧
      (s.qEn q = true → s.qFailed q = false → s.qMarks q = false → Claim.QueueDone i s x c w q 5 fun t g' => g'.v = c.g.v ∧ t.queue q = s.queue q)) ∧
    (QFok w 2 = true → s.qEn q = true → s.qFailed q = false → s.qMarks q = true → (s.queue q).waits = [] →
      ((s.queue q).marks.length = 4 → Claim.QueueDone (.qmark x w) s x c w q 0 fun t g' => g'.v = c.g.v ∧
        (t.queue q).marks[w.mark.toNat]? = some (some (s.queue q).pos) ∧ (t.queue q).items = (s.queue q).items ∧ (t.queue q).pos = (s.queue q).pos ∧
        ∀ k, k ≠ w.mark.toNat → (t.queue q).marks[k]? = (s.queue q).marks[k]?) ∧
      ((s.queue q).marks[w.mark.toNat]? = some none → ∀ i ∈ [Instr.qrewind x w, .qrel x w],
        Claim.QueueDone i s x c w q 4 fun t g' => g'.v = c.g.v ∧ t.queue q = s.queue q) ∧
      (∀ m, (s.queue q).marks[w.mark.toNat]? = some (some m) →
        Claim.QueueDone (.qrewind x w) s x c w q 0 (fun t g' => g'.v = c.g.v ∧ (t.queue q).pos = m ∧
          (t.queue q).items = (s.queue q).items.map (fun i => match i.read with | some p => if m ≤ p then { i with read := none } else i | none => i) ∧
          ∀ k : Nat, (t.queue q).marks[k]? = ((s.queue q).marks[k]?).map fun o => match o with | some p => if m < p then none else some p | none => none) ∧
        Claim.QueueDone (.qrel x w) s x c w q 0 (fun t g' => g'.v = c.g.v ∧ (t.queue q).pos = (s.queue q).pos ∧
          (t.queue q).items = (s.queue q).items.filter (fun i => match i.read with | some p => decide (m ≤ p) | none => true) ∧
          ∀ k : Nat, (t.queue q).marks[k]? = ((s.queue q).marks[k]?).map fun o => match o with | some p => if p < m then none else some p | none => none)))

/-- R390 to R397, R577: a refill of the head ring, a host push, a change of QFC_IN and its timeout. -/
def Obligations.QueueEngineEvents : Prop :=
  (∀ (s : State) (q : Nat), s.qEn q = true → s.qFailed q = false → s.qZeroing q = false → (∀ i ∈ (s.queue q).items, i.at_ = .head ∨ i.at_ = .tail) → Claim.Ordered (s.queue q) →
    ∃ t, exec (.headRingRefill q) s = .next t ∧ { t with queues := s.queues } = s ∧ (∀ j, j ≠ q → t.queue j = s.queue j) ∧
      (t.queue q).items.map (fun i => { i with at_ := .head }) = (s.queue q).items.map (fun i => { i with at_ := .head }) ∧
      (16 ≤ ((t.queue q).items.filter fun i => i.at_ == .head).length ∨ ∀ i ∈ (t.queue q).items, i.read = none → i.at_ = .head)) ∧
  (∀ (s : State) (port q sl : Nat) (pasid : Option Nat) (bytes : List Byte), s.phase = .ready → s.fld (aSec 0) 0 2 ≠ 2 → s.pasidSlice port pasid = some sl →
    s.fld (aHpStatus port) 10 2 ≠ 3 → s.qOwner q = sl → bytes.length = 64 → s.qEn q = true → s.qFailed q = false → s.qZeroing q = false → (s.queue q).waits = [] →
    (s.queue q).items.length < s.qCap q → Claim.TailRoom (s.queue q) 1 →
    ∃ t, exec (.hostPush port pasid (64 * q) bytes) s = .next t ∧ { t with queues := s.queues, regs := s.regs } = s ∧ (∀ j, j ≠ q → t.queue j = s.queue j) ∧
      { t.queue q with fc := (s.queue q).fc } = { s.queue q with
        items := (s.queue q).items ++ [⟨BitVec.ofNat 512 (leNat bytes), s.fld (aCq q 0) 16 2, (s.queue q).pushes, none, .tail, false⟩]
        pushes := (s.queue q).pushes + 1 }) ∧
  (∀ (s : State) (port q sl : Nat) (pasid : Option Nat) (bytes : List Byte), s.phase = .ready → s.fld (aSec 0) 0 2 ≠ 2 → s.pasidSlice port pasid = some sl →
    s.fld (aHpStatus port) 10 2 ≠ 3 → s.qOwner q ≠ sl →
    ∃ t, exec (.hostPush port pasid (64 * q) bytes) s = .next t ∧ t = s.flag (aCqG 0x50) 3) ∧
  (∀ (s : State) (pin : Nat), pin < 8 → (s.queue (s.fld (aCqG (8 * pin)) 11 9)).waits = [] →
    (∃ t, exec (.qfcInChange pin true) s = .next t ∧ t.fld (aCqG 0x48) (8 + pin) 1 = 1 ∧ t.queues = s.queues ∧ t.mem = s.mem) ∧
    (∃ t, exec (.qfcInChange pin false) s = .next t ∧ t.fld (aCqG 0x48) (8 + pin) 1 = 0 ∧ t.queues = s.queues ∧ t.mem = s.mem)) ∧
  ∀ (s : State) (pin : Nat), pin < 8 → s.fld (aCqG 0x48) (8 + pin) 1 = 1 →
    ∃ t, exec (.qfcInTimeout pin) s = .next t ∧ t.fld (aCqG 0x48) (16 + pin) 1 = 1 ∧ t.fld (aErr 0) 0 1 = 1 ∧ t.queues = s.queues

namespace Sys2Proof.Claim

/-- A write of a manager function reaches the register at `a` (R429, R430, R447). -/
def ManagerMay (s : State) (host a : Nat) : Prop := s.responds a = true ∧ s.owns host = true

/-- A tenant request of a port reaches slice `sl` (R434, R447, R505). -/
def TenantMay (s : State) (port : Nat) (pasid : Option Nat) (sl : Nat) : Prop :=
  s.phase = .ready ∧ s.fld (aSec 0) 0 2 ≠ 2 ∧ s.pasidSlice port pasid = some sl ∧ s.fld (aHpStatus port) 10 2 ≠ 3

/-- The job of a slice has started (R462): JOB reads 1, the instance counter is 0, nothing is launched, its queues are empty. -/
def JobStarted (s t : State) (sl : Nat) : Prop :=
  t.jobOf sl = 1 ∧ t.gen sl = s.gen sl ∧ (t.slice sl).taskCtr = 0 ∧ (t.slice sl).kernels = [] ∧ (t.slice sl).launch = [] ∧ (t.slice sl).saved = [] ∧
  (∀ q, q < 512 → s.qOwner q = sl → (t.queue q).items = []) ∧ t.mem = s.mem ∧ t.cores = s.cores

/-- The job of a slice has ended for a reason with a fault code (R463). -/
def JobEnded (s t : State) (sl reason code : Nat) : Prop :=
  t.jobOf sl = 2 ∧ t.gen sl = (s.gen sl + 1) % 2 ^ 16 ∧ t.fld (aSlc sl 0x40) 24 8 = reason ∧ t.fld (aSlc sl 0x40) 32 8 = code ∧
  (t.slice sl).kernels = [] ∧ (t.slice sl).launch = [] ∧ (t.slice sl).saved = [] ∧
  (∀ n k b, NMap.find? (t.core n).blocks k = some b → b.slice ≠ sl) ∧
  .msix (t.portOf sl) 1 (4 * sl + 3) (t.gen sl) ∈ t.out

/-- A change of the running task with a number, in every kernel of a list. -/
def runningTask (ks : List Kernel) (no : BitVec 64) (f : Task → Task) : List Kernel :=
  ks.map fun k => { k with tasks := k.tasks.map fun u => if u.no = no ∧ u.st = .running then f u else u }

end Sys2Proof.Claim

/-- R462, R463: the manager and the tenant start and end a job; a start of a running job is ignored. -/
def Obligations.JobsStartAndEnd : Prop :=
  (∀ (s : State) (host sl : Nat), sl < 64 → Claim.ManagerMay s host (aSlc sl 0x48) → s.exists? sl = true →
    (s.jobOf sl ≠ 1 → ∃ t, exec (.slcCtrlStart host sl) s = .next t ∧ Claim.JobStarted s t sl) ∧
    (s.jobOf sl = 1 → exec (.slcCtrlStart host sl) s = .next s) ∧
    (s.jobOf sl = 1 → ∃ t, exec (.slcCtrlStop host sl) s = .next t ∧ Claim.JobEnded s t sl 3 0)) ∧
  ∀ (s : State) (port sl : Nat) (pasid : Option Nat), sl < 64 → Claim.TenantMay s port pasid sl → s.exists? sl = true →
    (s.jobOf sl ≠ 1 → ∃ t, exec (.slcSJobctlStart port pasid) s = .next t ∧ Claim.JobStarted s t sl) ∧
    (s.jobOf sl = 1 → exec (.slcSJobctlStart port pasid) s = .next s) ∧
    (s.jobOf sl = 1 → ∃ t, exec (.slcSJobctlEnd port pasid) s = .next t ∧ Claim.JobEnded s t sl 2 0)

/-- R366, R435, R437, R464, R468: the arrival of a doorbell, a task, a report and an interrupt message. An interrupt of an earlier generation is discarded and
counted, and so is a message that does not agree with the table of R366, whatever it is. -/
def Obligations.SchedulingMessagesArrive : Prop :=
  (∀ (s : State) (b : Bugle) (sl stream value : Nat), bugleOk 0x13 b = true → s.jobOf sl = 1 →
    ∃ t, exec (.doorbell b sl stream value) s = .next t ∧ { t with slices := s.slices, flight := s.flight } = s ∧
      (t.slice sl).launch = (s.slice sl).launch ++ [(stream, BitVec.ofNat 64 value)]) ∧
  (∀ (s : State) (b : Bugle) (die sl no : Nat), bugleOk 0x14 b = true →
    ∃ t, exec (.dispatch b die sl no false) s = .next t ∧ { t with slices := s.slices, flight := s.flight } = s ∧
      (t.slice sl).kernels = Claim.runningTask (s.slice sl).kernels (BitVec.ofNat 64 no) fun u => { u with dies := u.dies ++ [die] }) ∧
  (∀ (s : State) (b : Bugle) (sl no : Nat), bugleOk 0x15 b = true →
    exec (.doneBugle b sl no) s = .next { s with flight := { s.flight with net := s.flight.net.erase (.doneBugle b sl no) } }) ∧
  (∀ (s : State) (b : Bugle) (sl index : Nat), bugleOk 0x16 b = true →
    ∃ t, exec (.intrMsg b sl index (s.gen sl)) s = .next t ∧ { t with out := s.out, flight := s.flight } = s ∧
      t.out = s.out ++ [.msix (s.portOf sl) 1 (4 * sl + index % 4) 0]) ∧
  (∀ (s : State) (b : Bugle) (sl index gen : Nat), bugleOk 0x16 b = true → gen ≠ s.gen sl →
     ∃ t, exec (.intrMsg b sl index gen) s = .next t ∧ { t with swin := s.swin, flight := s.flight } = s ∧
       t.sreg sl 0xD028 = (s.sreg sl 0xD028 + 1) % 2 ^ 64 ∧ t.out = s.out) ∧
  ∀ (s : State) (b : Bugle) (die sl x y : Nat),
    (bugleOk 0x13 b = false → exec (.doorbell b sl x y) s = .next ((s.take (.doorbell b sl x y)).satInc (aNet 0x28) 48 16)) ∧
    (bugleOk 0x14 b = false → exec (.dispatch b die sl x false) s = .next ((s.take (.dispatch b die sl x false)).satInc (aNet 0x28) 48 16)) ∧
    (bugleOk 0x16 b = false → exec (.intrMsg b sl x y) s = .next ((s.take (.intrMsg b sl x y)).satInc (aNet 0x28) 48 16)) ∧
    (bugleOk 0x06 b = false → exec (.trip b die) s = .next ((s.take (.trip b die)).satInc (aNet 0x28) 48 16))

/-- R466, R467, R478: a launch whose graph is in order makes a kernel of its tasks; one that is misaligned ends the job with reason 9; a
swap loads the model of a waiting kernel. -/
def Obligations.KernelsStart : Prop :=
  (∀ (s s1 s2 s3 : State) (sl stream v : Nat) (fromHost : List (Nat × HostByte)) (bs : List Byte) (ts : List Task) (h : BitVec 512), s.jobOf sl = 1 → stream ≤ 16 →
    (∀ k ∈ (s.slice sl).kernels, k.stream ≠ stream ∧ k.swapped = true) → s.nextLaunch sl stream = (s1, some v) → v % 64 = 0 → v < 2 ^ 48 →
    s1.readVa sl fromHost v 64 = (s2, some (bs, false)) → h = BitVec.ofNat 512 (leNat bs) → graphOk h = true → hfld h 25 1 = 0 →
    s2.readTasks sl fromHost v (hfld h 0 12 + 1) (hfld h 0 12 + 1) = (s3, .inl ts) →
    ∃ t, exec (.kernelStart sl stream fromHost) s = .next t ∧ { t with slices := s3.slices } = s3 ∧
      (t.slice sl).kernels = (s3.slice sl).kernels ++ [⟨stream, v, h, ts, true⟩]) ∧
  (∀ (s s1 : State) (sl stream v : Nat) (fromHost : List (Nat × HostByte)), sl < 64 → s.jobOf sl = 1 → stream < 16 →
    (∀ k ∈ (s.slice sl).kernels, k.stream ≠ stream ∧ k.swapped = true) → (s.slice sl).launch.find? (fun l => l.1 == stream) = some (stream, BitVec.ofNat 64 v) →
    v < 2 ^ 64 → (v % 64 ≠ 0 ∨ 2 ^ 48 ≤ v) →
    ∃ t, exec (.kernelStart sl stream fromHost) s = .next t ∧ Claim.JobEnded s t sl 9 0) ∧
  ∀ (s : State) (sl : Nat) (fromHost : List (Nat × HostByte)) (k : Kernel), (s.slice sl).kernels = [k] → k.swapped = false → s.sliceZeroing sl = false → (s.slice sl).model = none →
    s.mapsRange sl (some fromHost) (hfld k.hdr 64 48) (hfld k.hdr 128 32) = true →
    ∃ t, exec (.modelSwap sl fromHost) s = .next t ∧ (t.slice sl).kernels = [{ k with swapped := true }] ∧
      (t.slice sl).model = some (hfld k.hdr 192 16, hfld k.hdr 64 48, hfld k.hdr 160 32)

/-- R162, R468, R469: a task whose inputs are complete receives the next instance number and runs, and every die whose cluster its slice
names or holds through a window is told; its first block starts on an empty core that fits, with its groups at the code address. -/
def Obligations.TasksAndBlocksStart : Prop :=
  (∀ (s : State) (sl stream i d : Nat) (fromHost : List (Nat × HostByte)) (k : Kernel) (u : Task),
    (s.slice sl).kernels.find? (fun k => k.stream == stream) = some k → k.tasks[i]? = some u → k.swapped = true → u.st = .waiting →
    (∀ j ∈ u.inputs, ∃ v, k.tasks[j]? = some v ∧ (v.st = .done ∨ v.st = .skipped)) → hfld u.hdr 145 1 = 0 →
    ∃ t k', exec (.taskReady sl stream i fromHost) s = .next t ∧ (t.slice sl).taskCtr = (s.slice sl).taskCtr + 1 ∧
      (t.slice sl).kernels.find? (fun k => k.stream == stream) = some k' ∧ k'.tasks[i]? = some { u with st := .running, no := (s.slice sl).taskCtr } ∧
      (∀ j, j ≠ i → k'.tasks[j]? = k.tasks[j]?) ∧ t.mem = s.mem ∧ t.regs = s.regs ∧
      (d < 32 → s.present d = true → (∃ j, j < 8 ∧ s.usesCluster sl (8 * d + j) = true) →
        .dispatch (bugleTo 0x14 s.actDie (posOf (s.sites.getD d 0))) d sl ((s.slice sl).taskCtr).toNat false ∈ t.flight.net)) ∧
  ∀ (s : State) (sl stream i core : Nat) (u : Task) (rest : List (Nat × Nat × Task)), s.jobOf sl = 1 → s.readyTasks sl = (stream, i, u) :: rest →
    s.pickCore ((List.range 2048).filter fun c => s.mayStart sl c u ((s.readyTasks sl).any fun t => hfld t.2.2.hdr 144 1 == 1)) = some core →
    (s.core core).blocks = [] → (s.core core).groups = [] →
    ∃ t b, exec (.blockStart sl) s = .next t ∧ { t with cores := s.cores, slices := s.slices } = s ∧ (∀ n, n ≠ core → t.core n = s.core n) ∧
      NMap.find? (t.core core).blocks 0 = some b ∧ b.slice = sl ∧ b.taskNo = u.no ∧ b.index = u.started ∧ b.code = hfld u.hdr 0 48 ∧
      b.g = hfld u.hdr 48 5 + 1 ∧ b.v = 8 * (hfld u.hdr 53 5 + 1) ∧ b.l = 2 * hfld u.hdr 112 8 ∧ b.acc = [] ∧ b.loc = [] ∧
      ∀ gi, gi < b.g → ∃ slot g, NMap.find? (t.core core).groups slot = some g ∧ g.block = 0 ∧ g.index = gi ∧ g.cur = 0 ∧
        g.path? 0 = some ⟨b.code, allLanes, .run, 0, none, none⟩ ∧ (g.ureg 0).toNat = u.started % 2 ^ 64 ∧ (g.ureg 1).toNat = gi ∧
        ∀ l, l < 32 → (g.vreg 0 l).toNat = 32 * gi + l

/-- R50, R51, R194, R468, R474: a block that is not the last of its task retires once its groups have exited and its accesses are performed, and releases what it held; a task
that has not completed within its bound ends the job with fault 0x0C. -/
def Obligations.BlocksRetireAndTasksOverrun : Prop :=
  (∀ (s : State) (core bs : Nat) (b : Block), NMap.find? (s.core core).blocks bs = some b → b.async = 0 → (∀ e ∈ (s.core core).sb, e.block ≠ bs) →
    (∀ sg ∈ (s.core core).groups, sg.2.block = bs → sg.2.exited = allLanes ∧ sg.2.ops = []) →
    (∀ k ∈ (s.slice b.slice).kernels, ∀ u ∈ k.tasks, u.no = b.taskNo → u.st = .running → u.retired.length + 1 < hfld u.hdr 128 16 + 1 ∧ u.retired.length + 1 ≠ b.count) →
    ∃ t, exec (.blockRetire core bs) s = .next t ∧ (∀ b', NMap.find? (t.core core).blocks bs ≠ some b') ∧
      (∀ k g, NMap.find? (t.core core).groups k = some g → g.block ≠ bs) ∧ t.mem = s.mem ∧ t.queues = s.queues ∧
      (t.slice b.slice).kernels = Claim.runningTask (s.slice b.slice).kernels b.taskNo fun u => { u with retired := b.index :: u.retired }) ∧
  ∀ (s : State) (sl no : Nat) (k : Kernel) (u : Task), sl < 64 → no < 2 ^ 64 → s.jobOf sl = 1 → (s.slice sl).kernels = [k] → k.tasks = [u] → u.no = BitVec.ofNat 64 no →
    u.st = .running → u.begun ≠ none → hfld u.hdr 160 32 ≠ 0 → (hfld u.hdr 144 1 = 1 ∨ s.fld (aSlc sl 0) 38 8 ≠ 0) →
    ∃ t, exec (.taskOverrun sl no) s = .next t ∧ Claim.JobEnded s t sl 1 0x0C ∧ t.sreg sl 0xD040 = 0x0C ∧ t.sreg sl 0xD048 = no

/-- R470 to R472: the quantum and the drain of a shared cluster, the start of a window cycle, and the guard, opening and closing of a window. -/
def Obligations.ClustersAndWindows : Prop :=
  (∀ (s : State) (k sl other : Nat), (s.cluster k).cur = some sl → 2 ≤ (s.namers k).length → other ∈ s.namers k → other ≠ sl → s.hasReady other = true →
    (∃ i b, i < 8 ∧ b ∈ (s.core (8 * k + i)).blocks ∧ b.2.slice = sl ∧ ((s.core (8 * k + i)).blocks.map (·.1)).Nodup) →
    ∃ t, exec (.clusterQuantumExpiry k) s = .next t ∧ (t.cluster k).stopped = true ∧ (t.cluster k).cur = some sl ∧ t.mem = s.mem ∧ t.regs = s.regs) ∧
  (∀ (s : State) (k sl i bs : Nat) (b : Block), (s.cluster k).stopped = true → (s.cluster k).cur = some sl → s.queues = [] → i < 8 →
    NMap.find? (s.core (8 * k + i)).blocks bs = some b → b.slice = sl → s.fld (aSlc sl 0x30) 24 24 ≠ 0 →
    ∃ t b', exec (.drainExpiry k) s = .next t ∧ NMap.find? (t.core (8 * k + i)).blocks bs = some b' ∧ b' = { b with saving := true } ∧ t.mem = s.mem) ∧
  (∀ s : State, bits (s.reg 0x240000) 17 1 = 0 → exec .windowCycleStart s = .next { s with windows := { s.windows with table := [] } }) ∧
  (∀ s : State, bits (s.reg 0x240000) 17 1 = 1 → bits (s.reg 0x240000) 0 17 ≠ 0 →
    ∃ t, exec .windowCycleStart s = .next t ∧ { t with windows := s.windows, regs := s.regs } = s ∧ (∀ a, a ≠ 0x240010 → t.reg a = s.reg a) ∧
      t.windows.opened = s.windows.opened ∧ t.windows.cycus = bits (s.reg 0x240000) 0 17 ∧
      t.windows.origin = s.time.toNat / (1000 * bits (s.reg 0x240000) 0 17) * (1000 * bits (s.reg 0x240000) 0 17) ∧
      ∀ w, w < 64 → t.windows.table[w]? = some (if s.fld (0x240100 + 16 * w) 0 1 = 1 then (s.reg (0x240100 + 16 * w), s.reg (0x240108 + 16 * w)) else (0, 0))) ∧
  (∀ (s : State) (w k : Nat), s.winOn w = true → k < 256 → s.winHas w k = true → s.present (k / 8) = true →
    ∃ t, exec (.windowGuard w) s = .next t ∧ { t with clusters := s.clusters } = s ∧ (t.cluster k).guard = some w) ∧
  (∀ (s : State) (w k : Nat), s.winOn w = true → k < 256 → s.winHas w k = true → s.present (k / 8) = true →
    ∃ t, exec (.windowOpen w) s = .next t ∧ (t.cluster k).guard = none ∧ t.mem = s.mem ∧
      NMap.find? t.windows.opened w = some (s.windows.origin + 1000 * (bits (s.windows.table.getD w (0, 0)).1 7 17 + bits (s.windows.table.getD w (0, 0)).1 24 17))) ∧
  ∀ (s : State) (w : Nat), NMap.find? s.windows.opened w ≠ none →
    ∃ t, exec (.windowClose w) s = .next t ∧ NMap.find? t.windows.opened w = none ∧ t.mem = s.mem

/-- R475 to R477: a save takes the block off its core and keeps it in the slice; a restore puts a block without abandoned operations back on a
core with its groups as they were; a wait on another module is abandoned for a save. -/
def Obligations.SaveAndRestore : Prop :=
  (∀ (s : State) (core bs ofs : Nat) (b : Block), NMap.find? (s.core core).blocks bs = some b → b.saving = true → s.remotes = [] →
    (∀ o ∈ (s.core core).mxq, o.block ≠ bs) → (∀ r ∈ (s.core core).mxaRun ++ (s.core core).mxwRun, r.op.block ≠ bs) →
    (∀ sg ∈ (s.core core).groups, sg.2.block = bs → sg.2.ops = []) → (∀ e ∈ (s.core core).sb, e.block ≠ bs) →
    (s.core core).mv0 = ⟨[], [], []⟩ → (s.core core).mv1 = ⟨[], [], []⟩ →
    s.contextPlace b.slice b.contextBytes = some ofs →
    ∃ t sv, exec (.blockSaveComplete core bs) s = .next t ∧ (∀ b', NMap.find? (t.core core).blocks bs ≠ some b') ∧
      (∀ k g, NMap.find? (t.core core).groups k = some g → g.block ≠ bs) ∧ (t.slice b.slice).saved = (s.slice b.slice).saved ++ [sv] ∧
      sv.block = { b with saving := false } ∧ sv.ofs = ofs ∧ sv.size = b.g * (128 * b.v + 1536) + 1536 * b.l ∧
      sv.groups = ((s.core core).groups.filter fun g => g.2.block == bs).map (·.2) ∧ t.sreg b.slice 0xD020 = (s.sreg b.slice 0xD020 + 1) % 2 ^ 64) ∧
  (∀ (s : State) (sl i core : Nat) (v : Saved), (s.slice sl).saved[i]? = some v → v.movers = [] → s.remotes = [] → core < 2048 →
    s.mayPlace sl core = true → (s.core core).fits v.block.g v.block.v v.block.l = true → (s.core core).blocks = [] → (s.core core).groups = [] → v.groups.length ≤ 32 →
    ∃ t b, exec (.blockRestore sl i core) s = .next t ∧ { t with cores := s.cores, slices := s.slices } = s ∧ (∀ n, n ≠ core → t.core n = s.core n) ∧
      (t.slice sl).saved = (s.slice sl).saved.eraseIdx i ∧ NMap.find? (t.core core).blocks 0 = some b ∧ { b with charged := v.block.charged } = v.block ∧
      ∀ g ∈ v.groups, ∃ slot, NMap.find? (t.core core).groups slot = some { g with block := 0 }) ∧
  ∀ (s : State) (r : Remote) (core slot : Nat) (g : Group) (b : Block), s.remotes = [r] → r.kind = .push core slot → NMap.find? (s.core core).groups slot = some g →
    NMap.find? (s.core core).blocks g.block = some b → b.saving = true →
    ∃ t, exec (.remoteWaitAbandon r.id) s = .next t ∧ { t with cores := s.cores, remotes := s.remotes } = s ∧ t.remotes = [{ r with kept := true }] ∧
      ∀ n, (t.core n).blocks = (s.core n).blocks ∧ (t.core n).groups = (s.core n).groups

namespace Sys2Proof.Claim

/-- A request or contribution of an agent may be served now: no earlier store of its core to the same sector stands before it (R185). -/
def MayServe (s : State) (a : Agent) : Prop := s.storeWaits a = false

/-- What serving a request of a half leaves alone: all but this half, cores, slice counters, messages and memory. -/
def LlmFrame (s t : State) (h : Nat) : Prop :=
  { t with flight := s.flight, halves := s.halves, swin := s.swin, cores := s.cores, slices := s.slices, mem := s.mem, poison := s.poison } = s ∧ (∀ k, k ≠ h → t.half k = s.half k)

/-- No window, no miss entry and no pending contribution of a line stands at a half. -/
def Quiet (s : State) (h line : Nat) : Prop :=
  (∀ w ∈ (s.half h).windows, w.1 ≠ line) ∧ (∀ m ∈ (s.half h).miss, m.line ≠ line) ∧ ∀ p ∈ (s.half h).pend, p.c.line ≠ line

/-- The store-buffer entry of an accepted write is free. -/
def Accepted (t : State) (a : Agent) : Prop := ∀ core ent, a = .store core ent → ∀ e ∈ (t.core core).sb, e.id ≠ ent

end Sys2Proof.Claim

/-- R240, R254 to R256, R311: a read that misses where it allocates opens a miss entry and asks the home for the line in S; a read of a line
held with its sectors is served at once and opens a combine window; a byte written to an owned line reads back. -/
def Obligations.LlmRequestsServed : Prop :=
  (∀ (s : State) (r : LlmReq) (m : BitVec 4) (n : Nat), r ∈ s.flight.llm → Claim.MayServe s r.agent → r.body = .read m →
    NMap.find? (s.half r.half).lines r.line = none → (s.half r.half).miss = [] → (s.half r.half).used = [] → s.allocates r = true → s.homeNode r.line = some n → s.fld 0x700000 0 2 = 0 →
    ∃ t tag, exec (.llmRequest r) s = .next t ∧ Claim.LlmFrame s t r.half ∧ tag = 64 * NMap.get 0 (s.half r.half).tags (64 * cacheSlice r.line) ∧
      (t.half r.half).miss = [⟨0, tag, r.line, .rds, [r], [], false, r.slice, r.ro, r.policy, r.cls, false, none, 0, none, false⟩] ∧
      t.flight = { s.flight with llm := s.flight.llm.erase r, net := s.flight.net ++ [.rds ⟨n, .half r.half, tag, r.line⟩] } ∧ t.cores = s.cores ∧ t.mem = s.mem) ∧
  (∀ (s : State) (r : LlmReq) (m : BitVec 4) (l : Line) (core slot op : Nat), r ∈ s.flight.llm → r.agent = .load core slot op → r.body = .read m → r.hint = 0 →
    NMap.find? (s.half r.half).lines r.line = some l → m &&& ~~~l.valid = 0 → r.line ∉ (s.core core).nearOpen → Claim.Quiet s r.half r.line →
    ∃ t, exec (.llmRequest r) s = .next t ∧ Claim.LlmFrame s t r.half ∧ t.mem = s.mem ∧ t.flight = { s.flight with llm := s.flight.llm.erase r } ∧
      t.findOp core slot op = (s.findOp core slot op).map (fun o => o.takeSectors r.line ⟨l.sec, l.poison, 0⟩ m) ∧
      (t.half r.half).windows = (s.half r.half).windows ++ [(r.line, [])]) ∧
  ∀ (s : State) (r : LlmReq) (l : Line) (o : Nat) (v : Byte), r ∈ s.flight.llm → Claim.MayServe s r.agent → r.body = .write [(o, v)] → o < 128 → r.hint = 0 →
    NMap.find? (s.half r.half).lines r.line = some l → l.st ≠ .s → l.sec.length = 4 → (l.sec.getD (o / 32) none).isSome = true → Claim.Quiet s r.half r.line →
    ∃ t, exec (.llmRequest r) s = .next t ∧ Claim.LlmFrame s t r.half ∧ Claim.Accepted t r.agent ∧ t.flight = { s.flight with llm := s.flight.llm.erase r } ∧
      t.lineRead r.half r.line o 1 = v.toNat ∧ ∃ l', NMap.find? (t.half r.half).lines r.line = some l' ∧ (isScratch r.line = false → l'.st = .m ∧ l'.dirty.getLsbD (o / 32) = true)

/-- R205, R206, R246, R250, R251, R263: a slice's own scratch unit is written and read; another slice's request is refused and counted, a read of
it gives ones; a contribution to scratch is applied, and one with a key is held pending. -/
def Obligations.ScratchAndContributions : Prop :=
  (∀ (s : State) (r : ScrReq) (bs : List (Nat × Byte)), r ∈ s.flight.scr → Claim.MayServe s r.agent → r.body = .write bs → isScratch r.line = true →
    s.scratchOk r.agent r.slice r.line = true → scratchUnit (r.line * 128) ∉ (s.half (scratchHalf (r.line * 128))).zeroing → Claim.Quiet s (scratchHalf (r.line * 128)) r.line →
    ∃ t, exec (.scratchRequest r) s = .next t ∧ Claim.LlmFrame s t (scratchHalf (r.line * 128)) ∧ Claim.Accepted t r.agent ∧
      t.flight = { s.flight with scr := s.flight.scr.erase r } ∧ t.mem = bs.foldl (fun (m : Mem) b => m.write (r.line * 128 + b.1) b.2) s.mem) ∧
  (∀ (s : State) (r : ScrReq) (m : BitVec 4) (core slot op : Nat), r ∈ s.flight.scr → r.agent = .load core slot op → r.body = .read m → isScratch r.line = true →
    s.scratchOk r.agent r.slice r.line = true → scratchUnit (r.line * 128) ∉ (s.half (scratchHalf (r.line * 128))).zeroing → r.line ∉ (s.core core).nearOpen → Claim.Quiet s (scratchHalf (r.line * 128)) r.line →
    ∃ t, exec (.scratchRequest r) s = .next t ∧ Claim.LlmFrame s t (scratchHalf (r.line * 128)) ∧ t.mem = s.mem ∧
      t.findOp core slot op = (s.findOp core slot op).map (fun o => o.takeSectors r.line (s.memData r.line) m)) ∧
  (∀ (s : State) (r : ScrReq) (m : BitVec 4) (core slot op h : Nat), r ∈ s.flight.scr → r.agent = .load core slot op → r.body = .read m → h = scratchHalf (r.line * 128) →
    s.scratchOk r.agent r.slice r.line = false → r.line ∉ (s.core core).nearOpen →
    ∃ t, exec (.scratchRequest r) s = .next t ∧ t.fld (aLlm h 0x48) 4 1 = 1 ∧ t.fld (aLlm h 0x58) 0 32 = min (s.fld (aLlm h 0x58) 0 32 + 1) (2 ^ 32 - 1) ∧
      t.mem = s.mem ∧ t.halves = s.halves ∧ t.findOp core slot op = (s.findOp core slot op).map (fun o => o.takeSectors r.line onesData m)) ∧
  ∀ (s : State) (c : Contrib) (h o x : Nat), s.flight.contrib = [(h, c)] → Claim.MayServe s c.src → c.lanes = [(o, x)] → isScratch c.line = true → h = scratchHalf (c.line * 128) →
    s.scratchOk c.src c.slice c.line = true → scratchUnit (c.line * 128) ∉ (s.half h).zeroing → Claim.Quiet s h c.line → (s.half h).pend.length < 4096 →
    ∃ t, exec (.addToLineContribution h c) s = .next t ∧ Claim.LlmFrame s t h ∧ Claim.Accepted t c.src ∧ t.flight = { s.flight with contrib := [] } ∧
      (c.key = none → (t.half h).pend = (s.half h).pend ∧ t.mem = s.mem.writeLE (c.line * 128 + o) (atyBytes c.aty)
        (atomOp 0 c.aty (s.mem.readLE (c.line * 128 + o) (atyBytes c.aty)) x 0)) ∧
      (c.key ≠ none → t.mem = s.mem ∧ (t.half h).pend = (s.half h).pend ++ [⟨(s.half h).arrivals, c⟩])

/-- R227, R228, R246, R253, R256, R257, R265, R266, R269, R276, R277: the end of a hold and of a combine window, a corrected error, the detector's
window, zeroing, flush, power and the stream prefetchers. -/
def Obligations.LlmUpkeep : Prop :=
  (∀ (s : State) (h line : Nat) (l : Line), NMap.find? (s.half h).lines line = some l → l.hold = true → l.policy = 0 → (∀ p ∈ (s.half h).pend, p.c.line ≠ line) → s.fld 0x700000 0 2 = 0 →
    ∃ t q, exec (.reductionHoldEnd h line) s = .next t ∧ NMap.find? (t.half h).lines line = some { l with hold := false } ∧ t.mem = s.mem ∧
      t.flight = { s.flight with net := s.flight.net ++ [.holdend q] } ∧ q.line = line ∧ q.src = .half h) ∧
  (∀ (s : State) (h line : Nat), ∃ t, exec (.combineWindowClose h line) s = .next t ∧ (∀ w ∈ (t.half h).windows, w.1 ≠ line) ∧
    (∀ w, w.1 ≠ line → (w ∈ (t.half h).windows ↔ w ∈ (s.half h).windows)) ∧ t.mem = s.mem ∧ t.regs = s.regs) ∧
  (∀ (s : State) (h line i : Nat), h < 64 →
    ∃ t, exec (.llmPatrol h [.sector line i false]) s = .next t ∧ t.fld (aLlm h 0x48) 0 1 = 1 ∧
      t.fld (aLlm h 0x50) 0 32 = min (s.fld (aLlm h 0x50) 0 32 + 1) (2 ^ 32 - 1) ∧ t.errlog.length = min (s.errlog.length + 1) 4096 ∧ t.mem = s.mem ∧ t.halves = s.halves) ∧
  (∀ (s : State) (h c : Nat), c < 8 → s.fld (aLlm h 0x28) 0 1 = 1 → s.fld (aLlm h 0x28) 1 5 ≤ s.punits h → bit (s.fld (aLlm h 0x28) 8 8) c = false →
    (∀ x, x = NMap.get Thrash.init (s.half h).classes c → x.na = false → s.fld (aLlm h 0x28) 24 16 ≤ x.acc → 0 < x.acc → 256 * x.hit / x.acc < s.fld (aLlm h 0x30) (8 * c) 8 →
      ∃ t, exec (.thrashWindowEnd h) s = .next t ∧ (NMap.get Thrash.init (t.half h).classes c).na = true ∧ (NMap.get Thrash.init (t.half h).classes c).acc = 0 ∧
        { t with halves := s.halves } = s)) ∧
  (∀ (s : State) (h u : Nat) (rest : List Nat), (s.half h).zeroing = u :: rest → (∀ q ∈ s.queues, q.2.waits = []) →
    ∃ t, exec (.scratchUnitZeroed h u) s = .next t ∧ { t with halves := s.halves, mem := s.mem, poison := s.poison } = s ∧ t.half h = { s.half h with zeroing := rest } ∧
      ∀ a, (scratchAddr h u 0 ≤ a → a < scratchAddr h u 0 + 2 ^ 22 → t.mem.read a = 0) ∧ ((a < scratchAddr h u 0 ∨ scratchAddr h u 0 + 2 ^ 22 ≤ a) → t.mem.read a = s.mem.read a)) ∧
  (∀ (s : State) (h : Nat), s.fld (aLlm h 0x18) 0 2 = 1 → exec (.llmFlush h) s = .next (s.setFld (aLlm h 0x18) 0 2 2)) ∧
  (∀ (s : State) (h : Nat), s.fld (aLlm h 0x18) 0 2 = 2 →
    ∃ t, exec (.llmFlushDone h) s = .next t ∧ t.fld (aLlm h 0x18) 0 2 = 1 ∧ ((s.half h).lines = [] → (s.half h).pend = [] → { t with regs := s.regs } = s)) ∧
  (∀ (s : State) (h : Nat), s.fld (aLlm h 0x18) 0 2 = 3 → (s.half h).miss = [] →
    ∃ t, exec (.llmPowerOffDone h) s = .next t ∧ t.fld (aLlm h 0x18) 0 2 = 0 ∧ (t.half h).lines = [] ∧ (t.half h).tomb = []) ∧
  (∀ (s : State) (h : Nat), s.fld (aLlm h 0x18) 0 2 = 0 → s.fld (aLlm h 0) 0 1 = 1 →
    ∃ t, exec (.llmPowerUpDone h) s = .next t ∧ t.fld (aLlm h 0x18) 0 2 = 1 ∧ t.half h = { s.half h with lines := [], tomb := [] } ∧ { t with regs := s.regs, halves := s.halves } = s) ∧
  (∀ (s : State) (h i pa n : Nat) (p : Prefetch) (pg : Page), NMap.find? (s.half h).pfs i = some p → s.switched h p.cls = false → p.inflight = [] → p.touched = none → p.next < p.ahead →
    p.next + 1 < p.count → s.translate p.slice (wrap 48 ((p.base : Int) + p.stride * (p.next : Nat))) = some (.mem pa pg) → s.homeNode (pa / 128) = some n → pg.policy = 0 →
    isScratch (pa / 128) = false → NMap.find? (s.half h).lines (pa / 128) = none → (s.half h).miss = [] → (s.half h).used = [] → s.fld 0x700000 0 2 = 0 →
    s.cacheDemand h (pa / 128) = false → s.stopping h = false →
    ∃ t tag, exec (.prefetchFill h i) s = .next t ∧ NMap.find? (t.half h).pfs i = some { p with next := p.next + 1, inflight := [pa / 128] } ∧
      t.flight = { s.flight with net := s.flight.net ++ [.rds ⟨n, .half h, tag, pa / 128⟩] } ∧ t.mem = s.mem) ∧
  ∀ (s : State) (h i : Nat), ∃ t, exec (.streamIdleTimeout h i) s = .next t ∧ { t with halves := s.halves } = s ∧ (∀ k, k ≠ h → t.half k = s.half k) ∧
    NMap.find? (t.half h).pfs i = none ∧ ∀ j, j ≠ i → NMap.find? (t.half h).pfs j = NMap.find? (s.half h).pfs j

namespace Sys2Proof.Claim

/-- A request is the one message on its way to a home in normal service at which nothing else is open (R320). -/
def AtHome (s : State) (i : Instr) (q : CohReq) : Prop :=
  s.flight.net = [i] ∧ s.cohMode q.node = 0 ∧ (s.node q.node).txns = [] ∧ (s.node q.node).waits = [] ∧ (s.node q.node).held = [] ∧
  (s.node q.node).rewriting = [] ∧ s.fld 0x700000 0 2 = 0

/-- No sector of a line is poisoned. -/
def Clean (s : State) (line : Nat) : Prop := ∀ i, i < 4 → s.poisoned (4 * line + i) = false

/-- A home has done its part: only nodes, messages, memory and its poison may differ; the directory entry of the line, the open transactions and
the messages on their way are as given. -/
def HomeDid (s t : State) (q : CohReq) (e : Option DirEnt) (txns : List Txn) (net : List Instr) : Prop :=
  { t with nodes := s.nodes, flight := s.flight, mem := s.mem, poison := s.poison } = s ∧ t.flight = { s.flight with net := net } ∧
  (∀ n, n ≠ q.node → t.node n = s.node n) ∧ (∀ l, l ≠ q.line → t.dirOf q.node l = s.dirOf q.node l) ∧
  t.dirOf q.node q.line = e ∧ (t.node q.node).txns = txns

/-- Data of a line from memory. -/
def MemData (s : State) (q : CohReq) (g : Granted) (acks : Nat) : Instr := .dataMsg ⟨q.src, q.tag, q.node, q.line, g, acks, s.memData q.line, none⟩

end Sys2Proof.Claim

/-- R309, R312, R318, R320, R325 to R327: what the home grants to each request: the directory's new state, the open transaction, the messages, and
what is written to memory. A fine read is a demand access of the stream prefetchers of its half (R227). -/
def Obligations.HomeGrants : Prop :=
  (∀ (s : State) (q : CohReq) (r : Nat), q.src = .half r → Claim.AtHome s (.rds q) q → Claim.Clean s q.line →
    ((s.node q.node).dir = [] → s.missOf q = none →
      ∃ t, exec (.rds q) s = .next t ∧ t.mem = s.mem ∧ Claim.HomeDid s t q (some (.x r q.tag false)) [plainTxn q none] [Claim.MemData s q .e 0]) ∧
    (∀ ps, s.dirOf q.node q.line = some (.s ps) → r ∉ ps → ps.length < 4 →
      ∃ t, exec (.rds q) s = .next t ∧ t.mem = s.mem ∧ Claim.HomeDid s t q (some (.s (ps ++ [r]))) [plainTxn q none] [Claim.MemData s q .s 0]) ∧
    (∀ o tag, s.dirOf q.node q.line = some (.x o tag false) → o ≠ r →
      ∃ t, exec (.rds q) s = .next t ∧ t.mem = s.mem ∧ Claim.HomeDid s t q (some (.s [o, r])) [{ plainTxn q none with data := true }] [.fwds ⟨q.node, o, tag, q.line, q.src, q.tag⟩])) ∧
  (∀ (s : State) (q : CohReq) (r : Nat) (hold : Bool), q.src = .half r → Claim.AtHome s (.rdx q hold) q → Claim.Clean s q.line →
    ((s.node q.node).dir = [] → ∃ t, exec (.rdx q hold) s = .next t ∧ t.mem = s.mem ∧
      Claim.HomeDid s t q (some (.x r q.tag hold)) [plainTxn q none] [Claim.MemData s q .m 0]) ∧
    (∀ ps, s.dirOf q.node q.line = some (.s ps) → r ∉ ps → ∃ t, exec (.rdx q hold) s = .next t ∧ t.mem = s.mem ∧
      Claim.HomeDid s t q (some (.x r q.tag hold)) [plainTxn q none] (ps.map (fun h => Instr.inv h q.line q.node (some q.src)) ++ [Claim.MemData s q .m ps.length])) ∧
    (∀ o tag, s.dirOf q.node q.line = some (.x o tag false) → o ≠ r → ∃ t, exec (.rdx q hold) s = .next t ∧ t.mem = s.mem ∧
      Claim.HomeDid s t q (some (.x r q.tag hold)) [plainTxn q none] [.fwdx ⟨q.node, o, tag, q.line, q.src, q.tag⟩])) ∧
  (∀ (s : State) (q : CohReq) (r : Nat), q.src = .half r → Claim.AtHome s (.rdxn q) q → (s.node q.node).dir = [] →
    ∃ t, exec (.rdxn q) s = .next t ∧ t.mem = s.mem ∧ Claim.HomeDid s t q (some (.x r q.tag false)) [plainTxn q none] [.grant q.src q.tag q.node q.line 0]) ∧
  (∀ (s : State) (q : CohReq), Claim.AtHome s (.rdna q) q → Claim.Clean s q.line → s.dirOf q.node q.line = none →
    ∃ t, exec (.rdna q) s = .next t ∧ t.mem = s.mem ∧ Claim.HomeDid s t q none [plainTxn q none] [Claim.MemData s q .none 0]) ∧
  (∀ (s : State) (q : CohReq) (i : Nat), Claim.AtHome s (.rdfine q i) q → Claim.Clean s q.line → s.dirOf q.node q.line = none →
    ∃ t d, exec (.rdfine q i) s = .next t ∧ t.mem = s.mem ∧ (∀ h, { t.half h with pfs := (s.half h).pfs } = s.half h) ∧
      Claim.HomeDid { s with halves := t.halves } t q none [plainTxn q none] [.dataMsg ⟨q.src, q.tag, q.node, q.line, .none, 0, d, none⟩] ∧
      ∀ j, j < 4 → d.sec.getD j none = if j = i % 4 then some (s.memSector (4 * q.line + j)) else none) ∧
  (∀ (s : State) (q : CohReq) (bs : List (Nat × Byte)), Claim.AtHome s (.wrna q bs) q → s.dirOf q.node q.line = none →
    ∃ t, exec (.wrna q bs) s = .next t ∧ Claim.HomeDid s t q none [] [.cmp q.src q.tag q.node q.line false] ∧
      t.mem = bs.foldl (fun (m : Mem) b => m.write (128 * q.line + b.1) b.2) s.mem) ∧
  (∀ (s : State) (q : CohReq) (r i : Nat) (hold : Bool) (d : LineData) (v : W256), q.src = .half r → Claim.AtHome s (.putm q d) q →
    s.dirOf q.node q.line = some (.x r q.tag hold) → i < 4 → d.dirty = 1#4 <<< i → d.sec.getD i none = some v → d.poison = 0 →
    ∃ t, exec (.putm q d) s = .next t ∧ Claim.HomeDid s t q none [] [.cmp q.src q.tag q.node q.line false] ∧ t.memSector (4 * q.line + i) = v ∧
      ∀ a, (a < 32 * (4 * q.line + i) ∨ 32 * (4 * q.line + i) + 32 ≤ a) → t.mem.read a = s.mem.read a) ∧
  (∀ (s : State) (q : CohReq) (r : Nat) (hold : Bool), q.src = .half r → Claim.AtHome s (.dropm q) q → s.dirOf q.node q.line = some (.x r q.tag hold) →
    ∃ t, exec (.dropm q) s = .next t ∧ t.mem = s.mem ∧ Claim.HomeDid s t q none [] [.cmp q.src q.tag q.node q.line false]) ∧
  (∀ (s : State) (q : CohReq), Claim.AtHome s (.dropm q) q → s.dirOf q.node q.line = none →
    ∃ t, exec (.dropm q) s = .next t ∧ t.mem = s.mem ∧ Claim.HomeDid s t q none [] [.cmp q.src q.tag q.node q.line true]) ∧
  (∀ (s : State) (q : CohReq) (r tag : Nat), q.src = .half r → Claim.AtHome s (.holdend q) q → s.dirOf q.node q.line = some (.x r tag true) →
    ∃ t, exec (.holdend q) s = .next t ∧ t.mem = s.mem ∧ Claim.HomeDid s t q (some (.x r tag false)) [] [.cmp q.src q.tag q.node q.line false]) ∧
  ∀ (s : State) (q : CohReq) (r : Nat) (a : AtomReq), q.src = .half r → Claim.AtHome s (.atomRequest q a) q → (s.node q.node).dir = [] → (s.node q.node).far = [] →
    s.fld (aCoh q.node 8) 0 2 = 2 →
    ∃ t, exec (.atomRequest q a) s = .next t ∧ t.mem = s.mem.writeLE a.addr (atyBytes a.aty) (atomLanes a.aop a.aty (s.mem.readLE a.addr (atyBytes a.aty)) a.lanes).1 ∧
      Claim.HomeDid s t q (some (.h r)) [⟨q.line, q.src, q.tag, none, 0, false, .nothing, true⟩]
        [.atomret q.src q.tag q.node q.line (atomLanes a.aop a.aty (s.mem.readLE a.addr (atyBytes a.aty)) a.lanes).2 (s.poisoned (a.addr / 32))] ∧ (t.node q.node).far = [q.line]

namespace Sys2Proof.Claim

/-- A message is the one on its way, and interfaces inject (R342). -/
def Alone (s : State) (i : Instr) : Prop := s.flight.net = [i] ∧ s.fld 0x700000 0 2 = 0

/-- A forward finds the owned line under its owner tag, with nothing pending and no window (R317). -/
def Owned (s : State) (f : Fwd) (l : Line) : Prop :=
  NMap.find? (s.half f.half).lines f.line = some l ∧ l.st ≠ .s ∧ l.tag = f.otag ∧ (∀ p ∈ (s.half f.half).pend, p.c.line ≠ f.line) ∧
  (∀ w ∈ (s.half f.half).windows, w.1 ≠ f.line) ∧ (∀ m ∈ (s.half f.half).miss, m.line ≠ f.line) ∧ (s.half f.half).parked = []

/-- The line's content at its owner. -/
def content (s : State) (f : Fwd) (l : Line) : LineData := s.wholeLine f.line ⟨l.sec, l.poison, l.dirty⟩

/-- A half has answered: only halves and messages differ, the messages on their way are as given, and the line of the forward is. -/
def Answered (s t : State) (f : Fwd) (l : Option Line) (net : List Instr) : Prop :=
  { t with halves := s.halves, flight := s.flight } = s ∧ (∀ h, h ≠ f.half → t.half h = s.half h) ∧ t.flight = { s.flight with net := net } ∧
  NMap.find? (t.half f.half).lines f.line = l ∧ ∀ x, x ≠ f.line → NMap.find? (t.half f.half).lines x = NMap.find? (s.half f.half).lines x

end Sys2Proof.Claim

/-- R315 to R321, R313, R330, R332: a forward is served by the owner, answered with NoData where nothing is found, or parked; Inv, Data, Grant, Ack,
NoData, WbData, AtomRet, Done and Cmp at their receivers; a promotion. -/
def Obligations.HalvesAndAnswers : Prop :=
  (∀ (s : State) (f : Fwd) (l : Line), Claim.Owned s f l →
    (Claim.Alone s (.fwds f) → ∃ t, exec (.fwds f) s = .next t ∧
      Claim.Answered s t f (some { l with st := .s, hold := false, dirty := 0, sec := (Claim.content s f l).sec, poison := (Claim.content s f l).poison })
        [.dataMsg ⟨f.src, f.tag, f.node, f.line, .s, 0, { Claim.content s f l with dirty := 0 }, some f.half⟩, .wbdata f .fwds (Claim.content s f l)]) ∧
    (Claim.Alone s (.fwdx f) → ∃ t, exec (.fwdx f) s = .next t ∧ Claim.Answered s t f none [.dataMsg ⟨f.src, f.tag, f.node, f.line, .m, 0, Claim.content s f l, some f.half⟩]) ∧
    (Claim.Alone s (.fwdrd f) → ∃ t, exec (.fwdrd f) s = .next t ∧
      Claim.Answered s t f (some l) [.dataMsg ⟨f.src, f.tag, f.node, f.line, .none, 0, { Claim.content s f l with dirty := 0 }, some f.half⟩]) ∧
    (Claim.Alone s (.recall f) → ∃ t, exec (.recall f) s = .next t ∧ Claim.Answered s t f none [.wbdata f .recall (Claim.content s f l)]) ∧
    (Claim.Alone s (.fwdop f (.body (.read 15))) → ∃ t d, exec (.fwdop f (.body (.read 15))) s = .next t ∧
      Claim.Answered s t f (some l) [.dataMsg ⟨f.src, f.tag, f.node, f.line, .none, 0, d, some f.half⟩] ∧ ∀ i, i < 4 → d.sec.getD i none = (Claim.content s f l).sec.getD i none)) ∧
  (∀ (s : State) (f : Fwd), s.lookup f = .nothing → (s.half f.half).parked = [] → Claim.Alone s (.fwdx f) →
    ∃ t, exec (.fwdx f) s = .next t ∧ { t with nodes := s.nodes, flight := s.flight } = s ∧ t.flight = { s.flight with net := [.nodata f .fwdx] }) ∧
  (∀ (s : State) (f : Fwd), s.lookup f = .miss → Claim.Alone s (.fwdx f) →
    ∃ t, exec (.fwdx f) s = .next t ∧ { t with halves := s.halves, flight := s.flight } = s ∧ t.flight = { s.flight with net := [] } ∧
      t.half f.half = { s.half f.half with parked := (s.half f.half).parked ++ [(f.line, f, .fwdx)] }) ∧
  (∀ (s : State) (f : Fwd) (h : Nat), h = f.half → (s.half h).parked = [(f.line, f, .fwdx)] → (s.half h).miss = [] → s.lookup f = .nothing →
    ∃ t, exec (.parkedForwardServed h f.line) s = .next t ∧ (t.half h).parked = [] ∧ t.flight = { s.flight with net := s.flight.net ++ [.nodata f .fwdx] } ∧ t.mem = s.mem) ∧
  (∀ (s : State) (h line node : Nat) (p : Option Party) (l : Line), NMap.find? (s.half h).lines line = some l → l.st = .s → (s.half h).windows = [] → (s.half h).miss = [] →
    Claim.Alone s (.inv h line node p) →
    ∃ t, exec (.inv h line node p) s = .next t ∧ { t with halves := s.halves, flight := s.flight } = s ∧ t.flight = { s.flight with net := [.ack h line node p] } ∧
      t.half h = { s.half h with lines := NMap.del (s.half h).lines line }) ∧
  (∀ (s : State) (m : Miss) (h tag line : Nat) (g : Granted) (d : LineData) (o : Option Nat), (s.half h).miss = [m] → m.line = line → m.tag = tag → m.reqs = [] → m.contribs = [] → m.acks = 0 →
    m.dropped = false → (s.half h).lines = [] → (s.half h).zeroing = [] → s.punits h = 0 → s.stopping h = false → g ≠ .none →
    (Claim.Alone s (.dataMsg ⟨.half h, tag, s.homeOf line, line, g, 0, d, o⟩) →
      ∃ t l, exec (.dataMsg ⟨.half h, tag, s.homeOf line, line, g, 0, d, o⟩) s = .next t ∧ { t with halves := s.halves, flight := s.flight } = s ∧ (t.half h).miss = [] ∧
        t.flight = { s.flight with net := [.doneMsg (.half h) (s.homeOf line) line] } ∧ NMap.find? (t.half h).lines line = some l ∧
        l.st = (match g with | .s => .s | .e => .e | _ => .m) ∧ l.sec = d.sec ∧ l.poison = d.poison ∧ l.dirty = d.dirty ∧ l.tag = tag ∧ l.hold = m.hold) ∧
    (Claim.Alone s (.grant (.half h) tag (s.homeOf line) line 0) →
      ∃ t l, exec (.grant (.half h) tag (s.homeOf line) line 0) s = .next t ∧ { t with halves := s.halves, flight := s.flight } = s ∧ (t.half h).miss = [] ∧
        t.flight = { s.flight with net := [.doneMsg (.half h) (s.homeOf line) line] } ∧ NMap.find? (t.half h).lines line = some l ∧ l.st = .m ∧ l.tag = tag)) ∧
  (∀ (s : State) (m : Miss) (x h line node : Nat), (s.half h).miss = [m] → m.line = line → m.got = none → Claim.Alone s (.ack x line node (some (.half h))) →
    ∃ t, exec (.ack x line node (some (.half h))) s = .next t ∧ { t with halves := s.halves, flight := s.flight } = s ∧ (t.half h).miss = [{ m with acks := m.acks + 1 }]) ∧
  (∀ (s : State) (q : CohReq) (x : Nat) (bs : List (Nat × Byte)), Claim.Alone s (.ack x q.line q.node none) → s.cohMode q.node = 0 → (s.node q.node).waits = [] → (s.node q.node).held = [] →
    (s.node q.node).txns = [⟨q.line, q.src, q.tag, none, 1, false, .write bs, false⟩] →
    ∃ t, exec (.ack x q.line q.node none) s = .next t ∧ Claim.HomeDid s t q (s.dirOf q.node q.line) [] [.cmp q.src q.tag q.node q.line false] ∧
      t.mem = bs.foldl (fun (m : Mem) b => m.write (128 * q.line + b.1) b.2) s.mem) ∧
  (∀ (s : State) (f : Fwd), Claim.Alone s (.nodata f .fwdrd) → Claim.Clean s f.line →
    ∃ t, exec (.nodata f .fwdrd) s = .next t ∧ { t with nodes := s.nodes, flight := s.flight } = s ∧
      t.flight = { s.flight with net := [Claim.MemData s ⟨f.node, f.src, f.tag, f.line⟩ .none 0] }) ∧
  (∀ (s : State) (f : Fwd) (i : Nat) (d : LineData) (v : W256), Claim.Alone s (.wbdata f .fwds d) → s.cohMode f.node = 0 → (s.node f.node).waits = [] → (s.node f.node).held = [] →
    (s.node f.node).txns = [{ plainTxn ⟨f.node, f.src, f.tag, f.line⟩ none with data := true }] → i < 4 → d.dirty = 1#4 <<< i → d.sec.getD i none = some v → d.poison = 0 →
    ∃ t, exec (.wbdata f .fwds d) s = .next t ∧ Claim.HomeDid s t ⟨f.node, f.src, f.tag, f.line⟩ (s.dirOf f.node f.line) [plainTxn ⟨f.node, f.src, f.tag, f.line⟩ none] [] ∧
      t.memSector (4 * f.line + i) = v) ∧
  (∀ (s : State) (src : Party) (node line tag : Nat), Claim.Alone s (.doneMsg src node line) → s.cohMode node = 0 → (s.node node).waits = [] → (s.node node).held = [] →
    (s.node node).txns = [plainTxn ⟨node, src, tag, line⟩ none] →
    ∃ t, exec (.doneMsg src node line) s = .next t ∧ t.mem = s.mem ∧ Claim.HomeDid s t ⟨node, src, tag, line⟩ (s.dirOf node line) [] []) ∧
  (∀ (s : State) (m : Miss) (r : LlmReq) (a : AtomReq) (h tag node line core slot op : Nat) (vals : List (Nat × Nat)) (poison : Bool), (s.half h).miss = [m] → m.line = line → m.tag = tag →
    m.reqs = [r] → m.contribs = [] → r.body = .atom a → r.agent = .load core slot op → Claim.Alone s (.atomret (.half h) tag node line vals poison) →
    ∃ t, exec (.atomret (.half h) tag node line vals poison) s = .next t ∧ { t with halves := s.halves, flight := s.flight, cores := s.cores } = s ∧ (t.half h).miss = [] ∧
      t.flight = { s.flight with net := [.doneMsg (.half h) node line] } ∧
      t.findOp core slot op = (s.findOp core slot op).map (fun o => { o with wait := o.wait.erase a.addr, rets := vals.foldl (fun m v => NMap.set 0 m v.1 v.2) o.rets, poison := if poison then (a.addr / 32) :: o.poison else o.poison })) ∧
  (∀ (s : State) (h tag node line : Nat) (b : WbBuf), (s.half h).miss = [] → (s.half h).wb = [b] → b.line = line → b.tag = tag → Claim.Alone s (.cmp (.half h) tag node line false) →
    ∃ t, exec (.cmp (.half h) tag node line false) s = .next t ∧ { t with halves := s.halves, flight := s.flight } = s ∧ t.half h = { s.half h with wb := [] }) ∧
  ∀ (s : State) (n : Nat), ∃ t, exec (.requestPromotion (.lane n)) s = .next t ∧ { t with nodes := s.nodes } = s ∧ (∀ k, k ≠ n → t.node k = s.node k) ∧
    NMap.get 0 (t.node n).counts 8 = NMap.get 0 (s.node n).counts 8 + 1

/-- R323, R324: a regime switch that has drained, one that is too slow, and the scan of a directory after a loss; R290, R291, R300 to R305: scrub,
refresh, temperature, retirement and the rewriting of frames at a node. A burst read for another address, with two or three bad symbols or with a
CRC that does not match is poisoned; one bad symbol is corrected. -/
def Obligations.NodesSwitchScanAndScrub : Prop :=
  (∀ (s : State) (n : Nat), s.cohMode n = 2 → (s.node n).txns = [] → (s.node n).waits = [] → s.halves = [] → (s.node n).next < 2 →
    ∃ t, exec (.regimeSwitchDrained n) s = .next t ∧ t.cohMode n = (s.node n).next ∧ (∀ a, a ≠ aCoh n 0 → t.reg a = s.reg a) ∧ t.mem = s.mem ∧ t.flight = s.flight) ∧
  (∀ (s : State) (n : Nat), s.cohMode n = 2 → (s.node n).lost = [] →
    ∃ t, exec (.switchslow n) s = .next t ∧ t.cores = [] ∧ t.mem = [] ∧ t.nodes = [] ∧ t.fld aCfgBoot 8 4 = 2 ∧ t.fld aCfgBoot 0 4 = 3 ∧ t.phase ≠ .ready) ∧
  (∀ (s : State) (n line o tag : Nat) (hold : Bool), (s.node n).lost = [o] → (s.node n).dir = [(line, .x o tag hold)] → (s.node n).waits = [] → (s.node n).held = [] →
    ∃ t, exec (.directoryScanDone n) s = .next t ∧ t.dirOf n line = none ∧ (t.node n).lost = [] ∧ (∀ i, i < 4 → t.poisoned (4 * line + i) = true) ∧ t.mem = s.mem ∧
      t.fld (aCoh n 0x40) 2 1 = 1) ∧
  (∀ (s : State) (sector n c f : Nat), s.place (32 * sector) = some (n, c, f) → n < 18 →
    (∃ t, exec (.scrubRead sector ⟨0, 0, none⟩ true) s = .next t ∧ t = s.setFld (aMem n 0x20) 0 32 ((s.fld (aMem n 0x20) 0 32 + 1) % 2 ^ 32)) ∧
    (∀ x : BurstRead, s.poisoned sector = false → s.detecting sector = false → (x.written = none ∨ x.written = some sector) → (badPins x).length = 1 →
      ∃ t, exec (.scrubRead sector x false) s = .next t ∧ t.fld (aMem n 0x28) 0 1 = 1 ∧
      t.fld (aMem n 0x30) 0 32 = min (s.fld (aMem n 0x30) 0 32 + 1) (2 ^ 32 - 1) ∧ t.mem = s.mem ∧ t.poison = s.poison) ∧
    ∀ x : BurstRead, s.poisoned sector = false →
      (if s.detecting sector then burstCrc (s.memSector (x.written.getD sector) ^^^ x.data) ((s.sideBits (x.written.getD sector) ^^^ x.side.toNat) / 2 ^ 16) sector ≠
          (s.sideBits (x.written.getD sector) ^^^ x.side.toNat) % 2 ^ 16
       else x.written.getD sector ≠ sector ∨ (badPins x).length = 2 ∨ (badPins x).length = 3) → (∃ t, exec (.scrubRead sector x false) s = .next t ∧ t.poisoned sector = true ∧ t.mem = s.mem ∧ t.fld (aMem n 0x28) 1 1 = 1)) ∧
  (∀ (s : State) (n c b : Nat), ∃ t, exec (.refresh n c b) s = .next t ∧ { t with nodes := s.nodes } = s ∧ (∀ k, k ≠ n → t.node k = s.node k) ∧
    { t.node n with refreshes := (s.node n).refreshes } = s.node n ∧ NMap.get 0 (t.node n).refreshes (64 * c + b) = NMap.get 0 (s.node n).refreshes (64 * c + b) + 1) ∧
  (∀ (s : State) (n temp : Nat), n < 18 → temp < 100 → ∃ t, exec (.stackTemperatureReading n temp) s = .next t ∧ t.fld (aMem n 8) 8 8 = temp ∧
    t.fld (aMem n 8) 2 2 = thermState (s.fld (aMem n 8) 2 2) temp ∧ (thermState (s.fld (aMem n 8) 2 2) temp = 2 → s.fld (aMem n 8) 2 2 ≠ 2 → t.fld (aErr 0) 0 1 = 1) ∧
    { t with regs := s.regs } = s) ∧
  (∀ (s : State) (n : Nat), n < 18 → s.fld (aMem n 8) 0 2 = 2 → ∃ t, exec (.nodeRetired n) s = .next t ∧ t.fld (aMem n 8) 0 2 = 3 ∧ t.rlog.retired = n :: s.rlog.retired ∧
    ∀ a, (0x20000000000 + n * 2 ^ 36 ≤ a → a < 0x20000000000 + n * 2 ^ 36 + 2 ^ 36 → t.mem.read a = 0) ∧
      ((a < 0x20000000000 + n * 2 ^ 36 ∨ 0x20000000000 + n * 2 ^ 36 + 2 ^ 36 ≤ a) → t.mem.read a = s.mem.read a)) ∧
  ∀ (s : State) (n frame : Nat) (south : Bool), n < 18 → (s.node n).rewriting = [(frame, south)] →
    ∃ t, exec (.frameRewriteDone n frame south) s = .next t ∧ (t.node n).rewriting = [] ∧ t.fld (aMem n 8) 4 1 = 0 ∧
      ∀ a, t.mem.read a = if s.storedAt n (fun f b => f == frame && b == south) a then 0 else s.mem.read a

namespace Sys2Proof.Claim

/-- A link of an edge that faces a die (R334). -/
def IsLink (s : State) (d e l : Nat) : Prop := l < 8 ∧ (facing d e).isSome = true ∧ s.sites.length = 32

/-- Another link of the edge is not down, so that the edge keeps a link. -/
def OtherLink (s : State) (d e l : Nat) : Prop := ∃ k, k < 8 ∧ k ≠ l ∧ (s.blink d e k).mode ≠ 0

end Sys2Proof.Claim

/-- R342, R352 to R361, R369: replays are counted, links retrain and resume, routes are repaired under quiesce, a drain that is too slow
resets the module, a freed branch of a REQ channel (R353) is counted, a Bugle link is taken down. -/
def Obligations.BridgeLinksAndRoutes : Prop :=
  (∀ (s : State) (d e l w : Nat), Claim.IsLink s d e l → (s.blink d e l).mode ≠ 0 → (s.blink d e l).replays = [] → s.windowOf d = some w →
    ∃ t, exec (.bridgeReplay d e l) s = .next t ∧ t.blink d e l = { s.blink d e l with replays := [s.time.toNat] } ∧
      t.fld (aDie w (0x30 + 8 * e)) (8 * l) 8 = min (s.fld (aDie w (0x30 + 8 * e)) (8 * l) 8 + 1) 255 ∧ { t with mesh := s.mesh, regs := s.regs, errlog := s.errlog, free := s.free } = s) ∧
  (∀ (s : State) (d e l : Nat), Claim.IsLink s d e l → (s.blink d e l).mode ≠ 3 →
    exec (.linkRetrain d e l) s = .next (s.putLink d e l { s.blink d e l with mode := 3, was := (s.blink d e l).mode })) ∧
  (∀ (s : State) (d e l k : Nat), Claim.IsLink s d e l → (s.blink d e l).mode ≠ 0 → (s.blink d e l).mode ≠ 3 → k < 68 →
    ∃ t, exec (.laneFailed d e l k) s = .next t ∧
      t.blink d e l = { s.blink d e l with mode := 3, was := (s.blink d e l).mode, lanes := (s.blink d e l).lanes &&& ~~~(1#72 <<< k) } ∧ { t with mesh := s.mesh, regs := s.regs } = s) ∧
  (∀ (s : State) (d e l k : Nat), Claim.IsLink s d e l → (s.blink d e l).mode ≠ 0 → 68 ≤ k → k < 72 → Claim.OtherLink s d e l →
    ∃ t, exec (.laneFailed d e l k) s = .next t ∧ t.blink d e l = ⟨0, 0, 0, (s.blink d e l).lanes &&& ~~~(1#72 <<< k), []⟩) ∧
  (∀ (s : State) (d e l : Nat), Claim.IsLink s d e l → (s.blink d e l).mode ≠ 0 → (s.blink d e l).mode ≠ 3 →
    1024 ≤ (s.blink d e l).replays.countP (fun t => decide (s.time.toNat < t + 1000000)) → ∃ t, exec (.bridgeReplay d e l) s = .next t ∧ (t.blink d e l).mode = 3) ∧
  (∀ (s : State) (d e l m sp : Nat) (good : BitVec 72), Claim.IsLink s d e l → (s.blink d e l).mode = 3 → linkMode good = (m, sp) →
    (m = (s.blink d e l).was → exec (.linkRetrainDone d e l good) s = .next (s.putLink d e l ⟨m, m, sp, good, []⟩)) ∧
    ∀ w, m ≠ (s.blink d e l).was → s.windowOf d = some w → m ≠ 0 ∨ Claim.OtherLink s d e l →
      ∃ t, exec (.linkRetrainDone d e l good) s = .next t ∧ t.blink d e l = ⟨m, m, sp, good, []⟩ ∧ t.reg (aNet 0x10) = w + e * 2 ^ 6 + l * 2 ^ 8 + m * 2 ^ 11 + 2 ^ 63) ∧
  (∀ (s : State) (host w i : Nat), w < 56 → i < 32 → Claim.ManagerMay s host (aDie w 0x28) →
    exec (.netLinkCtrlRetrain host w (2 ^ i)) s = .next (s.startRetrain (s.dieOfWindow w) (i / 8) (i % 8))) ∧
  (∀ (s : State) (r : Option MeshRoutes), s.edgeDown = false → exec (.routeRepair r) s = .next s) ∧
  (∀ (s : State), s.fld (aNet 0) 0 2 = 0 → s.edgeDown = true →
    exec (.routeRepair none) s = .next (s.moduleReset 2) ∧
    ∀ r, s.routesBad r = none → s.commit = none → s.fld aCommitStatus 0 2 ≠ 1 →
      ∃ t, exec (.routeRepair (some r)) s = .next t ∧ t.commit = some ⟨s.nextEpoch, 0, true, some r, [], none, false⟩ ∧ t.fld (aNet 0) 0 2 = 2 ∧
        t.flight.net = s.flight.net ++ [.quiesce (bugleTo 3 s.actDie 63) true, .modeMsg (bugleTo 4 s.actDie 63) true]) ∧
  (∀ (s : State) (c : Commit), s.commit = some c → c.sent = false → s.fld (aNet 0) 0 2 ≠ 0 → (∀ d, d < 60 → NMap.get 0 s.dieState d = 7 ∨ d ∈ s.mesh.drained) → s.flight.net.any onMesh = false →
    ∃ t v, exec .meshDrained s = .next t ∧ t.commit = some { c with instant := s.time.toNat + 1000 + v, sent := true } ∧
      ∀ d, d < 60 → .commitMsg (bugleTo 1 s.actDie 63) d c.epoch (s.time.toNat + 1000 + v) ∈ t.flight.net) ∧
  (∀ (s : State) (c : Commit), s.commit = some c → c.sent = false → s.fld (aNet 0) 0 2 ≠ 0 → exec .qslow s = .next ((s.flag (aNet 0x20) 2).moduleReset 2)) ∧
  (∀ (s : State) (a b : Nat), s.fld (aNet 0) 0 2 = 0 → (s.vetchOf a).done.isSome = true → ∃ t, exec (.multicastConversion a b) s = .next t ∧ { t with regs := s.regs, flight := s.flight } = s ∧
    t.flight = { s.flight with net := s.flight.net ++ [.conversionNotice a b] } ∧ t.fld (aNet 8) 0 32 = min (s.fld (aNet 8) 0 32 + 1) (2 ^ 32 - 1)) ∧
  (∀ (s : State) (a b : Nat), .conversionNotice a b ∈ s.flight.net → exec (.conversionNotice a b) s = .next (s.take (.conversionNotice a b))) ∧
  ∀ (s : State) (d e : Nat) (p : Nat × Nat), facing d e = some p → s.mesh.bugleDown = [] →
    ∃ t k, exec (.bugleLinkDown d e) s = .next t ∧ { t with mesh := s.mesh, regs := s.regs } = s ∧ t.mesh = { s.mesh with bugleDown := [k] } ∧ t.fld (aNet 0x20) 4 1 = 1

/-- R9, R323, R324, R331, R342, R363, R370, R371, R392, R420, R421, R425, R518, R526, R528, R540, R546: what each broadcast or report that agrees with R366 does where it arrives, and
the instant of a commit. -/
def Obligations.BroadcastsAndCommitInstant : Prop :=
  (∀ (s : State) (b : Bugle) (d epoch instant : Nat), bugleOk 1 b = true →
    (s.time.toNat ≤ instant → exec (.commitMsg b d epoch instant) s = .next (s.take (.commitMsg b d epoch instant))) ∧
    (instant < s.time.toNat → exec (.commitMsg b d epoch instant) s = .next (((s.take (.commitMsg b d epoch instant)).flag (aNet 0x20) 3).moduleReset 2))) ∧
  (∀ (s : State) (c : Commit) (v : W64), s.commit = some c → c.sent = true → c.instant ≤ s.time.toNat → c.repair = false → c.epoch < 2 ^ 32 → s.staged = [(0x240000, v)] →
    s.stagedMesh = none → s.repairs = [] →
    ∃ t, exec .commitInstant s = .next t ∧ t.commit = none ∧ t.staged = [] ∧ t.reg 0x240000 &&& accMask 0x240000 .st = v.toNat &&& accMask 0x240000 .st ∧
      t.fld aCommitStatus 32 32 = c.epoch ∧ t.fld aCommitStatus 0 4 = 4 ∧ t.reg 0x20 = c.instant) ∧
  (∀ (s : State) (c : Commit) (m : Nat), s.commit = some c → c.sent = true → c.instant ≤ s.time.toNat → c.repair = true → c.epoch < 2 ^ 32 → c.moves = [] → c.routes = none →
    c.mask = some m → m < 2 ^ 64 → s.repairs = [] → s.commitState = 0 →
    ∃ t, exec .commitInstant s = .next t ∧ { t with regs := s.regs, commit := s.commit } = s ∧ t.commit = none ∧ t.reg (aCoh 0 0x50) = m ∧
      t.fld aCommitStatus 32 32 = c.epoch ∧ t.reg 0x20 = c.instant) ∧
  (∀ (s : State) (b : Bugle) (d value : Nat), bugleOk 2 b = true → d < 60 →
    ∃ t, exec (.timeMsg b d value) s = .next t ∧ { t with mesh := s.mesh, regs := s.regs, flight := s.flight } = s ∧
      NMap.get 0 t.mesh.skew d = NMap.get 0 s.mesh.skew d + Int.sign (((value + Config.freeValue 44 d : Nat) : Int) - ((s.time.toNat : Int) + NMap.get 0 s.mesh.skew d)) ∧
      ∀ k, k ≠ d → NMap.get 0 t.mesh.skew k = NMap.get 0 s.mesh.skew k) ∧
  (∀ (s : State) (b : Bugle), bugleOk 3 b = true →
    (s.fld (aNet 0) 0 2 = 0 → ∃ t, exec (.quiesce b true) s = .next t ∧ t.fld (aNet 0) 0 2 = 1 ∧ t.mesh = { s.mesh with drained := [] } ∧ { t with regs := s.regs, mesh := s.mesh, flight := s.flight } = s) ∧
    (s.commit = none → ∃ t, exec (.quiesce b false) s = .next t ∧ t.fld (aNet 0) 0 2 = 0 ∧ t.mesh = { s.mesh with held := [], drained := [] } ∧
      t.flight = { s.flight with net := s.flight.net.erase (.quiesce b false) ++ s.mesh.held } ∧ { t with regs := s.regs, mesh := s.mesh, flight := s.flight } = s)) ∧
  (∀ (s : State) (b : Bugle) (blocking : Bool), bugleOk 4 b = true →
    ∃ t, exec (.modeMsg b blocking) s = .next t ∧ t.mem = s.mem ∧ ∀ n, n < 18 → t.cohMode n = 2 ∧ t.node n = { s.node n with next := blocking.toNat }) ∧
  (∀ (s : State) (b : Bugle) (h : Nat), bugleOk 5 b = true →
    ∃ t, exec (.lost b [h]) s = .next t ∧ (∀ n, n < 18 → t.cohMode n = 1 ∧ (t.node n).lost = [h] ∧ (t.node n).dir = (s.node n).dir) ∧ (t.vetchOf h).done = none ∧ t.mem = s.mem) ∧
  (∀ (s : State) (b : Bugle) (d : Nat), bugleOk 6 b = true →
    ∃ t, exec (.trip b d) s = .next t ∧ t.phase = .tripped ∧ d ∈ t.trips ∧ t.cores = [] ∧ t.mem = [] ∧ t.fld aCfgBoot 8 4 = 3 ∧ ∀ sl, sl < 64 → t.jobOf sl = 0) ∧
  (∀ (s : State) (b : Bugle) (d watts period : Nat) (cap slow : Bool), bugleOk 0x10 b = true → s.present d = true →
    exec (.budget b d watts period cap slow) s = .next ((s.take (.budget b d watts period cap slow)).putDiePower d
      { s.diePower d with watts := watts, period := period, capped := cap, slow := slow, missed := 0, loans := 0 })) ∧
  (∀ (s : State) (b : Bugle) (d watts : Nat), bugleOk 0x11 b = true → s.present d = true → 2 * ((s.diePower d).loans + watts) ≤ (s.diePower d).watts →
    exec (.lend b d watts (s.fld (aPwr 0x20) 24 16)) s = .next ((s.take (.lend b d watts (s.fld (aPwr 0x20) 24 16))).putDiePower d { s.diePower d with loans := (s.diePower d).loans + watts })) ∧
  (∀ (s : State) (b : Bugle) (d watts period : Nat), bugleOk 0x11 b = true → period ≠ s.fld (aPwr 0x20) 24 16 →
    exec (.lend b d watts period) s = .next (s.take (.lend b d watts period))) ∧
  (∀ (s : State) (b : Bugle) (src clock cause : Nat), bugleOk 0x12 b = true → s.notices = [] → src < 2 ^ 15 → 0 < clock → clock < 2 ^ 11 →
    ∃ t, exec (.pace b src clock cause) s = .next t ∧ { t with notices := s.notices, regs := s.regs, flight := s.flight } = s ∧ t.notices = [(src, clock, s.time.toNat)] ∧
      t.fld (aLnk 0x20) 22 15 = src ∧ t.fld (aLnk 0x20) 11 11 = if s.fld (aLnk 0x18) 1 1 = 1 then max (s.fld (aLnk 0x18) 2 11) (clock / 25 * 25) else 0) ∧
  (∀ (s : State) (b : Bugle), bugleOk 0x17 b = true → 54 ≤ b.src →
    (∃ t, exec (.linkctl b true) s = .next t ∧ b.src ∈ t.mesh.drained ∧ { t with mesh := s.mesh, flight := s.flight } = s) ∧
    ∃ t, exec (.linkctl b false) s = .next t ∧ t.mesh = { s.mesh with moving := s.mesh.moving.filter fun k => k / 4 != b.src } ∧ { t with mesh := s.mesh, flight := s.flight } = s) ∧
  (∀ (s : State) (b : Bugle) (r : ErrReport), bugleOk 0x20 b = true → r.sev < 8 → r.block < 16 → r.code < 2 ^ 16 → (∀ x, r.slice = some x → x < 64) → r.found = .nothing →
    ∃ t, exec (.errMsg b r) s = .next t ∧ t.errlog = (s.recWords ⟨r.sev, r.block, r.code, r.die, r.unit, r.slice, r.pa, r.detail⟩ :: s.errlog).take 4096 ∧
      t.reg (aErr 8) = (s.reg (aErr 8) + 1) % 2 ^ 32 ∧ (r.sev = 4 ∨ r.sev = 5 → t.fld (aErr 0) 0 1 = 1) ∧ { t with errlog := s.errlog, errSaved := s.errSaved, regs := s.regs, flight := s.flight, out := s.out } = s) ∧
  (∀ (s : State) (b : Bugle) (r : ErrReport), bugleOk 0x20 b = true →
    (r.found = .flitCe → ∃ t, exec (.errMsg b r) s = .next t ∧ t.fld (aNet 0x20) 0 1 = 1 ∧
      t.fld (aNet 0x28) 0 32 = min (s.fld (aNet 0x28) 0 32 + 1) (2 ^ 32 - 1) ∧ t.mem = s.mem) ∧
    (∀ q no, r.found = .queueUe q no → q < 512 → s.qEn q = true → (∃ i ∈ (s.queue q).items, i.no = no ∧ i.poison = false) →
      ∃ t, exec (.errMsg b r) s = .next t ∧ t.fld (aCqG 0x50) 2 1 = 1 ∧ (t.queue q).items = (s.queue q).items.map fun i => if i.no = no then { i with poison := true } else i) ∧
    (∀ p, r.found = .fecCe p → p < 16 →
      ∃ t, exec (.errMsg b r) s = .next t ∧ t.fld (aPort p 0x10) 0 24 = min (s.fld (aPort p 0x10) 0 24 + 1) (2 ^ 24 - 1) ∧ t.mem = s.mem) ∧
    ∀ n line, r.found = .farUe n line → line ∈ (s.node n).far → n < 18 → ∃ t, exec (.errMsg b r) s = .next t ∧ t.dirOf n line = none ∧ t.fld (aCoh n 0x40) 1 1 = 1 ∧
      t.mem = s.mem ∧ t.fld (aMem n 0x38) 0 44 = 128 * line % 2 ^ 44 ∧ ∀ i, i < 4 → t.poisoned (4 * line + i) = true) ∧
  ∀ (s : State) (b : Bugle) (d power demand : Nat), bugleOk 0x21 b = true →
    exec (.telem b d power demand) s = .next { s.take (.telem b d power demand) with power := { s.power with telem := NMap.put s.power.telem d (power, demand) } }

namespace Sys2Proof.Claim

/-- An idle Vetch engine whose command queue holds one command that names a completion queue of the same owner (R165, R177). -/
def VetchHas (s : State) (h q : Nat) (w : Item) : Prop :=
  s.fld (aVetch h 0) 0 1 = 1 ∧ s.jobOf (s.vOwner h) = 1 ∧ s.fld (aVetch h 8) 0 2 = 1 ∧ q = s.fld (aVetch h 0) 7 9 ∧ s.qEn q = true ∧ s.qFailed q = false ∧ s.qHeld q = false ∧
  s.sliceZeroing (s.vOwner h) = false ∧ s.qZeroing q = false ∧
  (∃ pri no, (s.queue q).items = [⟨w, pri, no, none, .tail, false⟩]) ∧ (s.queue q).waits = [] ∧ s.qEn (ifld w 80 9) = true ∧ s.qOwner (ifld w 80 9) = s.vOwner h

/-- The command has ended: its completion item waits to be pushed to the queue that it names. -/
def VetchEnds (t : State) (h : Nat) (w item : Item) : Prop := (t.vetchOf h).done = some (ifld w 80 9, item) ∧ t.fld (aVetch h 8) 0 2 = 2

end Sys2Proof.Claim

/-- R165, R169, R170, R175, R176: ROUTE and COMBINE end with the status of their checks and of their work, and the counts of it; STAT reports and clears; the
completion item is pushed, or the engine waits for room. No expert receives more than CAP tokens, and every slot of a dispatched token
is kept or dropped. -/
def Obligations.VetchCommandsEnd : Prop :=
  (∀ (s : State) (h q : Nat) (w : Item), Claim.VetchHas s h q w → ifld w 0 8 = 1 →
    ∃ (t s' : State), exec (.route h) s = .next t ∧ { s' with queues := s.queues, regs := s.regs } = s ∧ (s'.queue q).pos = (s.queue q).pos + 1 ∧
      (s.routeCheck (s.vOwner h) h w ≠ 0 → Claim.VetchEnds t h w (complItem 1 (s.routeCheck (s.vOwner h) h w) (ifld w 96 32) 0 0 0 0 0 0 t.time.toNat 0)) ∧
      ∀ st tok c, s.routeCheck (s.vOwner h) h w = 0 → (s'.routeRun (s.vOwner h) h w).2 = (c, .status st tok) →
        Claim.VetchEnds t h w (complItem 1 st (ifld w 96 32) c.kept c.dropped c.rerouted c.nonfin c.degen tok t.time.toNat 0) ∧
        t.mem = (s'.routeRun (s.vOwner h) h w).1.mem) ∧
  (∀ (s : State) (h q : Nat) (w : Item), Claim.VetchHas s h q w → ifld w 0 8 ≠ 1 → ifld w 0 8 ≠ 2 → ifld w 0 8 ≠ 3 →
    ∃ t, exec (.route h) s = .next t ∧ Claim.VetchEnds t h w (complItem (ifld w 0 8) 1 (ifld w 96 32) 0 0 0 0 0 0 t.time.toNat 0)) ∧
  (∀ (s : State) (h q n : Nat) (w : Item), Claim.VetchHas s h q w → ifld w 0 8 = 2 → NMap.find? (s.vetchOf h).lists (ifld w 160 32) = some n →
    ∃ (t s' : State), exec (.combine h) s = .next t ∧ { s' with queues := s.queues, regs := s.regs, free := s.free } = s ∧
      (s.combineCheck (s.vOwner h) h n w ≠ 0 → Claim.VetchEnds t h w (complItem 2 (s.combineCheck (s.vOwner h) h n w) (ifld w 96 32) 0 0 0 0 0 0 t.time.toNat 0)) ∧
      ∀ st tok c, s.combineCheck (s.vOwner h) h n w = 0 → (s'.combineRun (s.vOwner h) h n w).2 = (c, .status st tok) →
        Claim.VetchEnds t h w (complItem 2 st (ifld w 96 32) c.kept c.dropped c.rerouted c.nonfin c.degen tok t.time.toNat 0)) ∧
  (∀ (s : State) (h q : Nat) (w : Item), Claim.VetchHas s h q w → ifld w 0 8 = 3 → ifld w 9 71 = 0 → ifld w 89 7 = 0 → ifld w 128 384 = 0 →
    ∃ t v, exec (.vetchStat h) s = .next t ∧ v = s.vetchOf h ∧ Claim.VetchEnds t h w (complItem 3 0 (ifld w 96 32) v.kept v.dropped v.rerouted v.nonfin v.degen 0 s.time.toNat v.cmds) ∧
      { t.vetchOf h with done := v.done } = (if ifld w 8 1 = 1 then ⟨v.done, 0, 0, 0, 0, 0, 0, v.lists⟩ else { v with cmds := v.cmds + 1 })) ∧
  (∀ (s : State) (h q : Nat) (w : Item), (s.vetchOf h).done = some (q, w) → s.flight.net = [] → s.qEn q = true → s.qFailed q = false → (s.queue q).waits = [] →
    ((s.queue q).items.length < s.qCap q → s.qZeroing q = false → Claim.TailRoom (s.queue q) 1 →
      ∃ t, exec (.vetchCompletionPush h) s = .next t ∧ (t.vetchOf h).done = none ∧ t.fld (aVetch h 8) 0 2 = 1 ∧
        { t.queue q with fc := (s.queue q).fc } = { s.queue q with items := (s.queue q).items ++ [⟨w, 3, (s.queue q).pushes, none, .tail, false⟩], pushes := (s.queue q).pushes + 1 }) ∧
    (s.qCap q ≤ (s.queue q).items.length → exec (.vetchCompletionPush h) s = .next (s.vSetState h 3))) ∧
  ∀ (scores : List (List Nat)) (bias : Option (List Nat)) (sf k cap wmode e : Nat) (ovf : Bool) (r : Routed), r = routeAll scores bias sf k cap wmode ovf →
    (NMap.get [] r.lists e).length ≤ cap ∧ r.c.kept + r.c.dropped + k * r.c.nonfin = k * scores.length ∧ r.c.rerouted ≤ r.c.kept ∧ (ovf = false → r.c.rerouted = 0)

namespace Sys2Proof.Claim

/-- A packet for this module arrives at a port in order, under an accepted key slot (R405, R409, R423). -/
def LinkIn (s : State) (port : Nat) (p : Packet) : Prop :=
  port < 16 ∧ s.portUp port = true ∧ p.seq = (s.portSt port).rx ∧ p.hops = 0 ∧ p.dst = s.ownModule ∧ s.keyOk port p = true

/-- It names a job of an enabled slice, comes from a module, and its operation was not seen lately; an answer has a way out (R407, R410, R412). -/
def ForSlice (s : State) (port : Nat) (p : Packet) (sl out : Nat) : Prop :=
  LinkIn s port p ∧ s.sliceOfJob p.job = some sl ∧ s.seen = [] ∧ p.src < 2 ^ 15 ∧ (∃ d, s.wayOut (100 + portDie port) p.src = some (d, out)) ∧ s.halves = [] ∧ s.flight.net = []

/-- One answer of a type with a key and bytes goes out to the sender, under its operation number (R412, R413). -/
def Answers (s t : State) (p : Packet) (out ty key : Nat) (bs : List Byte) : Prop :=
  ∃ a, t.out = s.out ++ [.link out a] ∧ a.ty = ty ∧ a.src = s.ownModule ∧ a.dst = p.src ∧ a.opid = p.opid ∧ a.key = key ∧ a.payload = bs

/-- The port has taken the packet: the next one is expected. -/
def Taken (s t : State) (port : Nat) : Prop := (t.portSt port).rx = ((s.portSt port).rx + 1) % 65536

/-- The one outstanding operation of this module that a packet answers is a push that path `e` of a group awaits (R413). -/
def Awaited (s : State) (p : Packet) (r : Remote) (core slot e : Nat) (g : Group) (x : Path) : Prop :=
  s.remotes = [r] ∧ r.dst = p.src ∧ r.opid = p.opid ∧ r.answer = none ∧ r.gen = s.gen r.slice ∧ p.gen = r.gen ∧ r.kept = false ∧ r.kind = .push core slot ∧
  NMap.find? (s.core core).groups slot = some g ∧ e < 32 ∧ g.path? e = some x ∧ x.wait = .queue r.id ∧ ∀ k y, k < e → g.path? k = some y → y.wait ≠ .queue r.id

/-- The path has its status and runs. -/
def Status (t : State) (r : Remote) (core slot e : Nat) (g : Group) (status : Nat) : Prop :=
  t.remotes = [] ∧ NMap.find? (t.core core).groups slot = some ((g.setU (r.pkt.key / 8) (BitVec.ofNat 64 status)).wake e)

end Sys2Proof.Claim

/-- R405, R407, R409 to R414, R417, R420, R422: packets that arrive in order for this module: writes and reads of a slice's scratch, adds, pushes, answers,
refusals, pace notices and time frames; one out of order changes no more than the replay store; a timeout. -/
def Obligations.LinkPacketsArrive : Prop :=
  (∀ (s : State) (port sl out pa : Nat) (p : Packet), Claim.ForSlice s port p sl out → p.ty = 1 → s.scratchPa sl p.addr = some pa → p.addr % 2 ^ 22 + p.payload.length ≤ 2 ^ 22 →
    ∃ t, exec (.linkWrite port p) s = .next t ∧ Claim.Taken s t port ∧ Claim.Answers s t p out 6 0 [] ∧ t.mem = s.mem.writeBytes pa p.payload) ∧
  (∀ (s : State) (port sl out pa : Nat) (p : Packet), Claim.ForSlice s port p sl out → p.ty = 2 → s.scratchPa sl p.addr = some pa → p.addr % 2 ^ 22 + p.key ≤ 2 ^ 22 →
    ∃ t, exec (.linkReadRequest port p) s = .next t ∧ Claim.Taken s t port ∧ Claim.Answers s t p out 3 0 (s.mem.readBytes pa p.key) ∧ t.mem = s.mem) ∧
  (∀ (s : State) (port sl out pa : Nat) (p : Packet), Claim.ForSlice s port p sl out → p.ty = 4 → s.scratchPa sl (p.addr % 2 ^ 46) = some pa → 0 < p.payload.length →
    p.addr % 128 + p.payload.length ≤ 128 →
    ∃ t c, exec (.linkAdd port p) s = .next t ∧ Claim.Taken s t port ∧ Claim.Answers s t p out 6 0 [] ∧ t.mem = s.mem ∧ (t.half (scratchHalf pa)).pend = [⟨0, c⟩] ∧
      c.line = pa / 128 ∧ c.slice = sl ∧ c.key = some (BitVec.ofNat 32 p.key) ∧ c.aty = typeOf (p.addr / 2 ^ 46)) ∧
  (∀ (s : State) (port sl out q : Nat) (p : Packet), Claim.ForSlice s port p sl out → p.ty = 5 → q = p.addr % 512 → s.qAllowed q sl true = true → s.qEn q = true → s.qFailed q = false →
    (s.queue q).waits = [] → s.qZeroing q = false → p.payload.length ≤ 64 → Claim.TailRoom (s.queue q) 1 → (s.queue q).items.length + 1 ≤ s.qCap q →
    ∃ t, exec (.linkQueuePush port p) s = .next t ∧ Claim.Taken s t port ∧ Claim.Answers s t p out 6 0 [] ∧
      { t.queue q with fc := (s.queue q).fc } = { s.queue q with
        items := (s.queue q).items ++ [⟨BitVec.ofNat 512 (leNat p.payload), p.key % 4, (s.queue q).pushes, none, .tail, false⟩], pushes := (s.queue q).pushes + 1 }) ∧
  (∀ (s : State) (port : Nat) (p : Packet), s.keyOk port p = false → exec (.linkWrite port p) s = .next s) ∧
  (∀ (s : State) (port : Nat) (p : Packet), port < 16 → s.portUp port = true → p.seq ≠ (s.portSt port).rx →
    ∃ t, exec (.linkWrite port p) s = .next t ∧ { t with ports := s.ports } = s ∧ (t.portSt port).rx = (s.portSt port).rx) ∧
  (∀ (s : State) (port core slot e : Nat) (p : Packet) (r : Remote) (g : Group) (x : Path), Claim.LinkIn s port p → Claim.Awaited s p r core slot e g x →
    (∃ t, exec (.linkAcknowledgement port p) s = .next t ∧ Claim.Taken s t port ∧ Claim.Status t r core slot e g p.key) ∧
    (bit p.addr 35 = false → ∃ t, exec (.linkRefusal port p) s = .next t ∧ Claim.Taken s t port ∧ Claim.Status t r core slot e g 8) ∧
    (s.time.toNat ≥ r.since + 1000000 * s.fld (aLnk 8) 0 7 → ∃ t, exec (.remoteTimeout r.id) s = .next t ∧ Claim.Status t r core slot e g 9)) ∧
  (∀ (s : State) (port core m ofs n i k : Nat) (p : Packet) (r : Remote) (x : MvRun), Claim.LinkIn s port p → s.remotes = [r] → r.dst = p.src → r.opid = p.opid → r.answer = none →
    r.gen = s.gen r.slice → p.gen = r.gen → r.kept = false → r.kind = .get core m ofs n → s.awaiting core m r.id = some i → s.mvRun? core m i = some x → x.waits = [r.id, k] →
    ∃ t, exec (.linkReadResponse port p) s = .next t ∧ Claim.Taken s t port ∧ t.remotes = [] ∧
      t.mvRun? core m i = some { x with waits := [k], got := x.got.writeBytes (remoteKey (r.dst * 2 ^ 33 + ofs)) p.payload }) ∧
  (∀ (s : State) (port : Nat) (p : Packet), Claim.LinkIn s port p →
    ∃ t, exec (.paceNotice port p) s = .next t ∧ Claim.Taken s t port ∧ { t with ports := s.ports, flight := s.flight } = s ∧
      t.flight = { s.flight with net := s.flight.net ++ [.pace ⟨54 + portDie port, s.actDie, 1, 2⟩ p.src (p.key % 2 ^ 11) (p.key / 2 ^ 11)] }) ∧
  ∀ (s : State) (port : Nat) (p : Packet) (offset : Int), Claim.LinkIn s port p → s.parentPort = some port → s.phase = .ready → offset.natAbs ≤ 2 →
    ∃ t, exec (.timeSyncFrame port p offset) s = .next t ∧ Claim.Taken s t port ∧ t.syncs = min (s.syncs + 1) 16 ∧
      t.time = s.time + (if 0 < offset then 1 else 0) ∧ (15 ≤ s.syncs → t.fld (aLnk 0x30) 0 1 = 1)

namespace Sys2Proof.Claim

/-- An idle link engine whose turn it is for a slice, whose command queue holds one command (R416). -/
def EngineHas (s : State) (sl q : Nat) (w : Item) : Prop :=
  s.engineIdle sl = true ∧ s.engineTurn sl = true ∧ q = s.engineQ sl ∧ s.qEn q = true ∧ s.qFailed q = false ∧ s.qHeld q = false ∧
  (∃ pri no, (s.queue q).items = [⟨w, pri, no, none, .tail, false⟩]) ∧ (s.queue q).waits = [] ∧ s.qZeroing q = false

end Sys2Proof.Claim

/-- R406, R407, R416 to R423, R495: what the ports, the pace notices, the time sync and the sessions do of themselves, and the commands of the link engines. -/
def Obligations.LinkPortsAndEngines : Prop :=
  (∀ (s : State) (port seq : Nat), port < 16 → s.portUp port = true → (s.portSt port).replays = (0, 0) → (s.portSt port).fails.length < 4 →
    ∃ t, exec (.linkPacketReplay port seq false) s = .next t ∧ t.portSt port = { s.portSt port with replays := (seq, 1) } ∧
      t.out = s.out ++ ((s.portSt port).sent.filter fun p => decide ((p.seq + 65536 - seq) % 65536 < 32768)).map (fun p => Out.link port p) ∧
      t.fld (aPort port 0x10) 24 16 = min (s.fld (aPort port 0x10) 24 16 + 1) 65535) ∧
  (∀ (s : State) (port : Nat) (lanes : BitVec 8), port < 16 → s.fld (aPort port 0) 0 1 = 1 → s.portUp port = false → (s.portSt port).sent = [] →
    (∃ t, exec (.portRetrain port lanes) s = .next t ∧ t.fld (aPort port 8) 0 2 = 1 ∧ (t.portSt port).trained = false ∧ (t.portSt port).lanes = lanes ∧
      { t with regs := s.regs, ports := s.ports } = s) ∧
    ∀ host, Claim.ManagerMay s host (aPort port 0) → ∃ t, exec (.lnkPortCfgRetrain host port) s = .next t ∧ t.fld (aPort port 8) 0 2 = 1 ∧
      (t.portSt port).lanes = (s.portSt port).lanes ∧ { t with regs := s.regs, ports := s.ports } = s) ∧
  (∀ (s : State) (port nbr np : Nat) (x : PortTest), port < 16 → s.fld (aPort port 8) 0 2 = 1 → Medium.ok x.medium = false →
    ∃ t, exec (.portRetrainDone port x nbr np) s = .next t ∧ t.fld (aPort port 8) 0 2 = 0 ∧ t.fld (aLnk 0x10) 0 1 = 1 ∧ t.portSt port = { s.portSt port with session := none }) ∧
  (∀ (s : State) (port nbr np : Nat) (m : Medium), port < 16 → Medium.ok m = true → s.fld (aPort port 8) 0 2 = 1 → s.fld (aPort port 0) 1 2 = 0 → s.cabled port nbr np = true → nbr < 2 ^ 15 → np < 16 →
    ∃ t, exec (.portRetrainDone port ⟨255, m⟩ nbr np) s = .next t ∧ t.fld (aPort port 8) 2 2 = 0 ∧ t.fld (aPort port 8) 5 15 = nbr ∧ t.fld (aPort port 8) 20 4 = np ∧
      t.fld (aPort port 8) 0 2 = (if (s.portSt port).session.isSome then 2 else 1) ∧ t.portSt port = { s.portSt port with trained := true, lanes := 255, replays := (0, 0) }) ∧
  (∀ (s : State) (port : Nat), port < 16 → s.portUp port = true →
    ∃ t p, exec (.timeSyncExchange port) s = .next t ∧ { t with out := s.out, ports := s.ports } = s ∧ t.out = s.out ++ [.link port p] ∧ p.ty = 9 ∧ p.payload = leBytes 32 s.time.toNat) ∧
  (∀ (s : State) (port : Nat), s.parentPort = some port →
    (s.fld (aLnk 0x28) 9 1 = 1 → ∃ t, exec (.timeParentLost port) s = .next t ∧ t.syncs = 0 ∧ t.fld (aLnk 0x30) 0 1 = 0 ∧ t.fld (aLnk 0x30) 2 4 = s.fld (aLnk 0x28) 5 4) ∧
    (s.fld (aLnk 0x28) 9 1 = 0 → ∃ t, exec (.timeParentLost port) s = .next t ∧ t.syncs = 0 ∧ t.fld (aLnk 0x30) 1 1 = 1 ∧ t.fld (aLnk 0x10) 5 1 = 1 ∧ t.fld (aErr 0) 0 1 = 1)) ∧
  (∀ (s : State) (port : Nat) (kx : LinkKx), port < 16 → (s.portSt port).trained = true → s.fld (aSec 0) 5 1 = 1 → s.fld (aSec 0) 0 2 ≠ 2 →
    ∃ t, exec (.linkSessionExchange port kx) s = .next t ∧
      if s.peerOk port kx = true then t.fld (aPort port 8) 0 2 = 2 ∧ t.portSt port = { s.portSt port with session := some s.ids, opened := s.time.toNat, counter := 0, fails := [] }
      else t.fld (aPort port 8) 0 2 = 0 ∧ t.fld (aSec 0x10) 3 1 = 1 ∧ t.portSt port = { s.portSt port with session := none }) ∧
  (∀ (s : State) (port : Nat), port < 16 → (s.portSt port).trained = true → (s.portSt port).session = none →
    exec (.linkSessionRetry port) s = .next (s.setFld (aPort port 8) 0 2 1)) ∧
  (∀ (s : State) (port : Nat), port < 16 → s.portUp port = true →
    ∃ t, exec (.linkRekey port) s = .next t ∧ t.fld (aPort port 8) 24 1 = 1 - s.fld (aPort port 8) 24 1 ∧
      t.portSt port = { s.portSt port with session := some s.ids, opened := s.time.toNat, counter := 0, fails := [], oldSlot := some (s.fld (aPort port 8) 24 1) }) ∧
  (∀ (s : State), s.fld (aLnk 0x18) 0 1 = 1 → s.heldLow = none →
    (s.fld (aLnk 0x20) 0 11 = 0 → exec .paceNoticeSend s = .next s) ∧ (s.fld (aLnk 0x20) 0 11 ≠ 0 → exec .paceNoticeSend s = .next (s.sendNotice 0 0))) ∧
  (∀ (s : State) (f c : Nat), s.fld (aLnk 0x18) 0 1 = 1 → s.heldLow = some (f, c) → f < 2 ^ 11 → ∃ t, exec .paceNoticeSend s = .next t ∧ t.fld (aLnk 0x20) 0 11 = f) ∧
  (∀ (s : State) (src f since : Nat), s.notices = [(src, f, since)] → since + 2000000 ≤ s.time.toNat →
    ∃ t, exec (.paceNoticeExpiry src) s = .next t ∧ t.notices = [] ∧ t.fld (aLnk 0x20) 11 11 = 0 ∧ { t with notices := s.notices, regs := s.regs } = s) ∧
  (∀ (s : State) (sl q : Nat) (w : Item), Claim.EngineHas s sl q w → ifld w 0 8 = 3 → s.qAllowed (ifld w 80 9) sl true = false →
    ∃ t, exec (.linkEngineStat sl) s = .next t ∧ { t with queues := s.queues, regs := s.regs, engines := s.engines } = s ∧
      t.engineOf sl = if ifld w 8 1 = 1 then { s.engineOf sl with done := 0, bytes := 0, turn := s.engineStamp } else { s.engineOf sl with turn := s.engineStamp }) ∧
  (∀ (s : State) (sl q pa out : Nat) (w : Item), Claim.EngineHas s sl q w → ifld w 0 8 = 1 → cmdClean w = true → ifld w 128 32 = 128 → s.scratchPa sl (128 * ifld w 160 32) = some pa →
    ifld w 64 16 < 2 ^ 15 → (∃ d, s.wayOut (100 + s.engineDie sl) (ifld w 64 16) = some (d, out)) → s.halves = [] → s.flight.net = [] →
    ∃ t a, exec (.linkEngineAdd sl) s = .next t ∧ (t.engineOf sl).cmd = some (w, 0) ∧ t.out = s.out ++ [.link out a] ∧ a.ty = 4 ∧ a.dst = ifld w 64 16 ∧
      a.addr = addrType (128 * ifld w 192 32) (ifld w 12 2) ∧ a.key = ifld w 32 32 ∧ a.payload = s.mem.readBytes pa 128 ∧ t.remotes.length = s.remotes.length + 1 ∧ t.mem = s.mem) ∧
  (∀ (s : State) (sl q pi pr : Nat) (w : Item), Claim.EngineHas s sl q w → ifld w 0 8 = 2 → cmdClean w = true → ifld w 8 4 = 0 → ifld w 14 3 = 1 → s.ring 0 = 1 → ifld w 128 32 = 128 →
    ifld w 320 32 = 0xFFFFFFFF → ifld w 32 32 = (s.engineOf sl).seq → s.scratchPa sl (collIn w 0) = some pi → s.scratchPa sl (collRes w 0) = some pr →
    s.qAllowed (ifld w 80 9) sl true = false → s.halves = [] → s.flight.net = [] →
    ∃ t, exec (.coll sl) s = .next t ∧ (t.engineOf sl).seq = ((s.engineOf sl).seq + 1) % 2 ^ 32 ∧ (t.engineOf sl).cmd = none ∧ (t.engineOf sl).done = (s.engineOf sl).done + 1 ∧
      t.mem = s.mem.writeBytes pr (s.mem.readBytes pi 128)) ∧
  ∀ (s : State) (sl i k : Nat) (w : Item) (e : LinkEngine), e = s.engineOf sl → e.cmd = some (w, i) → ifld w 0 8 = 2 → ifld w 8 4 = 0 → k = 4 * i + ifld w 32 32 % 4 →
    (collDims w).length = i + 1 → ifld w 320 32 = 0xFFFFFFFF → s.qAllowed (ifld w 80 9) sl true = false → s.sliceZeroing sl = false →
    (s.ring ((collDims w).getD i 0) - 1) * ifld w 128 32 ≤ NMap.get 0 e.arrived k →
    ∃ t, exec (.collStageComplete sl) s = .next t ∧ { t with engines := s.engines } = s ∧ (t.engineOf sl).cmd = none ∧ (t.engineOf sl).done = e.done + 1 ∧
      NMap.get 0 (t.engineOf sl).arrived k = NMap.get 0 e.arrived k - (s.ring ((collDims w).getD i 0) - 1) * ifld w 128 32

namespace Sys2Proof.Claim

/-- No slice of a port exists, so that no job ends with the port (R445). -/
def NoSlices (s : State) (port : Nat) : Prop := ∀ sl, sl < 64 → ¬ (s.exists? sl = true ∧ s.portOf sl = port)

/-- PF0 of a port is as after a function-level reset: its BARs, MSI-X table and mailbox response are clear (R445). -/
def Pf0Clear (s t : State) (port : Nat) : Prop :=
  t.reg (0x100048 + 0x1000 * port) = 0 ∧ (∀ i, i < 8 → t.reg (0x100080 + 0x1000 * port + 8 * i) = 0) ∧
  t.host port = { s.host port with cfg := (s.host port).cfg.filter fun e => !(decide (e.1 < 8) || (decide (0x10000 ≤ e.1) && decide (e.1 < 0x20000))), down := (t.host port).down }

/-- The one outstanding host read is that of a started transfer of a mover, which also awaits another operation (R439, R440). -/
def MoverReads (s : State) (r : HostRead) (core m i k : Nat) (x : MvRun) : Prop :=
  s.hostReads = [r] ∧ r.agent = .mover core m r.id ∧ r.gen = s.gen r.slice ∧ (s.host r.port).invals = [] ∧ s.mvRun? core m i = some x ∧
  x.waits = [r.id, k]

/-- A port of a module with power whose reference clock runs and whose management die has not failed (R16, R426, R568). -/
def Clocked (s : State) (port : Nat) : Prop := port < 2 ∧ s.fld 0x100 (7 + port) 1 = 1 ∧ s.phase ≠ .off ∧ s.phase ≠ .delayed ∧
  NMap.get 0 s.dieState (58 + port) ≠ 2 ∧ NMap.get 0 s.dieState (58 + port) ≠ 7

end Sys2Proof.Claim

/-- R426, R430, R431, R435, R439 to R441, R443 to R445, R568: doorbells, completions of host reads and writes, invalidations, resets and
links of the host ports, the failover, the states of IDE streams and of the TDI. -/
def Obligations.HostPortsAct : Prop :=
  (∀ (s : State) (port stream value sl : Nat) (pasid : Option Nat), Claim.TenantMay s port pasid sl → stream < 16 →
    (s.jobOf sl = 1 → (s.slice sl).bells.countP (fun b => b.1 == stream) < 8 →
      ∃ t b, exec (.slcSDoorbell port pasid stream value) s = .next t ∧ { t with slices := s.slices, flight := s.flight } = s ∧
        t.slice sl = { s.slice sl with bells := (s.slice sl).bells ++ [(stream, BitVec.ofNat 64 value)] } ∧
        t.flight = { s.flight with net := s.flight.net ++ [.doorbell b sl stream (value % 2 ^ 64)] } ∧ bugleOk 0x13 b = true) ∧
    (s.jobOf sl ≠ 1 → ∃ t, exec (.slcSDoorbell port pasid stream value) s = .next t ∧ { t with swin := s.swin } = s ∧
      t.sreg sl 0xA088 = min (s.sreg sl 0xA088 + 1) (2 ^ 32 - 1))) ∧
  (∀ (s : State) (r : HostRead) (core m i k : Nat) (x : MvRun) (bs : List Byte), Claim.MoverReads s r core m i k x →
    (∃ t, exec (.hostReadCompletion r.id r.addr 0 bs) s = .next t ∧ t.hostReads = [] ∧ t.regs = s.regs ∧
      t.mvRun? core m i = some { x with waits := [k], got := x.got.writeBytes (hostKey r.port r.addr) (bs.take r.len) }) ∧
    (∃ t, exec (.hostReadCompletion r.id r.addr 1 bs) s = .next t ∧ t.hostReads = [] ∧ t.fld (aHpErr r.port) 3 1 = 1 ∧
      t.mvRun? core m i = some { x with waits := [k], bad := x.bad ++ [(hostKey r.port r.addr, r.len, 1)] }) ∧
    (∃ t, exec (.hostReadCompletion r.id r.addr 3 bs) s = .next t ∧ t.hostReads = [] ∧ t.fld (aHpErr r.port) 3 1 = 1 ∧
      t.mvRun? core m i = some { x with waits := [k], bad := x.bad ++ [(hostKey r.port r.addr, r.len, 8)] }) ∧
    ∃ t, exec (.hostReadTimeout r.id r.addr) s = .next t ∧ t.hostReads = [] ∧ t.fld (aHpErr r.port) 2 1 = 1 ∧
      t.fld (aHpCnt r.port) 32 16 = min (s.fld (aHpCnt r.port) 32 16 + 1) 65535 ∧ t.mvRun? core m i = some { x with waits := [k], bad := x.bad ++ [(hostKey r.port r.addr, r.len, 8)] }) ∧
  (∀ (s : State) (r : HostRead) (bs : List Byte), s.hostReads = [r] → r.gen ≠ s.gen r.slice → (s.host r.port).invals = [] →
    ∃ t, exec (.hostReadCompletion r.id r.addr 0 bs) s = .next t ∧ { t with hostReads := s.hostReads, swin := s.swin } = s ∧ t.hostReads = [] ∧
      t.sreg r.slice 0xD028 = (s.sreg r.slice 0xD028 + 1) % 2 ^ 64) ∧
  (∀ (s : State) (port : Nat), (s.host port).covered ≠ [] →
    ∃ t, exec (.zeroLengthReadComplete port) s = .next t ∧ { t with unacked := s.unacked, cores := s.cores, hosts := s.hosts, out := s.out } = s ∧
      t.unacked = (s.unacked.filter fun i => !(s.host port).covered.contains i) ∧ t.host port = { s.host port with covered := (s.host port).waiting, waiting := [] } ∧
      t.out = s.out ++ (if (s.host port).waiting = [] then [] else [.zeroRead port]) ∧
      ∀ c, t.core c = { s.core c with mv0 := (s.core c).mv0.acked (s.host port).covered, mv1 := (s.core c).mv1.acked (s.host port).covered }) ∧
  (∀ (s : State) (port tag sl addr len : Nat), port < 2 → (s.host port).invals = [] →
    ((∀ r ∈ s.hostReads, r.port ≠ port ∨ r.slice ≠ sl ∨ addr + len ≤ r.addr ∨ r.addr + r.len ≤ addr) →
      exec (.atsInvalidation port tag sl addr len) s = .next { s with out := s.out ++ [.atsDone port tag] }) ∧
    ∀ r, s.hostReads = [r] → r.port = port → r.slice = sl → r.addr < addr + len → addr < r.addr + r.len →
      ∃ t, exec (.atsInvalidation port tag sl addr len) s = .next t ∧ { t with hosts := s.hosts } = s ∧
        t.host port = { s.host port with invals := [(tag, [(r.id, r.addr)])] }) ∧
  (∀ (s : State) (port : Nat), port < 2 →
    (∃ t, exec (.flrPf0 port) s = .next t ∧ { t with regs := s.regs, hosts := s.hosts } = s ∧ Claim.Pf0Clear s t port ∧ t.fld (aHpStatus port) 0 19 = s.fld (aHpStatus port) 0 19) ∧
    (Claim.NoSlices s port → (∃ t, exec (.flrPf1 port) s = .next t ∧ { t with regs := s.regs } = s ∧ t.fld (aHpStatus port) 10 2 = 0 ∧
      t.fld (aHpStatus port) 0 10 = s.fld (aHpStatus port) 0 10) ∧
      (s.fld (aHpStatus port) 0 2 ≠ 0 → ∃ t, exec (.hostLinkDown port) s = .next t ∧ { t with regs := s.regs, hosts := s.hosts } = s ∧ t.fld (aHpStatus port) 0 2 = 0 ∧
        t.fld (aHpStatus port) 10 2 = 0 ∧ (t.host port).down = s.time.toNat ∧ Claim.Pf0Clear s t port) ∧
      ∃ t, exec (.pcieRefclkLoss port) s = .next t ∧ t.fld 0x100 (7 + port) 1 = 0 ∧ t.fld 0x108 4 1 = 1 ∧ t.fld (aHpStatus port) 0 2 = 0)) ∧
  (∀ (s : State) (port rate width : Nat), Claim.Clocked s port → rate < 3 → width < 4 →
    (∃ t, exec (.hostLinkUp port rate width true) s = .next t ∧ { t with regs := s.regs } = s ∧ t.fld (aHpStatus port) 0 2 = 2 ∧ t.fld (aHpStatus port) 2 2 = rate ∧
      t.fld (aHpStatus port) 4 3 = width ∧ t.fld (aHpStatus port) 7 12 = s.fld (aHpStatus port) 7 12) ∧
    exec (.hostLinkUp port rate width false) s = .next (s.flag (aHpErr port) 6)) ∧
  (∀ (s : State) (o : Nat), o < 2 → s.fld aOwner 19 2 = o → s.fld aOwner 2 1 = 1 → s.fld (aHpStatus o) 0 2 = 0 → s.fld (aHpStatus (1 - o)) 0 2 = 2 →
    (s.host o).down + 1000000000 ≤ s.time.toNat →
    ∃ t, exec .ownershipFailover s = .next t ∧ t.fld aOwner 19 2 = 1 - o ∧ t.fld aOwner 0 19 = s.fld aOwner 0 19 ∧ t.fld (aErr 0) 0 1 = 1 ∧
      t.reg (aErr 8) = (s.reg (aErr 8) + 1) % 2 ^ 32) ∧
  (∀ (s : State) (port stream : Nat) (pf1 : Bool), port < 2 → stream < 5 → NMap.get (0, false) (s.host port).streams stream = (1, pf1) →
    ∃ t, exec (.ideIntegrityFailure port stream) s = .next t ∧ { t with regs := s.regs, hosts := s.hosts } = s ∧ t.fld (aHpErr port) 7 1 = 1 ∧
      NMap.get (0, false) (t.host port).streams stream = (2, pf1) ∧
      t.fld (aHpStatus port) 10 2 = (if pf1 = true ∧ (s.fld (aHpStatus port) 10 2 = 1 ∨ s.fld (aHpStatus port) 10 2 = 2) then 3 else s.fld (aHpStatus port) 10 2)) ∧
  ∀ (s : State) (port : Nat), port < 2 →
    (s.fld (aHpStatus port) 10 2 = 0 → exec (.tdispRequest port 0) s = .next (s.setFld (aHpStatus port) 10 2 1)) ∧
    (s.fld (aHpStatus port) 10 2 = 1 → exec (.tdispRequest port 1) s = .next (s.setFld (aHpStatus port) 10 2 2)) ∧
    exec (.tdispRequest port 2) s = .next (s.setFld (aHpStatus port) 10 2 0)

namespace Sys2Proof.Claim

/-- The responder of a port is at a step of the negotiation (R442). -/
def SpdmAt (s : State) (port step : Nat) : Prop := port < 2 ∧ s.phase = .ready ∧ (s.host port).spdm = step

/-- The port has sent one response; nothing but the port, and a free value, has changed. -/
def Says (s t : State) (port code : Nat) (bs : List Byte) : Prop :=
  t.out = s.out ++ [.spdm port code bs] ∧ { t with hosts := s.hosts, out := s.out, free := s.free, regs := s.regs } = s ∧
  (t.host port).spdm = (s.host port).spdm ∧ (t.host port).streams = (s.host port).streams

/-- A locked module with an attestation key signs (R486, R505). -/
def Signs (s : State) : Prop := s.sec.akey.isSome = true ∧ s.fld (aSec 0) 0 2 ≠ 2

/-- The port holds one session. -/
def OneSession (s : State) (port : Nat) (x : Session) : Prop := SpdmAt s port 3 ∧ (s.host port).sessions = [x]

end Sys2Proof.Claim

/-- R442, R443, R486, R487, R496: SPDM requests of a port: the negotiation in its order, digests, certificates and measurements, a signed challenge,
sessions and the programming of an IDE key. Codes and order are the model's choice (log 50). -/
def Obligations.SpdmRequestsAnswered : Prop :=
  (∀ (s : State) (port k : Nat), Claim.SpdmAt s port k →
    (∃ t, exec (.getVersion port) s = .next t ∧ t.out = s.out ++ [.spdm port 4 [18]] ∧ t.host port = { s.host port with spdm := 1, told := [4, 18] }) ∧
    (k = 0 → exec (.getCapabilities port) s = .next { s with out := s.out ++ [.spdm port 0x7F [4]] }) ∧
    (k = 1 → ∃ t, exec (.getCapabilities port) s = .next t ∧ t.out = s.out ++ [.spdm port 0x61 []] ∧ (t.host port).spdm = 2) ∧
    (k = 2 → (∃ t, exec (.negotiateAlgorithms port 15) s = .next t ∧ t.out = s.out ++ [.spdm port 0x63 [15]] ∧ (t.host port).spdm = 3) ∧
      exec (.negotiateAlgorithms port 14) s = .next { s with out := s.out ++ [.spdm port 0x7F [1]] })) ∧
  (∀ (s : State) (port slot ofs len : Nat), Claim.SpdmAt s port 3 → slot < 2 →
    (∃ t, exec (.getDigests port) s = .next t ∧ Claim.Says s t port 1 (digestBytes (Config.sha256 (s.chain 0)) ++ digestBytes (Config.sha256 (s.chain 1)))) ∧
    ∃ t, exec (.getCertificate port slot ofs len) s = .next t ∧ Claim.Says s t port 2 (((s.chain slot).drop ofs).take len)) ∧
  (∀ (s : State) (port : Nat) (nonce : List Byte), Claim.SpdmAt s port 3 → Claim.Signs s →
    ∃ t body, exec (.challenge port 0 nonce) s = .next t ∧ body = digestBytes (Config.sha256 (s.chain 0)) ++ nonce.take 32 ∧
      Claim.Says s t port 3 (body ++ s.sign ((s.host port).told ++ body))) ∧
  (∀ (s : State) (port i : Nat) (nonce : List Byte), Claim.SpdmAt s port 3 → 0 < i → i ≤ 16 →
    (∃ t, exec (.getMeasurements port i false nonce) s = .next t ∧ Claim.Says s t port 0x60 (digestBytes (s.slot (i - 1)))) ∧
    (∃ t, exec (.getMeasurements port 0 false nonce) s = .next t ∧ Claim.Says s t port 0x60 [16]) ∧
    (Claim.Signs s → ∃ t body, exec (.getMeasurements port i true nonce) s = .next t ∧ body = digestBytes (s.slot (i - 1)) ++ nonce.take 32 ∧
      Claim.Says s t port 0x60 (body ++ s.sign ((s.host port).told ++ body)))) ∧
  (∀ (s : State) (port : Nat) (point : List Byte), Claim.SpdmAt s port 3 → Claim.Signs s → (s.host port).sessions.length < 4 →
    ∃ t bs, exec (.keyExchange port 0 point) s = .next t ∧
      match Config.ecShared (Config.freeValue 45 s.free) point with
      | some z => Claim.Says s t port 0x64 bs ∧
        (t.host port).sessions = (s.host port).sessions ++ [{ id := (s.host port).nextSession, secret := leBytes 48 z, open_ := false, updates := 0 }]
      | none => t.out = s.out ++ [.spdm port 0x7F [1]] ∧ (t.host port).sessions = (s.host port).sessions) ∧
  ∀ (s : State) (port : Nat) (x : Session), Claim.OneSession s port x →
    (x.open_ = false → (∃ t, exec (.finish port x.id true) s = .next t ∧ Claim.Says s t port 0x65 [] ∧ (t.host port).sessions = [{ x with open_ := true }]) ∧
      ∃ t, exec (.finish port x.id false) s = .next t ∧ (t.host port).sessions = [] ∧ t.out = s.out ++ [.spdm port 0x7F [6]]) ∧
    (x.open_ = true → (∃ t, exec (.keyUpdate port x.id) s = .next t ∧ Claim.Says s t port 0x69 [] ∧ (t.host port).sessions = [{ x with updates := x.updates + 1 }]) ∧
      (∃ t, exec (.heartbeat port x.id) s = .next t ∧ Claim.Says s t port 0x68 [] ∧ (t.host port).sessions = [x]) ∧
      (∃ t, exec (.endSession port x.id) s = .next t ∧ Claim.Says s t port 0x6C [] ∧ (t.host port).sessions = [] ∧ (t.host port).keys = (s.host port).keys) ∧
      ∀ (stream info : Nat) (pf1 : Bool), stream < 5 →
        (∃ t, exec (.keyProg port x.id stream info true pf1) s = .next t ∧ NMap.get (0, false) (t.host port).streams stream = (1, pf1) ∧
          (NMap.find? (t.host port).keys (2 ^ 24 * stream + info % 2 ^ 24)).isSome = true ∧ t.out = s.out) ∧
        exec (.keyProg port x.id stream info false pf1) s = .next { s with out := s.out ++ [.spdm port 0x7F [1]] })

namespace Sys2Proof.Claim

/-- A manager function's access of eight aligned bytes reaches a listed register (R5, R23, R447). -/
def Reaches (s : State) (host a : Nat) : Prop := host < 2 ∧ a < 2 ^ 28 ∧ s.responds a = true ∧ s.absentAt a = false ∧ a % 8 = 0 ∧ regFields a ≠ []

/-- One record of severity 6 with event code 0x8000 (or `code`) and the given detail is written (R576). -/
def BadAccess (s t : State) (block code host detail : Nat) : Prop :=
  t.errlog = (s.recWords { sev := 6, block := block, code := code, die := s.actDie, unit := host, detail := detail } :: s.errlog).take 4096 ∧
  t.reg (aErr 8) = (s.reg (aErr 8) + 1) % 2 ^ 32

/-- The module takes part on the management bus under an assigned address (R567). -/
def OnBus (s : State) : Prop := s.onBus = true ∧ s.i3c.addr.isSome = true

end Sys2Proof.Claim

/-- R5, R7, R8, R9, R326, R428 to R430, R434, R444, R448 to R450, R482, R541, R544, R546, R567, R574, R576: reads and writes of registers by the manager functions,
tenants, the pod window and the management bus. -/
def Obligations.RegistersReadAndWritten : Prop :=
  (∀ (s : State) (host p : Nat), p < 2 → Claim.Reaches s host (aHpCnt p) →
    (s.owns host = true → ∃ t, exec (.rcRead host (aHpCnt p)) s = .next t ∧ { t with out := s.out, regs := s.regs } = s ∧ t.out = s.out ++ [.answer host (s.reg (aHpCnt p))] ∧
      t.reg (aHpCnt p) = 0 ∧ ∀ a, a ≠ aHpCnt p → t.reg a = s.reg a) ∧
    (s.owns host = false → exec (.rcRead host (aHpCnt p)) s = .next { s with out := s.out ++ [.answer host (s.reg (aHpCnt p))] })) ∧
  (∀ (s : State) (host port e : Nat) (r : List Nat), port < 2 → Claim.Reaches s host (0x1000C0 + 0x1000 * port) → NMap.get [] s.events port = e :: r →
    ∃ t, exec (.mgtEvtRead host port) s = .next t ∧ { t with out := s.out, events := s.events } = s ∧ t.out = s.out ++ [.answer host (e % 2 ^ 64)] ∧
      NMap.get [] t.events port = if s.owns host = true then r else e :: r) ∧
  (∀ (s : State) (host : Nat), Claim.Reaches s host (aErr 0) → s.owns host = true →
    ∃ t, exec (.errStatusAlertClear host) s = .next t ∧ { t with regs := s.regs } = s ∧ t.fld (aErr 0) 0 1 = 0 ∧ t.fld (aErr 0) 1 63 = s.fld (aErr 0) 1 63 ∧
      ∀ a, a ≠ aErr 0 → t.reg a = s.reg a) ∧
  (∀ (s : State) (host n v : Nat), n < 18 → v < 3 → Claim.Reaches s host (aCoh n 8) → s.owns host = true →
    ∃ t, exec (.netCohPredCfgClr host n v) s = .next t ∧ { t with regs := s.regs, nodes := s.nodes } = s ∧ t.fld (aCoh n 8) 0 2 = v ∧ t.node n = { s.node n with pred := [] }) ∧
  (∀ (s : State) (host a n : Nat), host < 2 → a < 2 ^ 28 → s.responds a = true → s.absentAt a = false → n ≤ 8 →
    (n ≠ 8 ∨ a % 8 ≠ 0 → ∃ t, exec (.badRegisterRead (.bar0 host a n)) s = .next t ∧ t.out = s.out ++ [.answer host (2 ^ (8 * n) - 1)] ∧ Claim.BadAccess s t (blockOf a) 0x8000 host a) ∧
    (n = 8 → a % 8 = 0 → regFields a = [] →
      ∃ t, exec (.badRegisterRead (.bar0 host a 8)) s = .next t ∧ t.out = s.out ++ [.answer host 0] ∧ Claim.BadAccess s t (blockOf a) 0x8000 host (a + 3 * 2 ^ 28))) ∧
  (∀ (s : State) (port sl o : Nat) (pasid : Option Nat), Claim.TenantMay s port pasid sl → port < 2 → 0x8000 ≤ o → o < 0x10000 → o % 8 = 0 →
    (∃ t, exec (.badRegisterRead (.slice port pasid o 4)) s = .next t ∧ t.out = s.out ++ [.tenantAnswer port pasid 0xFFFFFFFF] ∧ t.free = s.free + 1) ∧
    exec (.badRegisterRead (.slice port pasid o 8)) s = .next { s with out := s.out ++ [.tenantAnswer port pasid (s.sliceView sl o)] }) ∧
  (∀ (s : State) (host v : Nat), Claim.Reaches s host (aLnk 8) → s.owns host = true → v < 2 ^ 64 →
    (1 ≤ v % 128 → v % 128 ≤ 100 → ∃ t, exec (.registerWrite (.reg (.bar0 host (aLnk 8) 8) v)) s = .next t ∧ { t with regs := s.regs } = s ∧ t.fld (aLnk 8) 0 7 = v % 128 ∧
      t.fld (aLnk 8) 7 57 = s.fld (aLnk 8) 7 57 ∧ ∀ a, a ≠ aLnk 8 → t.reg a = s.reg a) ∧
    (v % 128 = 0 ∨ 100 < v % 128 → ∃ t, exec (.registerWrite (.reg (.bar0 host (aLnk 8) 8) v)) s = .next t ∧ t.reg (aLnk 8) = s.reg (aLnk 8) ∧
      Claim.BadAccess s t 6 0x8000 host (aLnk 8 + 2 * 2 ^ 28))) ∧
  (∀ (s : State) (host v : Nat), Claim.Reaches s host (aPwr 0x10) → s.owns host = true → v < 2 ^ 64 →
    (s.fld aCommitStatus 0 2 = 0 → ∃ t, exec (.registerWrite (.reg (.bar0 host (aPwr 0x10) 8) v)) s = .next t ∧ { t with staged := s.staged } = s ∧
      t.stagedReg (aPwr 0x10) % 2 ^ 11 = v % 2 ^ 11 ∧ ∀ a, a ≠ aPwr 0x10 → t.stagedReg a = s.stagedReg a) ∧
    (s.fld aCommitStatus 0 2 ≠ 0 → exec (.registerWrite (.reg (.bar0 host (aPwr 0x10) 8) v)) s = .next (s.flag 0x28 0))) ∧
  (∀ (s : State) (host a v : Nat), Claim.Reaches s host a → s.owns host = false → (a < 0x100000 + 0x1000 * host ∨ 0x101000 + 0x1000 * host ≤ a) →
    ∃ t, exec (.registerWrite (.reg (.bar0 host a 8) v)) s = .next t ∧ t.fld (aHpErr host) 1 1 = 1 ∧ Claim.BadAccess s t 0 1 host (a + 5 * 2 ^ 28) ∧
      ∀ b, b ≠ aHpErr host → b ≠ aErr 8 → t.reg b = s.reg b) ∧
  (∀ (s : State) (port v : Nat), port < 2 → s.phase = .ready →
    (∃ t, exec (.registerWrite (.bar port 0 0 v)) s = .next t ∧ { t with hosts := s.hosts } = s ∧ NMap.get 0 (t.host port).cfg 0 = BitVec.ofNat 64 (v % 2 ^ 64 / 2 ^ 28 * 2 ^ 28)) ∧
    (∃ t, exec (.registerWrite (.msix port 0 8 v)) s = .next t ∧ { t with hosts := s.hosts } = s ∧ NMap.get 0 (t.host port).cfg 0x10008 = BitVec.ofNat 64 v) ∧
    (NMap.get 0 (s.host port).cfg 8 ≠ BitVec.ofNat 64 (v % 2 ^ 64 / 2 ^ 16 * 2 ^ 16) → s.fld (aHpStatus port) 10 2 = 2 →
      ∃ t, exec (.registerWrite (.bar port 1 0 v)) s = .next t ∧ NMap.get 0 (t.host port).cfg 8 = BitVec.ofNat 64 (v % 2 ^ 64 / 2 ^ 16 * 2 ^ 16) ∧ t.fld (aHpStatus port) 10 2 = 3)) ∧
  (∀ (s : State) (port sl v : Nat) (pasid : Option Nat), Claim.TenantMay s port pasid sl → port < 2 →
    ∃ t, exec (.registerWrite (.reg (.slice port pasid 0xD828 8) v)) s = .next t ∧ { t with swin := s.swin } = s ∧ t.sreg sl 0xD828 = v % 512) ∧
  (∀ (s : State) (addr : Nat), s.onBus = true →
    exec (.dynamicAddressAssignment addr) s = .next { s with i3c := { s.i3c with addr := some (addr % 128) }, out := s.out ++ [.answer 3 s.provisionedId] }) ∧
  (∀ (s : State) (b : Byte) (bs : List Byte), Claim.OnBus s →
    exec (.privateWrite (b :: bs)) s = .next { s with i3c := { s.i3c with index := b.toNat } } ∧
    (s.i3c.index = 1 → exec .privateRead s = .next { s with out := s.out ++ [.answer 3 (s.reg 8)] }) ∧
    (6 < s.i3c.index → exec .privateRead s = .next { s with out := s.out ++ [.answer 3 0] })) ∧
  (∀ (s : State) (port ofs size m d out : Nat), port < 2 → ofs < 2 ^ 34 → size ≤ 8 → s.phase = .ready → s.owns port = true → bits (s.reg (0x10400 + 8 * (ofs / 2 ^ 28))) 0 15 = m →
    bit (s.reg (0x10400 + 8 * (ofs / 2 ^ 28))) 15 = true → m ≠ s.ownModule → (s.host port).tunnels = [] → s.wayOut (46 + s.actDie) m = some (d, out) →
    ∃ t p, exec (.podWindowAccess port ofs size none) s = .next t ∧ { t with opids := s.opids, hosts := s.hosts, ports := s.ports, out := s.out } = s ∧
      t.out = s.out ++ [.link out p] ∧ p.ty = 10 ∧ p.dst = m ∧ p.opid = NMap.get 0 s.opids m ∧ p.addr = tunnelAddr (ofs % 2 ^ 28) size 0 port ∧
      (t.host port).tunnels = [(p.opid, m, s.time.toNat, none)] ∧ NMap.get 0 t.opids m = (p.opid + 1) % 2 ^ 32) ∧
  (∀ (s : State) (port m op since : Nat), port < 2 → (s.host port).tunnels = [(op, m, since, none)] → since + 10000000 ≤ s.time.toNat →
    ∃ t, exec (.tunnelReadTimeout port m op) s = .next t ∧ (t.host port).tunnels = [] ∧ t.out = s.out ++ [.answer port (2 ^ 64 - 1)] ∧ t.fld (aHpErr port) 5 1 = 1 ∧
      t.fld (aHpCnt port) 48 16 = min (s.fld (aHpCnt port) 48 16 + 1) 65535) ∧
  ∀ (s : State) (port : Nat) (p : Packet), Claim.LinkIn s port p →
    (bit p.addr 35 = false → ∃ t, exec (.managementTunnel port p) s = .next t ∧ Claim.Taken s t port ∧ { t with ports := s.ports, out := s.out } = s ∧
      t.out = s.out ++ [.event 0 0x406 [p.src, p.key], .event 1 0x406 [p.src, p.key]]) ∧
    (∀ since, bit p.addr 35 = true → bits p.addr 32 2 = 2 → (s.host (bits p.addr 34 1)).tunnels = [(p.opid, p.src, since, none)] →
      ∃ t, exec (.managementTunnel port p) s = .next t ∧ Claim.Taken s t port ∧ (t.host (bits p.addr 34 1)).tunnels = [] ∧
        t.out = s.out ++ [.answer (bits p.addr 34 1) (leNat (p.payload.take (bits p.addr 28 4)))]) ∧
    (bit p.addr 35 = true → bits p.addr 32 2 = 1 → bits p.addr 28 4 = 8 → bits p.addr 0 28 = aLnk 8 → s.phase = .ready → s.fld aOwner 19 2 = 2 → s.fld aOwner 3 15 = p.src →
      s.fld aOwner 18 1 = bits p.addr 34 1 → 1 ≤ leNat (p.payload.take 8) % 128 → leNat (p.payload.take 8) % 128 ≤ 100 →
      ∃ t, exec (.managementTunnel port p) s = .next t ∧ Claim.Taken s t port ∧ t.fld (aLnk 8) 0 7 = leNat (p.payload.take 8) % 128 ∧ t.out = s.out)

namespace Sys2Proof.Claim

/-- A mailbox command of a port is taken: after DEV_READY, on a module that is not unlocked, from the owner, none in progress (R544). -/
def MailboxMay (s : State) (port : Nat) : Prop :=
  port < 2 ∧ s.phase = .ready ∧ s.fld (aSec 0) 0 2 ≠ 2 ∧ s.owns port = true ∧ s.fld (0x100048 + 0x1000 * port) 0 1 = 0

/-- The response of a command: DONE, SEQ and STATUS, with PF0 vector 0 (R544). -/
def Responded (t : State) (port seq st : Nat) : Prop := t.reg (0x100048 + 0x1000 * port) = 2 + seq % 256 * 2 ^ 8 + st * 2 ^ 16 ∧ .msix port 0 0 0 ∈ t.out

/-- A refused command has no effect beyond its response. -/
def Refused (s : State) (i : Instr) (port seq st : Nat) : Prop := ∃ t, exec i s = .next t ∧ Responded t port seq st ∧ { t with regs := s.regs, out := s.out } = s

/-- A completion event: command, status, argument, with PF0 vector 1 (R544). -/
def Event (s t : State) (port op st arg : Nat) : Prop :=
  NMap.get [] t.events port = NMap.get [] s.events port ++ [op + st * 2 ^ 8 + arg % 2 ^ 48 * 2 ^ 16] ∧ .msix port 0 1 0 ∈ t.out

/-- A module reset with a cause: every store is clear, the sequence stands at a step (R539, R554). -/
def WasReset (t : State) (step cause : Nat) : Prop :=
  t.mem = [] ∧ t.cores = [] ∧ t.slices = [] ∧ t.halves = [] ∧ t.queues = [] ∧ t.staged = [] ∧ t.fld aCfgBoot 0 4 = step ∧ t.fld aCfgBoot 8 4 = cause ∧
  t.sec.handles = [] ∧ t.sec.akey = none ∧ (t.phase = .held ∨ t.phase = .running)

/-- A part of a transition is open, and the slices on a die pause (R488, R545). -/
def Paused (s t : State) (w : Nat) : Prop := t.fld (aSec 0) 6 1 = 1 ∧ ∀ sl, sl < 64 → s.exists? sl = true → s.onDie w sl = true → (sl, 1) ∈ t.mgr.paused

/-- A port die that nothing enabled uses (R544). -/
def PdFree (s : State) (p : Nat) : Prop :=
  (∀ i, i < 16 → portDie i = p → s.fld (aPort i 0) 0 1 = 0) ∧ (∀ q, q < 512 → s.qEn q = true → s.fld (aCq q 0) 7 7 ≠ 64 + p) ∧
  ∀ sl, sl < 64 → s.fld (aLnk (0x400 + 8 * sl)) 0 1 = 1 → s.fld (aLnk (0x400 + 8 * sl)) 1 2 ≠ p

end Sys2Proof.Claim

/-- R487, R488, R503 to R505, R544, R545, R551, R552, R554: the management and security commands of the mailbox. -/
def Obligations.MailboxCommands : Prop :=
  (∀ (s : State) (port seq : Nat), Claim.MailboxMay s port → s.fld aCommitStatus 0 2 = 0 →
    (∀ r, ∃ t, exec (.routeset port seq (some (.mesh r))) s = .next t ∧ Claim.Responded t port seq 0 ∧ { t with regs := s.regs, out := s.out, stagedMesh := s.stagedMesh } = s ∧ t.stagedMesh = some r) ∧
    (∀ r, ∃ t, exec (.routeset port seq (some (.link r))) s = .next t ∧ Claim.Responded t port seq 0 ∧ { t with regs := s.regs, out := s.out, stagedLink := s.stagedLink } = s ∧ t.stagedLink = some r) ∧
    Claim.Refused s (.routeset port seq none) port seq 1) ∧
  (∀ (s : State) (port seq : Nat), Claim.MailboxMay s port →
    (s.mgr.update = none → s.arg port 0 ∈ [1, 3, 4, 5] → ∃ t, exec (.fwupdate port seq) s = .next t ∧ Claim.Responded t port seq 0 ∧ { t with regs := s.regs, out := s.out, mgr := s.mgr } = s ∧
      t.mgr = { s.mgr with update := some (s.arg port 0, port) }) ∧
    (s.mgr.update.isSome = true → Claim.Refused s (.fwupdate port seq) port seq 2)) ∧
  (∀ (s : State) (c port : Nat) (bs : List Byte), s.mgr.update = some (c, port) →
    ∃ t, exec (.fwupdateComplete (some bs)) s = .next t ∧ { t with out := s.out, events := s.events, mgr := s.mgr } = s ∧ t.mgr.update = none ∧
      if Config.sigOk 0 bs = true then NMap.find? t.mgr.images c = some (Config.sha256 bs) ∧ Claim.Event s t port 0x20 0 c else t.mgr.images = s.mgr.images ∧ Claim.Event s t port 0x20 1 c) ∧
  (∀ (s : State) (port seq : Nat), Claim.MailboxMay s port → s.mgr.changes = [] → NMap.get 0 s.dieState (59 - s.acting) = 0 → s.fld (aSec 0) (4 - s.acting) 1 = 1 →
    ∃ t, exec (.handover port seq) s = .next t ∧ Claim.Responded t port seq 0 ∧ NMap.get 0 t.dieState (59 - s.acting) = 6 ∧ t.mgr.changes = [1] ∧ t.fld (aSec 0) 6 1 = 1 ∧
      NMap.get 0 t.dieGen (59 - s.acting) = (NMap.get 0 s.dieGen (59 - s.acting) + 1) % 65536 ∧ NMap.find? t.sec.pend 1 = some (s.firmware 1)) ∧
  (∀ (s : State) (k : Nat), s.phase = .ready → s.mgr.probation = none → NMap.find? s.sec.spares (1 - s.acting) = some k →
    (s.mgr.changes = [1] → ∃ t, exec (.standbyTakeover false) s = .next t ∧ t.acting = 1 - s.acting ∧ t.sec.akey = some k ∧ t.fld (aSec 0) 5 1 = 1 ∧ t.mgr.probation = some s.time.toNat ∧
      NMap.get 0 t.dieState (58 + (1 - s.acting)) = 0) ∧
    (NMap.get 0 s.dieState (59 - s.acting) = 0 → s.mgr.changes = [] → ∃ t, exec (.standbyTakeover true) s = .next t ∧ t.acting = 1 - s.acting ∧ t.sec.akey = some k ∧
      NMap.get 0 t.dieState (58 + s.acting) = 2 ∧ t.fld (aErr 0) 0 1 = 1 ∧ t.fld (aHpStatus s.acting) 0 2 = 0) ∧
    (NMap.get 0 s.dieState (59 - s.acting) = 2 → ∃ t, exec (.standbyTakeover true) s = .next t ∧ Claim.WasReset t 3 2)) ∧
  (∀ (s : State) (t0 : Nat), s.mgr.probation = some t0 → t0 + 60000000000 ≤ s.time.toNat →
    ∃ t, exec .probationEnd s = .next t ∧ t.mgr.probation = none ∧ NMap.get 0 t.dieState (59 - s.acting) = 6 ∧ 1 ∉ t.mgr.changes) ∧
  (∀ (s : State) (port seq w d : Nat), Claim.MailboxMay s port → s.arg port 0 = w → w < 54 → d = s.dieOfWindow w → d < 58 → NMap.get 0 s.dieState d = 0 → (∀ i, i < 58 → NMap.get 0 s.dieState i ≠ 6) →
    ∃ t, exec (.diereload port seq) s = .next t ∧ Claim.Responded t port seq 0 ∧ NMap.get 0 t.dieState d = 6 ∧ NMap.get 0 t.dieGen d = (NMap.get 0 s.dieGen d + 1) % 65536 ∧ Claim.Paused s t w) ∧
  (∀ (s : State) (port seq d site : Nat), Claim.MailboxMay s port → s.arg port 0 = d → d < 32 → s.present d = true → site = s.sites.getD d 99 → NMap.get 0 s.dieState site = 0 →
    (s.mgr.changes = [] → s.reserves ≠ [] → ∃ t, exec (.subst port seq) s = .next t ∧ Claim.Responded t port seq 0 ∧ NMap.get 0 t.dieState site = 5 ∧ t.mgr.changes = [300 + d] ∧ Claim.Paused s t d) ∧
    (s.mgr.changes = [] → s.reserves = [] → Claim.Refused s (.subst port seq) port seq 1) ∧
    (s.mgr.recal = [] → ∃ t, exec (.recal port seq) s = .next t ∧ Claim.Responded t port seq 0 ∧ t.mgr.recal = [d] ∧ Claim.Paused s t d)) ∧
  (∀ (s : State) (port seq p : Nat), Claim.MailboxMay s port → s.arg port 0 = p → p < 4 → NMap.get 0 s.dieState (54 + p) ≠ 6 →
    (s.arg port 1 = 0 → s.pdDown p = false → Claim.PdFree s p → ∃ t, exec (.pdpower port seq) s = .next t ∧ Claim.Responded t port seq 0 ∧ NMap.get 0 t.dieState (54 + p) = 7) ∧
    (s.arg port 1 = 0 → s.pdDown p = true → Claim.Refused s (.pdpower port seq) port seq 1) ∧
    (s.arg port 1 = 1 → s.pdDown p = true → ∃ t, exec (.pdpower port seq) s = .next t ∧ Claim.Responded t port seq 0 ∧ NMap.get 0 t.dieState (54 + p) = 6)) ∧
  (∀ (s : State) (port seq : Nat), Claim.MailboxMay s port → ∃ t, exec (.mreset port seq) s = .next t ∧ Claim.WasReset t 3 4) ∧
  (∀ (s : State) (port seq : Nat), Claim.MailboxMay s port →
    (s.sec.akey.isSome = true → ∃ t, exec (.attest port seq) s = .next t ∧ Claim.Responded t port seq 0 ∧ { t with regs := s.regs, out := s.out } = s ∧
      .response port (s.quote ((List.range 4).flatMap fun i => leBytes 8 (s.arg port i)) none) ∈ t.out) ∧
    (s.sec.akey = none → ∃ t, exec (.attest port seq) s = .next t ∧ t.fld (0x100048 + 0x1000 * port) 0 1 = 1 ∧ t.mgr = { s.mgr with waiting := s.mgr.waiting ++ [(port, seq)] })) ∧
  (∀ (s : State) (port seq : Nat) (bs : List Byte), Claim.MailboxMay s port →
    Claim.Refused s (.cfgrec port seq none) port seq 1 ∧
    ∃ t, exec (.cfgrec port seq (some bs)) s = .next t ∧
      if Config.sigOk 1 bs = true ∧ Config.recordField 0 s.sec.record < Config.recordField 0 bs then Claim.Responded t port seq 0 ∧ t.sec = { s.sec with record := bs }
      else Claim.Responded t port seq 1 ∧ t.sec = s.sec ∧ t.fld (aSec 0x10) 2 1 = 1 ∧ t.fld (aSec 0x18) 0 16 = min (s.fld (aSec 0x18) 0 16 + 1) 65535) ∧
  (∀ (s : State) (port seq : Nat), Claim.MailboxMay s port →
    ∃ t c, exec (.unlockreq port seq) s = .next t ∧ Claim.Responded t port seq 0 ∧ t.sec.challenge = some (c, s.time.toNat) ∧ c.length = 64 ∧ c.take 8 = leBytes 8 (s.fld 0 24 40) ∧
      t.fld (aSec 0) 0 2 = 1 ∧ ∀ i, i < 8 → t.reg (0x100080 + 0x1000 * port + 8 * i) = leNat ((c.drop (8 * i)).take 8)) ∧
  (∀ (s : State) (port seq t0 : Nat) (c tok : List Byte), Claim.MailboxMay s port → s.sec.challenge = some (c, t0) → s.fld (aSec 0) 0 2 = 1 → (∀ sl, sl < 64 → s.exists? sl = false) →
    ∃ t, exec (.unlock port seq (some tok)) s = .next t ∧
      if Config.sigOk 2 (c ++ tok) = true then Claim.Responded t port seq 0 ∧ t.fld (aSec 0) 0 2 = 2 ∧ t.rlog.unlocks = s.rlog.unlocks + 1 ∧ t.mem = [] ∧ t.halves = [] ∧ t.queues = [] ∧ t.cores = [] ∧
        t.sec.handles = [] ∧ t.sec.akey = none ∧ t.sec.challenge = none
      else Claim.Responded t port seq 1 ∧ t.fld (aSec 0) 0 2 = 1 ∧ t.sec = s.sec ∧ t.mem = s.mem ∧ t.fld (aSec 0x10) 4 1 = 1) ∧
  (∀ (s : State) (c : List Byte) (t0 : Nat), s.sec.challenge = some (c, t0) → t0 + 3600000000000 ≤ s.time.toNat →
    ∃ t, exec .unlockChallengeExpiry s = .next t ∧ t.sec.challenge = none ∧ t.fld (aSec 0) 0 2 = 0) ∧
  ∀ (s : State) (port seq : Nat), port < 2 → s.phase = .ready → s.owns port = false → s.fld (0x100048 + 0x1000 * port) 0 1 = 0 →
    Claim.Refused s (.handover port seq) port seq 4 ∧ Claim.Refused s (.map port seq) port seq 4 ∧ Claim.Refused s (.hbmfree port seq) port seq 4 ∧ Claim.Refused s (.mreset port seq) port seq 4

namespace Sys2Proof.Claim

/-- The arguments of a MAP: slice, address, page size, RO, POLICY, CLASS, on a free range (R459). -/
def MapArgs (s : State) (port sl va size ro pol cls : Nat) : Prop :=
  s.arg port 0 = sl ∧ s.arg port 1 = va ∧ s.arg port 2 = size ∧ s.arg port 5 = ro ∧ s.arg port 6 = pol ∧ s.arg port 7 = cls ∧ sl < 64 ∧ s.exists? sl = true ∧
  (size = 0x10000 ∨ size = 0x200000 ∨ size = 0x40000000) ∧ va % size = 0 ∧ va + size ≤ 2 ^ 48 ∧ ro ≤ 1 ∧ pol ≤ 2 ∧ cls ≤ 7 ∧
  ∀ e ∈ (s.slice sl).pages, e.1 + e.2.size ≤ va ∨ va + size ≤ e.1

/-- One page is mapped; near caches may drop lines. -/
def Mapped (s t : State) (port seq sl va : Nat) (p : Page) : Prop :=
  Responded t port seq 0 ∧ { t with regs := s.regs, out := s.out, slices := s.slices, cores := s.cores } = s ∧ NMap.find? (t.slice sl).pages va = some p ∧
  ∀ v, v ≠ va → NMap.find? (t.slice sl).pages v = NMap.find? (s.slice sl).pages v

end Sys2Proof.Claim

/-- R459 to R461, R479, R489: the commands of the slice manager and their completions. -/
def Obligations.SliceManagerCommands : Prop :=
  (∀ (s : State) (port seq u sl : Nat), Claim.MailboxMay s port → s.mgr.grant = none → s.arg port 0 = sl → s.arg port 1 = u → sl < 64 → s.exists? sl = true → s.unitOk u = true →
    (NMap.find? s.mgr.grants u = none → ∃ t, exec (.hbmgrant port seq) s = .next t ∧ Claim.Responded t port seq 0 ∧ { t with regs := s.regs, out := s.out, mgr := s.mgr } = s ∧
      t.mgr = { s.mgr with grant := some (u, .slice sl, port) }) ∧
    ((NMap.find? s.mgr.grants u).isSome = true → Claim.Refused s (.hbmgrant port seq) port seq 1)) ∧
  (∀ (s : State) (u port : Nat) (use : UnitUse), s.mgr.grant = some (u, use, port) →
    ∃ t, exec .hbmgrantComplete s = .next t ∧ { t with mem := s.mem, poison := s.poison, tags := s.tags, mgr := s.mgr, events := s.events, out := s.out } = s ∧
      t.mgr.grant = none ∧ NMap.find? t.mgr.grants u = some use ∧ Claim.Event s t port 0x40 0 u ∧ (∀ a, inUnit u a = true → t.mem.read a = 0) ∧
      ∀ a, inUnit u a = false → t.mem.read a = s.mem.read a) ∧
  (∀ (s : State) (port seq u : Nat), Claim.MailboxMay s port → s.arg port 0 = u → (NMap.find? s.mgr.grants u).isSome = true → s.mgr.freeing = none → s.mgr.load = none → s.mgr.move = none →
    (s.unitBusy u = false → ∃ t, exec (.hbmfree port seq) s = .next t ∧ Claim.Responded t port seq 0 ∧ NMap.find? t.mgr.grants u = none ∧ (∀ a, inUnit u a = true → t.mem.read a = 0) ∧
      (∀ a, inUnit u a = false → t.mem.read a = s.mem.read a) ∧ ∀ sl va p, NMap.find? (t.slice sl).pages va = some p → p.onUnit u = false) ∧
    (s.unitBusy u = true → ∃ t, exec (.hbmfree port seq) s = .next t ∧ t.fld (0x100048 + 0x1000 * port) 0 1 = 1 ∧ t.mgr = { s.mgr with freeing := some (u, port, seq) } ∧ t.mem = s.mem ∧
      ∀ sl va p, NMap.find? (t.slice sl).pages va = some p → p.onUnit u = false)) ∧
  (∀ (s : State) (port seq sl va size ro pol cls u ofs : Nat), Claim.MailboxMay s port → Claim.MapArgs s port sl va size ro pol cls → s.arg port 3 = u → s.arg port 4 = ofs →
    (u < 2 ^ 16 → ofs % size = 0 → ofs + size ≤ 2 ^ 30 →
      (NMap.find? s.mgr.grants u = some (.slice sl) →
        ∃ t, exec (.map port seq) s = .next t ∧ Claim.Mapped s t port seq sl va { size := size, tgt := .own (unitBase u + ofs), ro := ro == 1, policy := pol, cls := cls }) ∧
      (∀ n, NMap.find? s.mgr.grants u = some (.object n) → ro = 1 →
        ∃ t, exec (.map port seq) s = .next t ∧ Claim.Mapped s t port seq sl va { size := size, tgt := .obj n (unitBase u + ofs), ro := true, policy := pol, cls := cls }) ∧
      (∀ n, NMap.find? s.mgr.grants u = some (.object n) → ro = 0 → Claim.Refused s (.map port seq) port seq 1)) ∧
    (∀ a, u = 2 ^ 63 + a → a < 2 ^ 63 → a % size = 0 → ofs = 0 →
      ∃ t, exec (.map port seq) s = .next t ∧ Claim.Mapped s t port seq sl va { size := size, tgt := .host (s.portOf sl) a, ro := ro == 1, policy := pol, cls := cls })) ∧
  (∀ (s : State) (port seq sl va : Nat) (p : Page), Claim.MailboxMay s port → s.arg port 0 = sl → s.arg port 1 = va → sl < 64 → s.exists? sl = true →
    (NMap.find? (s.slice sl).pages va = some p →
      ∃ t, exec (.unmap port seq) s = .next t ∧ Claim.Responded t port seq 0 ∧ { t with regs := s.regs, out := s.out, slices := s.slices, cores := s.cores } = s ∧
        NMap.find? (t.slice sl).pages va = none ∧ ∀ v, v ≠ va → NMap.find? (t.slice sl).pages v = NMap.find? (s.slice sl).pages v) ∧
    (NMap.find? (s.slice sl).pages va = none → Claim.Refused s (.unmap port seq) port seq 1)) ∧
  (∀ (s : State) (port seq n len : Nat), Claim.MailboxMay s port → s.arg port 0 = n → s.arg port 2 = len → s.mgr.load = none →
    (0 < len → len ≤ (NMap.get [] s.mgr.objects n).length * 2 ^ 30 →
      ∃ t, exec (.objload port seq) s = .next t ∧ Claim.Responded t port seq 0 ∧ { t with regs := s.regs, out := s.out, mgr := s.mgr } = s ∧
        t.mgr = { s.mgr with load := some (n, s.arg port 1, len, port) }) ∧
    (NMap.get [] s.mgr.objects n = [] → Claim.Refused s (.objload port seq) port seq 1)) ∧
  (∀ (s : State) (n a len port u : Nat) (bs : List Byte), s.mgr.load = some (n, a, len, port) →
    (∃ t, exec (.objloadComplete none) s = .next t ∧ { t with out := s.out, events := s.events, mgr := s.mgr } = s ∧ t.mgr = { s.mgr with load := none } ∧ Claim.Event s t port 0x44 1 n) ∧
    (NMap.get [] s.mgr.objects n = [u] → bs.length ≤ len → bs.length ≤ 2 ^ 30 → s.halves = [] → s.flight.net = [] →
      ∃ t, exec (.objloadComplete (some bs)) s = .next t ∧ t.mgr = { s.mgr with load := none } ∧ Claim.Event s t port 0x44 0 n ∧ NMap.find? t.sec.objects n = some (Config.sha256 bs) ∧
        t.mem = s.mem.writeBytes (unitBase u) bs)) ∧
  (∀ (s : State) (port seq sl a b : Nat), Claim.MailboxMay s port → s.mgr.move = none → s.arg port 0 = sl → s.arg port 1 = a → s.arg port 2 = b → sl < 64 → s.exists? sl = true →
    NMap.find? s.mgr.grants a = some (.slice sl) → NMap.find? s.mgr.grants b = some (.slice sl) →
    (a ≠ b → ∃ t, exec (.migrate port seq) s = .next t ∧ Claim.Responded t port seq 0 ∧ { t with regs := s.regs, out := s.out, mgr := s.mgr } = s ∧ t.mgr.move = some (sl, a, b, port) ∧ (sl, 0) ∈ t.mgr.paused) ∧
    (a = b → Claim.Refused s (.migrate port seq) port seq 1)) ∧
  ∀ (s : State) (sl a b port : Nat), s.mgr.move = some (sl, a, b, port) → s.cores = [] → s.halves = [] → s.unitBusy a = false →
    ∃ t, exec .migrateComplete s = .next t ∧ t.mgr.move = none ∧ (sl, 0) ∉ t.mgr.paused ∧ Claim.Event s t port 0x45 0 b ∧
      ∀ va p, NMap.find? (s.slice sl).pages va = some p →
        NMap.find? (t.slice sl).pages va = some (match p.tgt with | .own pa => if inUnit a pa = true then { p with tgt := .own (pa - unitBase a + unitBase b) } else p | _ => p)

namespace Sys2Proof.Claim

/-- A slice whose turn it is, with a running job, whose enabled command queue `q` of the security engine holds one clean command, which names another, empty, queue of the
slice for completions; no half holds a line (R497). -/
def SecHas (s : State) (sl q c : Nat) (w : Item) : Prop :=
  sl < 64 ∧ s.secTurn sl = true ∧ s.fld (aSec (0x400 + 8 * sl)) 0 1 = 1 ∧ s.jobOf sl = 1 ∧ q = s.fld (aSec (0x400 + 8 * sl)) 1 9 ∧ s.qEn q = true ∧ s.qFailed q = false ∧ s.qHeld q = false ∧
  (∃ pri no, (s.queue q).items = [⟨w, pri, no, none, .tail, false⟩]) ∧ (s.queue q).waits = [] ∧ secClean w = true ∧
  c = ifld w 10 9 ∧ c ≠ q ∧ s.qEn c = true ∧ s.qOwner c = sl ∧ s.qFailed c = false ∧ (s.queue c).items = [] ∧ (s.queue c).waits = [] ∧ 0 < s.qCap c ∧
  s.halves = [] ∧ s.flight.net = []

/-- The command has left its queue, and its completion item stands in the other with a status and a count (R497). -/
def SecEnds (s t : State) (q c : Nat) (w : Item) (st n : Nat) : Prop :=
  (t.queue q).items = [] ∧ (t.queue c).items = [⟨complItem (ifld w 0 8) st (ifld w 32 32) n 0 0 0 0 0 s.time.toNat 0, 3, (s.queue c).pushes, none, .tail, false⟩]

/-- The key handle that a command names. -/
def handleOf (sl : Nat) (w : Item) : Nat := 4 * sl + ifld w 8 2

end Sys2Proof.Claim

/-- R486, R492, R497 to R499: the commands of the security engine, the certification of attestation keys, the end of a transition. The functions of the
named standards stay uninterpreted (log 12). -/
def Obligations.SecurityEngineCommands : Prop :=
  (∀ (s s' : State) (sl q c : Nat) (w : Item) (b : List Byte), Claim.SecHas s sl q c w → ifld w 0 8 = 1 → s.sec.akey.isSome = true → s.fld (aSec 0) 0 2 ≠ 2 → s' = (s.popCmd q).1 →
    b = s'.quote (secNonce w) (some sl) →
    ∃ t, exec (.quote sl) s = .next t ∧ t.sec = s.sec ∧
      if s'.secMaps sl (secOut w) b.length true = false then Claim.SecEnds s t q c w 3 0
      else if secOut w % 64 ≠ 0 then Claim.SecEnds s t q c w 4 0
      else Claim.SecEnds s t q c w 0 b.length ∧ t.mem = (s'.secWrite sl (secOut w) b).mem) ∧
  (∀ (s s' r : State) (sl q c priv : Nat) (w : Item) (hb point out : List Byte), Claim.SecHas s sl q c w → ifld w 0 8 = 2 → s.sec.akey.isSome = true → s.fld (aSec 0) 0 2 ≠ 2 → s' = (s.popCmd q).1 →
    NMap.find? s.sec.handles (Claim.handleOf sl w) = none → s'.secMaps sl (secIn w) 97 false = true → s'.secRead sl (secIn w) 97 hb = (r, point, false) → priv = Config.freeValue 45 s.free →
    out = (Config.ecPoint priv).take 97 ++ zeros (128 - ((Config.ecPoint priv).take 97).length) ++
      { r with free := s.free + 1 }.quote (digestBytes (Config.sha256 (point ++ (Config.ecPoint priv).take 97 ++ secNonce w))) (some sl) →
    ∃ t, exec (.keyx sl hb) s = .next t ∧
      if s'.secMaps sl (secOut w) out.length true = false then Claim.SecEnds s t q c w 3 0 ∧ t.sec = s.sec
      else if secOut w % 64 ≠ 0 then Claim.SecEnds s t q c w 4 0 ∧ t.sec = s.sec
      else match Config.ecShared priv point with
        | none => Claim.SecEnds s t q c w 8 0 ∧ t.sec = s.sec
        | some z => Claim.SecEnds s t q c w 0 out.length ∧ ∃ info, NMap.find? t.sec.handles (Claim.handleOf sl w) = some (Config.hkdf 2 z (secNonce w) info, 1)) ∧
  (∀ (s : State) (sl q c : Nat) (w : Item) (k : BitVec 288 × Nat) (hb : List Byte), Claim.SecHas s sl q c w → NMap.find? s.sec.handles (Claim.handleOf sl w) = some k →
    s.sec.akey.isSome = true → s.fld (aSec 0) 0 2 ≠ 2 → ifld w 0 8 = 2 → ∃ t, exec (.keyx sl hb) s = .next t ∧ Claim.SecEnds s t q c w 2 0 ∧ t.sec = s.sec) ∧
  (∀ (s s' r : State) (sl q c n : Nat) (w : Item) (k : BitVec 288 × Nat) (hb bs : List Byte), Claim.SecHas s sl q c w → s' = (s.popCmd q).1 → NMap.find? s.sec.handles (Claim.handleOf sl w) = some k →
    n = secLen w → 0 < n → n ≤ 2 ^ 30 → secOut w % 64 = 0 →
    (ifld w 0 8 = 4 → s'.secMaps sl (secIn w) n false = true → s'.secMaps sl (secOut w) (n + 28) true = true → k.2 < 2 ^ 48 → s'.secRead sl (secIn w) n hb = (r, bs, false) →
      ∃ t g, exec (.sealBlob sl hb) s = .next t ∧ g = Config.gcmSeal (sealKey k.1) (sealIv k) (secNonce w) bs ∧ Claim.SecEnds s t q c w 0 n ∧
        t.mem = (r.secWrite sl (secOut w) (sealIv k ++ g.1 ++ g.2)).mem ∧ NMap.find? t.sec.handles (Claim.handleOf sl w) = some (k.1, k.2 + 1)) ∧
    (ifld w 0 8 = 4 → s'.secMaps sl (secIn w) n false = true → s'.secMaps sl (secOut w) (n + 28) true = true → 2 ^ 48 ≤ k.2 →
      ∃ t, exec (.sealBlob sl hb) s = .next t ∧ Claim.SecEnds s t q c w 6 0 ∧ t.sec = s.sec ∧ t.mem = s.mem) ∧
    (ifld w 0 8 = 3 → s'.secMaps sl (secIn w) (n + 28) false = true → s'.secMaps sl (secOut w) n true = true → s'.secRead sl (secIn w) (n + 28) hb = (r, bs, false) →
      ∃ t g, exec (.openBlob sl hb) s = .next t ∧ g = Config.gcmOpen (sealKey k.1) (bs.take 12) (secNonce w) ((bs.drop 12).take n) (bs.drop (12 + n)) ∧ t.sec = s.sec ∧
        if g.2 = true then Claim.SecEnds s t q c w 0 n ∧ t.mem = (r.secWrite sl (secOut w) (g.1.take n)).mem
        else Claim.SecEnds s t q c w 5 0 ∧ t.mem = (r.secWrite sl (secOut w) (zeros n)).mem)) ∧
  (∀ (s : State) (sl q c : Nat) (w : Item) (hb : List Byte), Claim.SecHas s sl q c w →
    (NMap.find? s.sec.handles (Claim.handleOf sl w) = none →
      (ifld w 0 8 = 5 → ∃ t, exec (.keydel sl) s = .next t ∧ Claim.SecEnds s t q c w 2 0 ∧ t.sec = s.sec) ∧
      (ifld w 0 8 = 4 → ∃ t, exec (.sealBlob sl hb) s = .next t ∧ Claim.SecEnds s t q c w 2 0 ∧ t.sec = s.sec) ∧
      (ifld w 0 8 = 3 → ∃ t, exec (.openBlob sl hb) s = .next t ∧ Claim.SecEnds s t q c w 2 0 ∧ t.sec = s.sec)) ∧
    ((NMap.find? s.sec.handles (Claim.handleOf sl w)).isSome = true → ifld w 0 8 = 5 →
      ∃ t, exec (.keydel sl) s = .next t ∧ Claim.SecEnds s t q c w 0 0 ∧ NMap.find? t.sec.handles (Claim.handleOf sl w) = none ∧ t.mem = s.mem ∧
        ∀ h, h ≠ Claim.handleOf sl w → NMap.find? t.sec.handles h = NMap.find? s.sec.handles h)) ∧
  (∀ (s : State) (die : Nat), die < 2 → s.fld (aSec 0) (3 + die) 1 = 1 → s.fld (aSec 0) 0 2 ≠ 2 →
    (die = s.acting → s.sec.akey = none → s.mgr.waiting = [] → ∃ t, exec (.attestationKeyCertified die) s = .next t ∧
      t.sec = { s.sec with akey := some s.sec.nextKey, nextKey := s.sec.nextKey + 1 } ∧ t.fld (aSec 0) 5 1 = 1 ∧ { t with sec := s.sec, regs := s.regs } = s) ∧
    (die ≠ s.acting → NMap.find? s.sec.spares die = none → ∃ t, exec (.attestationKeyCertified die) s = .next t ∧ { t with sec := s.sec } = s ∧
      NMap.find? t.sec.spares die = some s.sec.nextKey ∧ t.sec.nextKey = s.sec.nextKey + 1)) ∧
  ∀ (s : State) (i : Nat) (d : BitVec 256), s.fld (aSec 0) 6 1 = 1 → s.mgr.changes = [] → s.mgr.recal = [] → s.cores = [] → s.sec.pend = [(i, d)] →
    ∃ t, exec .transitionEnd s = .next t ∧ { t with regs := s.regs, mgr := s.mgr, sec := s.sec, dieState := s.dieState } = s ∧ t.fld (aSec 0) 6 1 = 0 ∧
      t.fld (aSec 8) 0 32 = (s.fld (aSec 8) 0 32 + 1) % 2 ^ 32 ∧ t.sec.pend = [] ∧ NMap.find? t.sec.meas i = some d ∧ ∀ sl, (sl, 1) ∉ t.mgr.paused

/-- R9, R21, R23, R540 to R543, R549, R551: the check of a commit and what it leads to, repair commits, the failure of a compute die, the self-test of its
reserve. The instant itself is stated with the broadcasts. -/
def Obligations.CommitsAndSubstitutions : Prop :=
  (∀ (s : State) (host : Nat), Claim.ManagerMay s host 0x10 →
    (s.fld aCommitStatus 0 2 = 0 →
      (∃ t, exec (.cfgCommitGo host) s = .next t ∧ { t with regs := s.regs } = s ∧ t.fld aCommitStatus 0 2 = (if s.commit.isSome then 3 else 1)) ∧
      exec (.cfgCommitDiscard host) s = .next { s with staged := [], stagedMesh := none, stagedLink := none }) ∧
    (s.fld aCommitStatus 0 2 ≠ 0 → exec (.cfgCommitGo host) s = .next (s.flag 0x28 1) ∧ exec (.cfgCommitDiscard host) s = .next (s.flag 0x28 1))) ∧
  (∀ (s : State), s.fld aCommitStatus 0 2 = 1 → s.commit = none → s.repairs = [] →
    (∀ rule index, s.firstFailure = some (rule, index) →
      ∃ t, exec .commitCheckDone s = .next t ∧ { t with regs := s.regs, out := s.out } = s ∧ t.fld aCommitStatus 0 4 = 8 ∧ t.fld aCommitStatus 4 16 = rule % 2 ^ 16 ∧
        t.fld aCommitStatus 20 12 = index % 2 ^ 12 ∧ t.fld aCommitStatus 32 32 = s.fld aCommitStatus 32 32) ∧
    (s.firstFailure = none →
      ∃ t c, exec .commitCheckDone s = .next t ∧ t.fld aCommitStatus 0 2 = 2 ∧ t.commit = some c ∧ c.repair = false ∧ c.epoch = (s.fld aCommitStatus 32 32 + 1) % 2 ^ 32 ∧ t.staged = s.staged)) ∧
  (∀ (s : State) (m : Nat), s.phase = .ready →
    (s.commit = none → s.fld aCommitStatus 0 2 ≠ 1 → ∃ t c, exec (.repairCommit none (some m)) s = .next t ∧ t.commit = some c ∧ c.repair = true ∧ c.mask = some (m % 2 ^ 64) ∧
      c.epoch = (s.fld aCommitStatus 32 32 + 1) % 2 ^ 32 ∧ t.repairs = s.repairs) ∧
    (s.commit.isSome = true → ∃ t c, exec (.repairCommit none (some m)) s = .next t ∧ t.commit = s.commit ∧ t.repairs = s.repairs ++ [c] ∧ c.mask = some (m % 2 ^ 64))) ∧
  (∀ (s : State) (die site : Nat), die < 32 → s.present die = true → site = s.sites.getD die 99 → 100 + die ∉ s.mgr.changes → s.cores = [] → (∀ sl, sl < 64 → s.jobOf sl ≠ 1) →
    (s.reserves ≠ [] → ∃ t, exec (.computeDieFailure die) s = .next t ∧ NMap.get 0 t.dieState site = 5 ∧ 100 + die ∈ t.mgr.changes ∧ t.sites = s.sites ∧
      (∃ b, .lost b [2 * die, 2 * die + 1] ∈ t.flight.net) ∧ ∀ h, h = 2 * die ∨ h = 2 * die + 1 → (t.half h).lines = [] ∧ t.fld (aLlm h 0x18) 0 2 = 0) ∧
    (s.reserves = [] → ∃ t, exec (.computeDieFailure die) s = .next t ∧ t.sites = s.sites.set die 99 ∧ 100 + die ∉ t.mgr.changes ∧ site ∈ t.rlog.failed)) ∧
  ∀ (s : State) (die r : Nat) (a : Option MeshRoutes), die < 32 → s.mgr.changes = [100 + die] → s.commit = none → s.repairs = [] → s.fld aCommitStatus 0 2 ≠ 1 → s.cores = [] →
    s.reserveFor (s.sites.getD die 99) = some r → s.aroundOk (s.sites.getD die 99) a = true →
    (∃ t, exec (.reserveDieSubstitution die ⟨false, a⟩) s = .next t ∧ { t with reserves := s.reserves, rlog := s.rlog, dieState := s.dieState } = s ∧ t.reserves = s.reserves.filter (· != r) ∧
      t.rlog.failed = r :: s.rlog.failed ∧ NMap.get 0 t.dieState r = 2) ∧
    ∃ t c, exec (.reserveDieSubstitution die ⟨true, a⟩) s = .next t ∧ t.reserves = s.reserves.filter (· != r) ∧ t.rlog.failed = s.sites.getD die 99 :: s.rlog.failed ∧ t.rlog.subs = (die, r) :: s.rlog.subs ∧
      t.commit = some c ∧ c.repair = true ∧ c.moves = [(die, r)] ∧ c.routes = a

namespace Sys2Proof.Claim

/-- The power-on sequence has begun with a strap: every store is clear, the record assigns the numbers and the nodes run in blocking mode (R19, R322, R537,
R539). -/
def PoweredOn (s t : State) (strap : Nat) : Prop :=
  t.phase = .running ∧ t.pins.pwrEn = true ∧ t.mem = [] ∧ t.cores = [] ∧ t.time = 0 ∧ t.bootTime = 0 ∧ t.sites = s.rlog.sites ∧ t.fld 0x100 0 6 = strap ∧ t.fld aCfgBoot 0 4 = 0 ∧ t.fld aCfgBoot 8 4 = 0 ∧
  t.rlog = s.rlog ∧ t.errSaved = s.errSaved ∧ ∀ n, n < 18 → t.cohMode n = 1

/-- The module is off and holds nothing but what is lasting (R512). -/
def IsOff (s t : State) : Prop := t.phase = .off ∧ t.mem = [] ∧ t.cores = [] ∧ t.slices = [] ∧ t.rlog = s.rlog ∧ t.errSaved = s.errSaved ∧ t.sites = s.rlog.sites

/-- IBCs in service (R509, R510). -/
def goodIbcs (s : State) : Nat := (List.range 8).countP fun i => s.fld (aPwr 0x20) (14 + i) 1 == 1

/-- No job runs. -/
def NoJobs (s : State) : Prop := ∀ sl, sl < 64 → s.jobOf sl ≠ 1

end Sys2Proof.Claim

/-- R4, R430, R447, R484, R486, R509 to R512, R525, R535 to R539, R557, R563 to R568: power-on and its end, the sideband inputs, the supplies, the reference clock. -/
def Obligations.PowerOnAndPins : Prop :=
  (∀ (s : State) (strap : Nat) (early : Bool), s.pins.pwrEn = false → strap < 64 → s.phase = .off → s.pins.input = true →
    ∃ t, exec (.pwrEnAssert early strap) s = .next t ∧ if early = true then t = { s with pins := { s.pins with pwrEn := true }, phase := .delayed } else Claim.PoweredOn s t strap) ∧
  (∀ (s : State) (strap : Nat), strap < 64 →
    (s.phase = .delayed → s.pins.pwrEn = true → s.pins.input = true → ∃ t, exec (.pwrEnDelayedAssert strap) s = .next t ∧ Claim.PoweredOn s t strap) ∧
    (s.pins.input = false → s.pins.pwrEn = true → ∃ t, exec (.inputRestored strap) s = .next t ∧ Claim.PoweredOn s t strap ∧ t.pins.input = true) ∧
    (s.pins.input = false → s.pins.pwrEn = false → exec (.inputRestored strap) s = .next { s with pins := { s.pins with input := true } })) ∧
  (∀ (s : State), (s.pins.pwrEn = true → ∃ t, exec .pwrEnDeassert s = .next t ∧ Claim.IsOff s t ∧ t.pins = { s.pins with pwrEn := false }) ∧
    (∃ t, exec .inputUndervoltage s = .next t ∧ Claim.IsOff s t ∧ t.pins = { s.pins with input := false }) ∧
    ∃ t, exec .inputOvervoltage s = .next t ∧ Claim.IsOff s t ∧ t.pins = { s.pins with input := false }) ∧
  (∀ (s : State) (r : BootReport), s.phase = .running → s.holds = false → s.fld aCfgBoot 8 4 = 0 → r.failed = [] → r.untrained = [] → r.unread = [] → 6 ≤ Claim.goodIbcs s →
    (r.id0 = true ∨ r.id1 = true → ∃ t pre, exec (.devReady r) s = .next t ∧ t.phase = .ready ∧ t.time = (if 6 ≤ s.fld aCfgBoot 0 4 then s.time else 0) ∧ t.fld aCfgBoot 0 4 = 12 ∧ t.fld aCfgBoot 4 1 = 0 ∧
      t.fld aCfgBoot 16 32 = s.bootTime / 1000000 % 2 ^ 32 ∧ t.out = pre ++ [.ready 0, .ready 1] ∧ t.fld aOwner 19 2 = s.fld aOwner 0 2 % 3 ∧ t.sec.akey = some s.sec.nextKey ∧ t.fld (aSec 0) 5 1 = 1 ∧
      t.acting = (if r.id0 = true then 0 else 1) ∧ t.fld (aSec 0) 3 1 = r.id0.toNat ∧ t.fld (aSec 0) 4 1 = r.id1.toNat ∧ t.mem = s.mem ∧
      t.rlog.boots = (if s.fld aCfgBoot 0 4 < 3 then s.rlog.boots + 1 else s.rlog.boots) ∧ (s.fld aCfgBoot 0 4 < 10 → ∀ n, n < 18 → t.cohMode n = 0)) ∧
    (r.id0 = false → r.id1 = false → ∃ t, exec (.devReady r) s = .next t ∧ t.phase = .stopped ∧ t.fld aCfgBoot 4 1 = 1 ∧ t.fld aCfgBoot 0 4 = 4 ∧ t.fld (aSec 0x10) 0 2 = 3)) ∧
  (∀ (s : State) (step : Nat), s.phase = .running → s.fld aCfgBoot 4 1 = 0 → step < 12 →
    ∃ t, exec (.bootTimeout step) s = .next t ∧ t.phase = .stopped ∧ t.fld aCfgBoot 4 1 = 1 ∧ t.fld aCfgBoot 0 4 = step ∧ t.reg (aErr 8) = (s.reg (aErr 8) + 1) % 2 ^ 32 ∧ t.mem = s.mem) ∧
  (∀ (s : State), s.pins.resetN = false →
    (s.phase = .ready ∨ s.phase = .stopped → ∃ t, exec .resetNAssert s = .next t ∧ Claim.WasReset t 3 1 ∧ (Claim.NoJobs s → t.phase = .held ∧ t.pins = { s.pins with resetN := true })) ∧
    (s.phase = .off ∨ s.phase = .delayed ∨ s.phase = .held → exec .resetNAssert s = .next { s with pins := { s.pins with resetN := true } })) ∧
  (∀ (s : State), s.pins.resetN = true →
    ∃ t, exec .resetNDeassert s = .next t ∧ { t with pins := s.pins, regs := s.regs, phase := s.phase } = s ∧ t.pins = { s.pins with resetN := false } ∧ t.fld 0x100 9 1 = 0 ∧
      t.phase = (if s.phase = .held ∧ s.fld 0x100 6 1 = 1 then .running else s.phase)) ∧
  (∀ (s : State), s.fld 0x100 6 1 = 1 → (s.phase = .ready → ∃ t, exec .refclkLoss s = .next t ∧ Claim.WasReset t 3 2 ∧ (Claim.NoJobs s → t.phase = .held ∧ t.fld 0x100 6 1 = 0)) ∧
    (s.phase = .off ∨ s.phase = .held → exec .refclkLoss s = .next (s.setFld 0x100 6 1 0))) ∧
  (∀ (s : State), ∃ t, exec .refclkReturn s = .next t ∧ { t with regs := s.regs, phase := s.phase } = s ∧ t.fld 0x100 6 1 = 1 ∧
    t.phase = (if s.phase = .held ∧ s.pins.resetN = false then .running else s.phase)) ∧
  (∀ (s : State), s.phase = .ready →
    (s.pins.slow = false → ∃ t, exec .forceSlowNAssert s = .next t ∧ t.pins = { s.pins with slow := true } ∧ t.fld (aPwr 0x20) 22 1 = 1 ∧
      ∀ d, d < 32 → s.present d = true → ∃ b, .budget b d (s.diePower d).watts (s.diePower d).period (s.diePower d).capped true ∈ t.flight.net) ∧
    (s.pins.slow = true → ∃ t, exec .forceSlowNDeassert s = .next t ∧ t.pins = { s.pins with slow := false } ∧ t.fld (aPwr 0x20) 22 2 = 0 ∧
      ∀ d, d < 32 → s.present d = true → ∃ b, .budget b d (s.diePower d).watts (s.diePower d).period (s.diePower d).capped false ∈ t.flight.net)) ∧
  (∀ (s u : State) (pin : SbPin) (a early : Bool) (strap : Nat), s.phase ≠ .off → s.phase ≠ .delayed → u = (s.satInc 0x110 0 32).flag 0x108 3 →
    exec (.rateLimitedChange pin a early strap) s = (match pin, a with
      | .pwrEn, true => exec (.pwrEnAssert early strap) u | .pwrEn, false => exec .pwrEnDeassert u | .resetN, true => exec .resetNAssert u | .resetN, false => exec .resetNDeassert u
      | .forceSlowN, true => exec .forceSlowNAssert u | .forceSlowN, false => exec .forceSlowNDeassert u | .qfcIn i, x => exec (.qfcInChange i x) u) ∧
    (s.pins.resetN = false → ∃ t, exec (.rateLimitedChange .resetN false early strap) s = .next t ∧ t.fld 0x108 3 1 = 1 ∧ t.fld 0x110 0 32 = min (s.fld 0x110 0 32 + 1) (2 ^ 32 - 1))) ∧
  (∀ (s : State) (i : Nat), s.phase = .ready →
    (s.pins.resetN = true → ∃ t, exec (.stuckEventInput .resetN) s = .next t ∧ t.fld 0x108 0 1 = 1 ∧ t.fld 0x100 9 1 = 1 ∧ t.fld (aErr 0) 0 1 = 1 ∧ t.pins = s.pins) ∧
    (s.pins.slow = true → ∃ t, exec (.stuckEventInput .forceSlowN) s = .next t ∧ t.fld 0x108 1 1 = 1 ∧ t.fld (aPwr 0x28) 4 1 = 1 ∧ t.fld (aPwr 0x20) 23 1 = 1 ∧ t.fld (aErr 0) 0 1 = 1) ∧
    (i < 8 → s.fld (aCqG 0x48) (8 + i) 1 = 1 → (s.queue (s.fld (aCqG (8 * i)) 11 9)).waits = [] →
      ∃ t, exec (.stuckEventInput (.qfcIn i)) s = .next t ∧ t.fld 0x108 2 1 = 1 ∧ t.fld 0x100 (10 + i) 1 = 1 ∧ t.fld (aErr 0) 0 1 = 1 ∧ NMap.get 0 t.qfcIn (16 + i) = 1)) ∧
  ∀ (s : State) (k : Nat), k < 8 → s.fld (aPwr 0x20) (14 + k) 1 = 1 →
    (7 ≤ Claim.goodIbcs s → ∃ t, exec (.ibcFailure k) s = .next t ∧ Claim.goodIbcs t = Claim.goodIbcs s - 1 ∧ t.fld (aPwr 0x20) (14 + k) 1 = 0 ∧ t.fld (aPwr 0x28) 0 1 = 1 ∧
      t.fld (aErr 0) 0 1 = 1 ∧ t.fld (aPwr 0x20) 0 14 = t.limitNow ∧ t.limitNow ≤ 1500 * Claim.goodIbcs t ∧ t.mem = s.mem) ∧
    (Claim.goodIbcs s ≤ 6 → ∃ t, exec (.ibcFailure k) s = .next t ∧ Claim.WasReset t 3 2)

namespace Sys2Proof.Claim

/-- A half whose clock runs (R513). -/
def Runs (s : State) (h : Nat) : Prop := h < 64 ∧ s.runs h = true

end Sys2Proof.Claim

/-- R268, R509, R510, R513 to R522, R524, R526 to R532, R571: the clocks of the halves, budgets and loans, droop, trips, telemetry and energy. No budgets
exceed their pool. -/
def Obligations.PowerManagement : Prop :=
  (∀ (s : State) (h : Nat), h < 64 → s.present (h / 2) = true → s.gateSet h = false →
    (s.boost = false → ∃ t c f, exec (.clockChange h) s = .next t ∧ (c, f) ∈ s.budgetLimit h ++ s.otherLimits h ∧ (∀ x ∈ s.budgetLimit h ++ s.otherLimits h, f ≤ x.2) ∧
      t.fld (aPwrHalf h) 0 11 = f ∧ t.fld (aPwrHalf h) 11 3 = c ∧ t.fld (aPwrHalf h) 45 1 = 0 ∧ t.halfCycles h = s.halfCycles h) ∧
    (s.boost = true → s.gated h = false → 1800 ≤ s.mhz h → s.mhz h ≤ 2000 → (∀ x ∈ s.budgetLimit h ++ s.otherLimits h, s.mhz h < x.2) →
      ∃ t, exec (.clockChange h) s = .next t ∧ t.mhz h = if (NMap.get (0, 0) s.cycBase h).2 + 10000 ≤ s.time.toNat then s.mhz h + 25 else s.mhz h)) ∧
  (∀ (s : State) (h : Nat), h < 64 → s.gateSet h = true → s.gated h = false → s.resident h = false →
    ∃ t, exec (.halfGated h) s = .next t ∧ t.gated h = true ∧ t.fld (aPwrHalf h) 11 3 = 7 ∧ t.fld (aLlm h 0x18) 7 1 = 1 ∧ t.halfCycles h = s.halfCycles h ∧
      ∀ c, c / 32 = h → t.core c = { s.core c with near := [] }) ∧
  (∀ (s : State) (input : Nat), ∃ t, exec (.budgetPeriodStart input) s = .next t ∧ t.fld (aPwr 0x20) 24 16 = s.time.toNat / 100000 % 65536 ∧ t.power.input = input ∧
    t.fld (aPwr 0x20) 0 14 = t.limitNow ∧ (∀ d, (t.diePower d).loans = 0) ∧
    ∀ d, d < 32 → s.present d = true → ∃ b w cap slow, .budget b d w (s.time.toNat / 100000 % 65536) cap slow ∈ t.flight.net) ∧
  (∀ (pool50 : Int) (limit input : Nat) (demand : List (Nat × Nat)), 50 * ((budgets pool50 limit input demand).map fun x => x.2).sum ≤ pool50.toNat) ∧
  (∀ (s : State) (host v : Nat), Claim.ManagerMay s host (aPwr 8) →
    (4000 ≤ v % 2 ^ 14 → v % 2 ^ 14 ≤ 12000 → ∃ t, exec (.pwrCap host v) s = .next t ∧ t.fld (aPwr 8) 0 14 = v % 2 ^ 14 ∧ t.fld (aPwr 0x20) 0 14 = t.limitNow ∧ t.limitNow ≤ v % 2 ^ 14) ∧
    (v % 2 ^ 14 < 4000 ∨ 12000 < v % 2 ^ 14 → ∃ t, exec (.pwrCap host v) s = .next t ∧ t.reg (aPwr 8) = s.reg (aPwr 8) ∧ Claim.BadAccess s t 4 0x8000 host (aPwr 8 + 2 * 2 ^ 28))) ∧
  (∀ (s : State) (h : Nat) (m : PowerReading), Claim.Runs s h → (s.diePower (h / 2)).missed < 3 →
    (∃ t f, exec (.budgetClockEvaluation h m none) s = .next t ∧ t.halfPower h = { s.halfPower h with budget := f, binds := decide (f < (lowestLimit (s.otherLimits h)).2) } ∧
      600 ≤ f ∧ f ≤ max 600 ((s.halfPower h).budget + 25) ∧ (600 < f → s.fits h m.core (s.halfBudget h m) f = true) ∧ (s.halfBudget h m < m.core → f ≤ max 600 (s.mhz h - 25)) ∧
      { t with power := s.power } = s) ∧
    ∀ d w, s.neighbours (h / 2) d = true → (s.diePower (h / 2)).lent = none → m.die + 10000 < 250 * (s.diePower (h / 2)).watts → 2 * w * 250 ≤ 250 * (s.diePower (h / 2)).watts - m.die →
      ∃ t b, exec (.budgetClockEvaluation h m (some (d, w))) s = .next t ∧ (t.diePower (h / 2)).watts = (s.diePower (h / 2)).watts - w ∧
        .lend b d w (s.fld (aPwr 0x20) 24 16) ∈ t.flight.net) ∧
  (∀ (s : State) (d : Nat), s.present d = true → (s.diePower d).period ≠ s.fld (aPwr 0x20) 24 16 →
    (∃ t, exec (.budgetLost d) s = .next t ∧ (t.diePower d).missed = (s.diePower d).missed + 1) ∧
    ((s.diePower d).missed = 2 → ∃ t, exec (.budgetLost d) s = .next t ∧ t.fld (aPwr 0x28) 2 1 = 1 ∧
      ∀ h, h = 2 * d ∨ h = 2 * d + 1 → t.halfPower h = { s.halfPower h with budget := 1000, binds := true })) ∧
  (∀ (s : State) (h temp : Nat), Claim.Runs s h →
    ∃ t, exec (.thermalClockEvaluation h temp) s = .next t ∧ t.fld (aPwrHalf h) 37 8 = min temp 255 ∧ { t with regs := s.regs, power := s.power } = s ∧
      (s.fld (aPwr 0x18) 0 8 ≤ temp → (t.halfPower h).thermal = max 600 (min (s.halfPower h).thermal (s.mhz h) - 25)) ∧
      (temp < s.fld (aPwr 0x18) 0 8 → s.fld (aPwr 0x18) 0 8 ≤ temp + 2 → t.halfPower h = s.halfPower h) ∧
      (temp + 2 < s.fld (aPwr 0x18) 0 8 → (s.halfPower h).thermal < 2000 → (s.halfPower h).raised + 100000 ≤ s.time.toNat →
        ((t.halfPower h).thermal = (s.halfPower h).thermal + 25 ∨ (t.halfPower h).thermal = 2000) ∧ (t.halfPower h).raised = s.time.toNat)) ∧
  (∀ (s : State) (h holds : Nat) (margins : List Nat), Claim.Runs s h → s.mhz h ≤ 2000 → holds ≤ 2000 → (∃ m ∈ margins, m < 80) →
    ∃ t, exec (.ageingMonitor h margins holds) s = .next t ∧
      if Config.ceiling (s.siteHalf h) (stepOf (s.mhz h)) ≤ s.volt h (s.mhz h) then t.fld (aPwrHalf h) 14 11 = mhzOf (stepOf holds) ∧ t.fld (aPwr 0x28) 1 1 = 1 ∧ t.fld (aErr 0) 0 1 = 1 ∧ t.rlog = s.rlog
      else t.volt h (s.mhz h) = s.volt h (s.mhz h) + 1 ∧ { t with rlog := s.rlog } = s) ∧
  (∀ (s : State) (h : Nat), (Claim.Runs s h → (s.halfPower h).stretch = none →
      ∃ t, exec (.droopDetected h) s = .next t ∧ t.halfPower h = { s.halfPower h with stretch := some s.time.toNat } ∧ t.halfCycles h = s.halfCycles h ∧
        { t with cycBase := s.cycBase, power := s.power } = s) ∧
    ∀ t0, (s.halfPower h).stretch = some t0 → ∃ t, exec (.droopRecovered h) s = .next t ∧ (t.halfPower h).stretch = none ∧ t.halfCycles h = s.halfCycles h ∧
      (t.halfPower h).stretched = (s.halfPower h).stretched + (s.halfCycles h - (NMap.get (0, 0) s.cycBase h).1)) ∧
  (∀ (s : State) (d : Nat), d < 60 → ∃ t b, exec (.thermalTrip d) s = .next t ∧ d ∈ t.trips ∧ .trip b d ∈ t.flight.net ∧ { t with trips := s.trips, flight := s.flight } = s) ∧
  (∀ (s : State), s.phase = .tripped →
    (∃ t, exec (.tripRestart true) s = .next t ∧ t = { s with phase := .stopped }) ∧
    (s.trips.contains 58 = false ∨ s.trips.contains 59 = false →
      ∃ t, exec (.tripRestart false) s = .next t ∧ t.trips = [] ∧ t.phase = (if s.holds = true then .held else .running) ∧ t.fld aCfgBoot 0 4 = 3)) ∧
  (∀ (s : State) (dv input : Nat) (r : DieReading), dv < 1024 → r.die < 60 → r.temp < 256 → r.eye < 256 →
    ∃ t, exec (.telemetrySample dv input [r]) s = .next t ∧ t.fld (aTel 0) 0 10 = dv ∧ t.fld (aTel (0x100 + 8 * r.die)) 16 8 = r.temp ∧ t.fld (aTel (0x100 + 8 * r.die)) 24 8 = r.eye ∧
      t.power.samples = s.power.samples + 1 ∧ NMap.get 0 t.power.sums 60 = NMap.get 0 s.power.sums 60 + input ∧ NMap.get 0 t.power.sums r.die = NMap.get 0 s.power.sums r.die + r.power ∧
      t.fld (aPwr 0x20) 0 14 = t.limitNow) ∧
  (∀ (s : State) (x : EnergyShare), s.exists? x.slice = true → x.whole ≠ 0 → x.counter < 4 →
    (x.queue = none → ∃ t, exec (.energyAttribution [x]) s = .next t ∧ { t with slices := s.slices } = s ∧
      NMap.get 0 (t.slice x.slice).energy x.counter = NMap.get 0 (s.slice x.slice).energy x.counter + x.energy * x.part / x.whole) ∧
    ∀ q, x.queue = some q → ∃ t, exec (.energyAttribution [x]) s = .next t ∧ { t with slices := s.slices } = s ∧
      NMap.get 0 (t.slice x.slice).qenergy q = NMap.get 0 (s.slice x.slice).qenergy q + x.energy * x.part / x.whole) ∧
  (∀ (s : State), s.power.samples ≠ 0 → ∃ t, exec .sampleWindowBoundary s = .next t ∧ t.power.samples = 0 ∧ t.power.sums = [] ∧ t.mem = s.mem ∧
    t.fld (aTel 0) 16 14 = NMap.get 0 s.power.sums 60 / s.power.samples / 1000 / 240 * 240 % 2 ^ 14) ∧
  ∀ (s : State) (a b : Nat), a < 256 → b < 256 → ∃ t, exec (.coolantHot a b) s = .next t ∧ t.fld (aTel 0x300) 0 8 = a ∧ t.fld (aTel 0x300) 8 8 = b ∧ { t with regs := s.regs } = s ∧
    (40 < a → t.fld (aTel 0x300) 16 1 = 1 ∧ t.fld (aErr 0) 0 1 = 1)

/-- R4, R9, R539: at reset the module is at DEV_READY with every register at its reset value, every byte zero, every line and
directory entry invalid. That the power-on state is this one and what an idle step does, one nanosecond, are the model's choice
(logs 1 and 51); no row of the table carries bits, so that no word spells a command. -/
def Obligations.ResetAndIdle : Prop :=
  (State.reset.pending = [] ∧ State.reset.phase = .ready ∧ State.reset.mem.wf = true ∧ (∀ a, State.reset.mem.read a = 0) ∧ (∀ h, (State.reset.half h).lines = [] ∧ (State.reset.half h).tomb = []) ∧
    (∀ n, (State.reset.node n).dir = []) ∧ (∀ q, (State.reset.queue q).items = []) ∧ (∀ a, State.reset.reg a = regReset a % 2 ^ 64) ∧ State.reset.errlog = [] ∧
    State.reset.fld aCfgBoot 0 4 = 12 ∧ State.reset.fld (aMem 0 0x10) 0 6 = 24 ∧ State.reset.fld (aPwr 8) 0 14 = 12000 ∧ State.reset.fld (aLnk 8) 0 7 = 5 ∧ State.reset.staged = []) ∧
  (∀ (s : State), s.pending = [] →
    (s.phase = .ready → s.mgr.freeing = none → step s = .next { s with time := s.time + 1 }) ∧
    (s.phase = .off ∨ s.phase = .delayed → step s = .next s) ∧
    (s.phase = .running → s.fld aCfgBoot 0 4 = 2 → s.holds = false → 150000000 ≤ s.bootTime + 1 → s.bootTime + 1 < 300000000 → s.mgr.freeing = none →
      ∃ t, step s = .next t ∧ t.time = s.time ∧ t.bootTime = s.bootTime + 1 ∧ t.fld aCfgBoot 0 4 = 3) ∧
    (s.phase = .running → s.fld aCfgBoot 0 4 = 5 → 6300000000 ≤ s.bootTime + 1 → s.bootTime + 1 < 7500000000 → s.mgr.freeing = none →
      ∃ t, step s = .next t ∧ t.time = 0 ∧ t.fld aCfgBoot 0 4 = 6) ∧
    (s.phase = .running → 6 ≤ s.fld aCfgBoot 0 4 → s.mgr.freeing = none → ∃ t, step s = .next t ∧ t.time = s.time + 1)) ∧
  ∀ (s : State) (nbits w : Nat), decodeTableWord nbits w = none ∧ s.withFetchWord nbits w = s

/-- R66, R67, R69, R70: every Lamiz command has one word, and the word decodes to the command; a word that decodes is that of the command it gives, so that no
bit is dropped; a reserved format has no meaning; the worked example of the spec. -/
def Obligations.LamizRoundTrip : Prop :=
  (∀ (i : Instr) (v : W64), encodeLamiz i = some v → ∃ x, decodeLamiz x v = some i) ∧
  (∀ (x : Site) (i : Instr) (v : W64), decodeLamiz x v = some i → encodeLamiz i = some v) ∧
  (∀ (x : Site) (v : W64), 11 ≤ (v.extractLsb' 0 4).toNat → decodeLamiz x v = none) ∧
  ∀ (x : Site), ∃ w : VV, decodeLamiz x 0x0020A05040A09200 = some (.fma x (.vv w)) ∧ w.dst = 10 ∧ w.a = 4 ∧ w.b = 5 ∧ w.c = 10 ∧ w.ty = 2 ∧ w.rnd = 0 ∧ w.h.pg = true ∧ w.h.pn = false ∧ w.h.pq = 2 ∧
    decodeLamiz x 0x1A = some (.exit x ⟨⟨false, false, 0, 0⟩, 0, 0⟩)

/-- Every step keeps memory in its one canonical form (addresses strictly rising, no byte listed that an unlisted address reads as), so
that equal memories are equal data; that the reset memory has it is part of ResetAndIdle. -/
def Obligations.EveryStepKeepsMemoryCanonical : Prop :=
  ∀ (s t : State), s.mem.wf = true → step s = .next t → t.mem.wf = true
end

