-- ==== Sys2Proof/Laws/Bits.lean ====
section
/-! SUPPORT. Laws of bit fields: what a field reads after it, or another field, was written. -/

namespace Sys2Proof

theorem bits_lt (v lo w : Nat) : bits v lo w < 2 ^ w := Nat.mod_lt _ (Nat.two_pow_pos w)

/-- A field splits a number into what lies above it, the field, and what lies below. -/
theorem split_bits (v lo w : Nat) : v = v / 2 ^ (lo + w) * 2 ^ (lo + w) + bits v lo w * 2 ^ lo + v % 2 ^ lo := by
  have h1 := Nat.div_add_mod v (2 ^ lo)
  have h2 := Nat.div_add_mod (v / 2 ^ lo) (2 ^ w)
  have h3 : v / 2 ^ lo / 2 ^ w = v / 2 ^ (lo + w) := by rw [Nat.div_div_eq_div_mul, ← Nat.pow_add]
  rw [h3] at h2
  have h4 : v / 2 ^ (lo + w) * 2 ^ (lo + w) = 2 ^ lo * (2 ^ w * (v / 2 ^ (lo + w))) := by
    rw [Nat.pow_add, Nat.mul_comm, Nat.mul_assoc]
  have h5 : 2 ^ lo * (v / 2 ^ lo) = 2 ^ lo * (2 ^ w * (v / 2 ^ (lo + w))) + bits v lo w * 2 ^ lo := by
    rw [bits, Nat.mul_comm (v / 2 ^ lo % 2 ^ w), ← Nat.mul_add, h2]
  omega

/-- The number with a field replaced, in the same three parts. -/
theorem setBits_eq (v lo w x : Nat) : setBits v lo w x = v / 2 ^ (lo + w) * 2 ^ (lo + w) + x % 2 ^ w * 2 ^ lo + v % 2 ^ lo := by
  have h := split_bits v lo w
  unfold setBits
  omega

/-- The same with the part below the field first. -/
theorem setBits_tail (v lo w x : Nat) : setBits v lo w x = v % 2 ^ lo + 2 ^ lo * (x % 2 ^ w + 2 ^ w * (v / 2 ^ (lo + w))) := by
  rw [setBits_eq, Nat.mul_add, Nat.pow_add]
  generalize 2 ^ lo = a, 2 ^ w = b
  generalize v / (a * b) = q, x % b = r, v % a = m
  ac_rfl

/-- A field reads what was written into it. -/
@[simp] theorem bits_setBits_same (v lo w x : Nat) : bits (setBits v lo w x) lo w = x % 2 ^ w := by
  have hlo : 0 < 2 ^ lo := Nat.two_pow_pos lo
  rw [bits, setBits_tail, Nat.add_mul_div_left _ _ hlo, Nat.div_eq_of_lt (Nat.mod_lt _ hlo), Nat.zero_add, Nat.add_mul_mod_self_left, Nat.mod_mod]

/-- A field above the one written keeps its value. -/
theorem bits_setBits_above (v lo w x lo' w' : Nat) (h : lo + w ≤ lo') : bits (setBits v lo w x) lo' w' = bits v lo' w' := by
  have hp : 0 < 2 ^ (lo + w) := Nat.two_pow_pos _
  have hd : setBits v lo w x / 2 ^ (lo + w) = v / 2 ^ (lo + w) := by
    have hb : x % 2 ^ w * 2 ^ lo + v % 2 ^ lo < 2 ^ (lo + w) := by
      have h1 : x % 2 ^ w + 1 ≤ 2 ^ w := Nat.mod_lt _ (Nat.two_pow_pos w)
      have h2 : v % 2 ^ lo < 2 ^ lo := Nat.mod_lt _ (Nat.two_pow_pos lo)
      have h3 : (x % 2 ^ w + 1) * 2 ^ lo ≤ 2 ^ w * 2 ^ lo := Nat.mul_le_mul_right _ h1
      rw [Nat.pow_add, Nat.mul_comm (2 ^ lo)]
      rw [Nat.add_mul] at h3
      omega
    rw [setBits_eq, Nat.add_assoc, Nat.mul_comm, Nat.mul_add_div hp, Nat.div_eq_of_lt hb, Nat.add_zero]
  obtain ⟨k, rfl⟩ : ∃ k, lo' = lo + w + k := ⟨lo' - (lo + w), by omega⟩
  rw [bits, bits, Nat.pow_add 2 (lo + w) k, ← Nat.div_div_eq_div_mul, hd, Nat.div_div_eq_div_mul]

/-- A field below the one written keeps its value. -/
theorem bits_setBits_below (v lo w x lo' w' : Nat) (h : lo' + w' ≤ lo) : bits (setBits v lo w x) lo' w' = bits v lo' w' := by
  have key : setBits v lo w x % 2 ^ lo = v % 2 ^ lo := by
    rw [setBits_tail, Nat.add_mul_mod_self_left, Nat.mod_mod]
  have red (u : Nat) : bits u lo' w' = bits (u % 2 ^ lo) lo' w' := by
    obtain ⟨k, rfl⟩ : ∃ k, lo = lo' + w' + k := ⟨lo - (lo' + w'), by omega⟩
    rw [bits, bits, Nat.add_assoc, Nat.pow_add 2 lo', Nat.mod_mul_right_div_self, Nat.pow_add 2 w',
      Nat.mod_mod_of_dvd _ (Nat.dvd_mul_right _ _)]
  rw [red, key, ← red]

/-- A replaced field keeps a number within the width that held both. -/
theorem setBits_lt (v lo w x n : Nat) (hv : v < 2 ^ n) (h : lo + w ≤ n) : setBits v lo w x < 2 ^ n := by
  have hb : x % 2 ^ w * 2 ^ lo + v % 2 ^ lo < 2 ^ (lo + w) := by
    have h1 : x % 2 ^ w + 1 ≤ 2 ^ w := Nat.mod_lt _ (Nat.two_pow_pos w)
    have h2 : v % 2 ^ lo < 2 ^ lo := Nat.mod_lt _ (Nat.two_pow_pos lo)
    have h3 : (x % 2 ^ w + 1) * 2 ^ lo ≤ 2 ^ w * 2 ^ lo := Nat.mul_le_mul_right _ h1
    rw [Nat.pow_add, Nat.mul_comm (2 ^ lo)]
    rw [Nat.add_mul] at h3
    omega
  obtain ⟨k, rfl⟩ : ∃ k, n = lo + w + k := ⟨n - (lo + w), by omega⟩
  rw [setBits_eq, Nat.pow_add 2 (lo + w)]
  have h4 : v / 2 ^ (lo + w) + 1 ≤ 2 ^ k := by
    have : v / 2 ^ (lo + w) < 2 ^ k := by
      rw [Nat.div_lt_iff_lt_mul (Nat.two_pow_pos _), Nat.mul_comm, ← Nat.pow_add]; exact hv
    omega
  have h5 := Nat.mul_le_mul_right (2 ^ (lo + w)) h4
  rw [Nat.add_mul, Nat.mul_comm (2 ^ k)] at h5
  omega

end Sys2Proof
end

