-- ==== Sys2Proof/Laws/Map.lean ====
section
/-! SUPPORT. Laws of the sparse tables and of byte memory: a read after a write, the canonical form, the bytes of numbers. -/

namespace Sys2Proof.NMap

variable {α : Type}

theorem get_del_same (d : α) (m : NMap α) (k : Nat) : get d (del m k) k = d := by
  induction m with
  | nil => rfl
  | cons x r ih => obtain ⟨a, v⟩ := x; by_cases h : k = a <;> simp_all [del, get]

theorem get_del_other (d : α) (m : NMap α) {j k : Nat} (hj : j ≠ k) : get d (del m k) j = get d m j := by
  induction m with
  | nil => rfl
  | cons x r ih =>
    obtain ⟨a, v⟩ := x
    by_cases h : k = a
    · subst h; simp [del, get, ih, hj]
    · by_cases h2 : j = a <;> simp [del, get, h, h2, ih]

theorem get_put_same (d : α) (m : NMap α) (k : Nat) (v : α) : get d (put m k v) k = v := by
  induction m with
  | nil => simp [put, get]
  | cons x r ih =>
    obtain ⟨a, w⟩ := x
    rcases Nat.lt_trichotomy k a with h | h | h
    · simp [put, get, h]
    · simp [put, get, h]
    · simp [put, get, Nat.ne_of_gt h, Nat.not_lt_of_gt h, ih]

theorem get_put_other (d : α) (m : NMap α) {j k : Nat} (v : α) (hj : j ≠ k) : get d (put m k v) j = get d m j := by
  induction m with
  | nil => simp [put, get, hj]
  | cons x r ih =>
    obtain ⟨a, w⟩ := x
    rcases Nat.lt_trichotomy k a with h | h | h
    · simp [put, get, h, hj]
    · subst h; simp [put, get, hj]
    · by_cases h2 : j = a <;> simp [put, get, Nat.ne_of_gt h, Nat.not_lt_of_gt h, h2, ih]

/-- Reading the key that was written gives the value written. -/
@[simp] theorem get_set_same [DecidableEq α] (d : α) (m : NMap α) (k : Nat) (v : α) : get d (set d m k v) k = v := by
  by_cases h : v = d
  · simp [set, h, get_del_same]
  · simp [set, h, get_put_same]

/-- Every other key keeps its value. -/
theorem get_set_other [DecidableEq α] (d : α) (m : NMap α) {j k : Nat} (v : α) (hj : j ≠ k) :
    get d (set d m k v) j = get d m j := by
  by_cases h : v = d
  · simp [set, h, get_del_other d m hj]
  · simp [set, h, get_put_other d m v hj]

theorem get_set [DecidableEq α] (d : α) (m : NMap α) (j k : Nat) (v : α) :
    get d (set d m k v) j = if j = k then v else get d m j := by
  by_cases h : j = k
  · subst h; simp
  · simp [h, get_set_other d m v h]

@[simp] theorem find?_put_same (m : NMap α) (k : Nat) (v : α) : find? (put m k v) k = some v := by
  induction m with
  | nil => simp [put, find?]
  | cons x r ih =>
    obtain ⟨a, w⟩ := x
    rcases Nat.lt_trichotomy k a with h | h | h
    · simp [put, find?, h]
    · simp [put, find?, h]
    · simp [put, find?, Nat.ne_of_gt h, Nat.not_lt_of_gt h, ih]

theorem find?_put_other (m : NMap α) {j k : Nat} (v : α) (hj : j ≠ k) : find? (put m k v) j = find? m j := by
  induction m with
  | nil => simp [put, find?, hj]
  | cons x r ih =>
    obtain ⟨a, w⟩ := x
    rcases Nat.lt_trichotomy k a with h | h | h
    · simp [put, find?, h, hj]
    · subst h; simp [put, find?, hj]
    · by_cases h2 : j = a <;> simp [put, find?, Nat.ne_of_gt h, Nat.not_lt_of_gt h, h2, ih]

@[simp] theorem find?_del_same (m : NMap α) (k : Nat) : find? (del m k) k = none := by
  induction m with
  | nil => rfl
  | cons x r ih => obtain ⟨a, v⟩ := x; by_cases h : k = a <;> simp_all [del, find?]

theorem find?_del_other (m : NMap α) {j k : Nat} (hj : j ≠ k) : find? (del m k) j = find? m j := by
  induction m with
  | nil => rfl
  | cons x r ih =>
    obtain ⟨a, v⟩ := x
    by_cases h : k = a
    · subst h; simp [del, find?, ih, hj]
    · by_cases h2 : j = a <;> simp [del, find?, h, h2, ih]

/-- The canonical form from a bound upward holds from every lower bound. -/
theorem wfFrom_mono [DecidableEq α] (d : α) {lo hi : Nat} (m : NMap α) (hle : lo ≤ hi) (h : wfFrom d hi m = true) :
    wfFrom d lo m = true := by
  cases m with
  | nil => rfl
  | cons x r => obtain ⟨a, v⟩ := x; simp_all [wfFrom]; omega

theorem wfFrom_del [DecidableEq α] (d : α) (m : NMap α) (lo k : Nat) (h : wfFrom d lo m = true) :
    wfFrom d lo (del m k) = true := by
  induction m generalizing lo with
  | nil => rfl
  | cons x r ih =>
    obtain ⟨a, v⟩ := x
    simp only [wfFrom, Bool.and_eq_true, decide_eq_true_eq] at h
    by_cases hk : k = a
    · have h2 := wfFrom_mono d _ (Nat.le_succ_of_le h.1.1) (ih (a + 1) h.2)
      simpa [del, hk] using h2
    · simp [del, hk, wfFrom, h.1, ih _ h.2]

theorem wfFrom_put [DecidableEq α] (d : α) (m : NMap α) (lo k : Nat) (v : α) (hv : v ≠ d) (hk : lo ≤ k)
    (h : wfFrom d lo m = true) : wfFrom d lo (put m k v) = true := by
  induction m generalizing lo with
  | nil => simp [put, wfFrom, hk, hv]
  | cons x r ih =>
    obtain ⟨a, w⟩ := x
    simp only [wfFrom, Bool.and_eq_true, decide_eq_true_eq] at h
    rcases Nat.lt_trichotomy k a with hka | hka | hka
    · simp [put, hka, wfFrom, hk, hv, h, Nat.succ_le_of_lt hka]
    · simp [put, hka, wfFrom, hv, h]
    · simp [put, Nat.ne_of_gt hka, Nat.not_lt_of_gt hka, wfFrom, h.1, ih _ (Nat.succ_le_of_lt hka) h.2]

/-- A write keeps the canonical form. -/
theorem wf_set [DecidableEq α] (d : α) (m : NMap α) (k : Nat) (v : α) (h : wf d m = true) : wf d (set d m k v) = true := by
  by_cases hv : v = d
  · simpa [set, hv, wf] using wfFrom_del d m 0 k h
  · simpa [set, hv, wf] using wfFrom_put d m 0 k v hv (Nat.zero_le k) h

theorem wf_upd [DecidableEq α] (d : α) (m : NMap α) (k : Nat) (f : α → α) (h : wf d m = true) : wf d (upd d m k f) = true :=
  wf_set d m k _ h

theorem wfFrom_filter [DecidableEq α] (d : α) (m : NMap α) (p : Nat × α → Bool) (lo : Nat) (h : wfFrom d lo m = true) :
    wfFrom d lo (List.filter p m) = true := by
  induction m generalizing lo with
  | nil => rfl
  | cons x r ih =>
    obtain ⟨a, v⟩ := x
    simp only [wfFrom, Bool.and_eq_true, decide_eq_true_eq] at h
    by_cases hp : p (a, v)
    · simp [List.filter, hp, wfFrom, h.1, ih _ h.2]
    · simpa [List.filter, hp] using wfFrom_mono d _ (by omega) (ih _ h.2)

theorem wf_clear [DecidableEq α] (d : α) (m : NMap α) (lo hi : Nat) (h : wf d m = true) : wf d (clear m lo hi) = true :=
  wfFrom_filter d m _ 0 h

theorem wf_keepV [DecidableEq α] (d : α) (m : NMap α) (p : α → Bool) (h : wf d m = true) : wf d (keepV m p) = true :=
  wfFrom_filter d m _ 0 h

end Sys2Proof.NMap

namespace Sys2Proof.Mem

/-- A byte reads as it was written. -/
@[simp] theorem read_write_same (m : Mem) (a : Nat) (v : Byte) : read (write m a v) a = v := NMap.get_set_same 0 m a v

/-- A write leaves every other byte alone. -/
theorem read_write_other (m : Mem) {a b : Nat} (v : Byte) (h : b ≠ a) : read (write m a v) b = read m b :=
  NMap.get_set_other 0 m v h

/-- Writing a byte keeps memory's canonical form. -/
theorem wf_write (m : Mem) (a : Nat) (v : Byte) (h : wf m = true) : wf (write m a v) = true := NMap.wf_set 0 m a v h

/-- Writing bytes keeps memory's canonical form. -/
theorem wf_writeBytes (m : Mem) (a : Nat) (l : List Byte) (h : wf m = true) : wf (writeBytes m a l) = true := by
  induction l generalizing m a with
  | nil => exact h
  | cons b r ih => exact ih _ _ (wf_write m a b h)

/-- Writing a number keeps memory's canonical form. -/
theorem wf_writeLE (m : Mem) (a n v : Nat) (h : wf m = true) : wf (writeLE m a n v) = true := wf_writeBytes m a _ h

/-- A byte below the written ones keeps its value. -/
theorem read_writeBytes_below (m : Mem) (a b : Nat) (l : List Byte) (h : b < a) : read (writeBytes m a l) b = read m b := by
  induction l generalizing m a with
  | nil => rfl
  | cons x r ih => rw [writeBytes, ih _ _ (by omega), read_write_other m x (by omega)]

/-- What a byte reads after bytes were written: the byte written there, else what it held. -/
theorem read_writeBytes (m : Mem) (a b : Nat) (l : List Byte) :
    read (writeBytes m a l) b = if a ≤ b ∧ b < a + l.length then l.getD (b - a) 0 else read m b := by
  induction l generalizing m a with
  | nil => rw [if_neg (by simp only [List.length_nil]; omega)]; rfl
  | cons x r ih =>
    rw [writeBytes, ih]
    by_cases h1 : a + 1 ≤ b ∧ b < a + 1 + r.length
    · have h2 : a ≤ b ∧ b < a + (x :: r).length := by simp only [List.length_cons]; omega
      obtain ⟨k, hk⟩ : ∃ k, b - a = k + 1 := ⟨b - a - 1, by omega⟩
      have h3 : b - (a + 1) = k := by omega
      rw [if_pos h1, if_pos h2, hk, h3]; rfl
    · by_cases h2 : b = a
      · subst h2
        rw [if_neg h1, if_pos ⟨Nat.le_refl _, by simp⟩, read_write_same, Nat.sub_self]
        rfl
      · have h3 : ¬ (a ≤ b ∧ b < a + (x :: r).length) := by simp only [List.length_cons]; omega
        rw [if_neg h1, if_neg h3, read_write_other m x h2]

end Sys2Proof.Mem

namespace Sys2Proof

@[simp] theorem leBytes_length (n v : Nat) : (leBytes n v).length = n := by
  induction n generalizing v with
  | zero => rfl
  | succ n ih => simp [leBytes, ih]

/-- The number that the little-endian bytes of a number give back. -/
theorem leNat_leBytes (n v : Nat) : leNat (leBytes n v) = v % 256 ^ n := by
  induction n generalizing v with
  | zero => simp [leBytes, leNat, Nat.mod_one]
  | succ n ih =>
    have h : v % 256 ^ (n + 1) = v % 256 + 256 * (v / 256 % 256 ^ n) := by rw [Nat.pow_succ', Nat.mod_mul]
    rw [leBytes, leNat, ih, BitVec.toNat_ofNat, h]

end Sys2Proof
end

