-- ==== Sys2Proof/Laws/Issue.lean ====
section
/-! SUPPORT. What the issue of a Lamiz instruction does, once for all of them: the equation of `issue` where the instruction issues,
the faults that come before its effect, what the end of an instruction leaves alone in its group, and the registers of a group. -/

namespace Sys2Proof.Machine

@[simp] theorem core_putCore_same (s : State) (n : Nat) (c : Core) : (s.putCore n c).core n = c := by
  simp [State.core, State.putCore]

theorem core_putCore_other (s : State) {n m : Nat} (c : Core) (h : m ≠ n) : (s.putCore n c).core m = s.core m := by
  simp [State.core, State.putCore, NMap.find?_put_other _ _ h]

@[simp] theorem group_putGroup_same (s : State) (core slot : Nat) (g : Group) :
    NMap.find? ((s.putGroup core slot g).core core).groups slot = some g := by
  simp [State.putGroup]

theorem group_putGroup_other (s : State) (core : Nat) {slot k : Nat} (g : Group) (h : k ≠ slot) :
    NMap.find? ((s.putGroup core slot g).core core).groups k = NMap.find? (s.core core).groups k := by
  simp [State.putGroup, NMap.find?_put_other _ _ h]

theorem core_putGroup_other (s : State) {core n : Nat} (slot : Nat) (g : Group) (h : n ≠ core) :
    (s.putGroup core slot g).core n = s.core n := by
  simp [State.putGroup, core_putCore_other _ _ h]

theorem core_putGroup_same (s : State) (core slot : Nat) (g : Group) :
    (s.putGroup core slot g).core core = { s.core core with groups := NMap.put (s.core core).groups slot g } := by
  simp [State.putGroup]

/-- Only the cores of the state change where a group is replaced. -/
theorem putGroup_frame (s : State) (core slot : Nat) (g : Group) : { s.putGroup core slot g with cores := s.cores } = s := rfl

/-- A resident group is replaced by its image. -/
theorem updGroup_putGroup (s : State) (core slot : Nat) (g : Group) (f : Group → Group) :
    (s.putGroup core slot g).updGroup core slot f = (s.putGroup core slot g).putGroup core slot (f g) := by
  simp [State.updGroup]

/-- What the context at a place is made of. -/
theorem ctx?_spec {s : State} {x : Site} {c : Ctx} (h : s.ctx? x = some c) :
    c.core = x.core ∧ c.slot = x.slot ∧ c.c = s.core x.core ∧ NMap.find? (s.core x.core).groups x.slot = some c.g ∧
    NMap.find? (s.core x.core).blocks c.g.block = some c.b ∧ c.g.path? c.g.cur = some c.p := by
  unfold State.ctx? at h
  dsimp only at h
  split at h
  · cases h
  · next g hg =>
    split at h
    · next b p hb hp =>
      cases h
      exact ⟨rfl, rfl, rfl, hg, hb, hp⟩
    · cases h

/-- The context that the effect of an issuing instruction sees: its path's fence is over, and the instruction counts in its turn. -/
def Ctx.issued (c : Ctx) : Ctx :=
  { c with g := { c.g.putPath c.g.cur { c.p with fence := none } with turn := c.g.turn + 1 }, p := { c.p with fence := none } }

/-- Where an instruction issues, its effect alone decides the outcome. -/
theorem issue_eff {s : State} {x : Site} {c : Ctx} {vs us : List Nat} (h : Hdr) (eff : Ctx → State → Eff)
    (hc : s.ctx? x = some c) (hr : c.ready s vs us = true)
    (ht : (s.translate c.b.slice c.p.pc).isSome = true) (hv : ∀ r ∈ vs, r < c.b.v) :
    issue x true vs us h eff s =
      match eff c.issued (s.putGroup c.core c.slot c.issued.g) with
      | .go s => .next (s.updGroup c.core c.slot Group.advance)
      | .jump s => .next s
      | .stall => .next s
      | .fault f => .next (s.programFault c.core c.slot f) := by
  have hn : (vs.any fun r => decide (c.b.v ≤ r)) = false := by
    simp only [List.any_eq_false, decide_eq_true_eq]
    intro r hr2; exact Nat.not_le.mpr (hv r hr2)
  have ht2 : (s.translate c.b.slice c.p.pc).isNone = false := by
    cases hq : s.translate c.b.slice c.p.pc <;> simp_all
  simp only [issue, hc, hr, ht2, hn, Ctx.issued, Bool.not_true, Bool.false_eq_true, if_false, Bool.false_and]
  try rfl

/-- A reserved word that is ready raises fault 0x01 before any effect (R67, R100). -/
theorem issue_illegal {s : State} {x : Site} {c : Ctx} {vs us : List Nat} (h : Hdr) (eff : Ctx → State → Eff)
    (hc : s.ctx? x = some c) (hr : c.ready s vs us = true)
    (ht : (s.translate c.b.slice c.p.pc).isSome = true) :
    issue x false vs us h eff s = .next (s.programFault c.core c.slot { code := 0x01, lanes := c.p.mask }) := by
  have ht2 : (s.translate c.b.slice c.p.pc).isNone = false := by
    cases hq : s.translate c.b.slice c.p.pc <;> simp_all
  simp [issue, hc, hr, ht2]

/-- An instruction that changes only its own group leaves the state with that group replaced, once its path has moved on. -/
theorem issue_groupEff {s : State} {x : Site} {c : Ctx} {vs us : List Nat} (h : Hdr) (f : Ctx → Group)
    (hc : s.ctx? x = some c) (hr : c.ready s vs us = true)
    (ht : (s.translate c.b.slice c.p.pc).isSome = true) (hv : ∀ r ∈ vs, r < c.b.v) :
    issue x true vs us h (groupEff f) s =
      .next (((s.putGroup c.core c.slot c.issued.g).putGroup c.core c.slot (f c.issued)).putGroup c.core c.slot (f c.issued).advance) := by
  rw [issue_eff h (groupEff f) hc hr ht hv]
  simp only [groupEff]
  exact congrArg Host.Outcome.next (updGroup_putGroup _ _ _ _ _)

/-- Fields of a group but for its path table and turn. -/
def Group.SameRegs (g h : Group) : Prop :=
  h.block = g.block ∧ h.index = g.index ∧ h.u = g.u ∧ h.q = g.q ∧ h.d = g.d ∧ h.k = g.k ∧ h.v = g.v ∧ h.exited = g.exited ∧
  h.ops = g.ops

theorem Group.SameRegs.refl (g : Group) : g.SameRegs g := ⟨rfl, rfl, rfl, rfl, rfl, rfl, rfl, rfl, rfl⟩

theorem Group.SameRegs.trans {a b c : Group} (h : a.SameRegs b) (k : b.SameRegs c) : a.SameRegs c := by
  obtain ⟨h1, h2, h3, h4, h5, h6, h7, h8, h9⟩ := h
  obtain ⟨k1, k2, k3, k4, k5, k6, k7, k8, k9⟩ := k
  exact ⟨k1.trans h1, k2.trans h2, k3.trans h3, k4.trans h4, k5.trans h5, k6.trans h6, k7.trans h7, k8.trans h8, k9.trans h9⟩

theorem Group.switch_sameRegs (g : Group) : g.SameRegs g.switch := by
  unfold Group.switch
  dsimp only
  split
  · split
    · split <;> exact ⟨rfl, rfl, rfl, rfl, rfl, rfl, rfl, rfl, rfl⟩
    · exact ⟨rfl, rfl, rfl, rfl, rfl, rfl, rfl, rfl, rfl⟩
  · split
    · split <;> exact ⟨rfl, rfl, rfl, rfl, rfl, rfl, rfl, rfl, rfl⟩
    · exact ⟨rfl, rfl, rfl, rfl, rfl, rfl, rfl, rfl, rfl⟩

theorem Group.wakeCur_sameRegs (g : Group) : g.SameRegs g.wakeCur := by
  unfold Group.wakeCur
  split
  · exact g.switch_sameRegs
  · exact .refl g

theorem Group.merge_sameRegs (g : Group) (k : Nat) (pt : Point) (cur : Bool) : g.SameRegs (g.merge k pt cur).1 :=
  ⟨rfl, rfl, rfl, rfl, rfl, rfl, rfl, rfl, rfl⟩

theorem Group.putPoint_sameRegs (g : Group) (e k : Nat) (pt : Point) : g.SameRegs ((g.delEnt e).putPoint k pt) :=
  ⟨rfl, rfl, rfl, rfl, rfl, rfl, rfl, rfl, rfl⟩

/-- An arrival at a reconvergence point changes only the path table and which path is current (R40). -/
theorem Group.arrive_sameRegs (n : Nat) (g : Group) (e : Nat) : g.SameRegs (Group.arrive n g e) := by
  induction n generalizing g e with
  | zero => exact .refl g
  | succ n ih =>
    unfold Group.arrive
    split
    · exact .refl g
    · split
      · exact .refl g
      · split
        · exact .refl g
        · split
          · exact .refl g
          · dsimp only
            split
            · refine Group.SameRegs.trans ?_ (ih _ _)
              exact (Group.putPoint_sameRegs g e _ _).trans (Group.merge_sameRegs _ _ _ _)
            · split
              · exact (Group.putPoint_sameRegs g e _ _).trans (Group.switch_sameRegs _)
              · exact Group.putPoint_sameRegs g e _ _

/-- The end of an instruction changes only the path table and which path is current (R40, R43). -/
theorem Group.advance_sameRegs (g : Group) : g.SameRegs g.advance := by
  unfold Group.advance
  split
  · exact Group.SameRegs.trans ⟨rfl, rfl, rfl, rfl, rfl, rfl, rfl, rfl, rfl⟩ (Group.arrive_sameRegs _ _ _)
  · exact .refl g

/-- The lane of a vector register that was written, and every other. -/
theorem Group.vreg_setV (g : Group) (r l r' l' : Nat) (x : W32) (hl : l < 32) (hl' : l' < 32) :
    (g.setV r l x).vreg r' l' = if r' = r ∧ l' = l then x else g.vreg r' l' := by
  have h : (32 * r' + l' = 32 * r + l) ↔ (r' = r ∧ l' = l) := by omega
  simp only [Group.vreg, Group.setV, NMap.get_set]
  by_cases hc : r' = r ∧ l' = l
  · rw [if_pos hc, if_pos (h.mpr hc)]
  · rw [if_neg hc, if_neg (fun k => hc (h.mp k))]

@[simp] theorem Group.ureg_setU_same (g : Group) (r : Nat) (x : W64) : (g.setU r x).ureg r = x := by
  simp [Group.ureg, Group.setU]

theorem Group.ureg_setU_other (g : Group) {r k : Nat} (x : W64) (h : k ≠ r) : (g.setU r x).ureg k = g.ureg k :=
  NMap.get_set_other 0 g.u x h

theorem Group.desc_setDesc (g : Group) (r k : Nat) (x : W256) : (g.setDesc r x).desc k = if k = r then x else g.desc k :=
  NMap.get_set 0 g.d k r x

theorem Group.token_setToken (g : Group) (r k : Nat) (x : Token) : (g.setToken r x).token k = if k = r then x else g.token k :=
  NMap.get_set Token.complete g.k k r x

/-- A predicate write reaches the lanes of its mask and no other (R60). -/
theorem Group.pred_setPred (g : Group) (r k : Nat) (m x : W32) :
    (g.setPred r m x).pred k = if k = r then (g.pred r &&& ~~~m) ||| (x &&& m) else g.pred k := by
  simp only [Group.setPred, Group.pred, NMap.get_set]

/-- Writes over a list of lanes without repeats: each listed lane takes its value, nothing else changes. -/
theorem Group.vreg_foldSetV (ls : List Nat) (g : Group) (r : Nat) (f : Nat → W32) (hls : ∀ l ∈ ls, l < 32) (hn : ls.Nodup)
    (r' l' : Nat) (hl' : l' < 32) :
    (ls.foldl (fun g l => g.setV r l (f l)) g).vreg r' l' = if r' = r ∧ l' ∈ ls then f l' else g.vreg r' l' := by
  induction ls generalizing g with
  | nil => simp
  | cons l ls ih =>
    rw [List.foldl_cons, ih _ (fun k hk => hls k (List.mem_cons_of_mem _ hk)) (List.nodup_cons.mp hn).2,
      Group.vreg_setV g r l r' l' (f l) (hls l List.mem_cons_self) hl']
    by_cases h1 : r' = r
    · by_cases h2 : l' = l
      · subst h2; simp [h1, (List.nodup_cons.mp hn).1]
      · simp [h1, h2]
    · simp [h1]

end Sys2Proof.Machine
end

