-- ==== Sys2Proof/Laws/State.lean ====
section
/-! SUPPORT. What each update of the state leaves alone, field by field, and what each table holds after it. -/

namespace Sys2Proof.Machine

variable (s : State)

/-! Fields after `setReg`. -/

@[simp] theorem setReg_pending (a v : Nat) : (s.setReg a v).pending = s.pending := rfl
@[simp] theorem setReg_time (a v : Nat) : (s.setReg a v).time = s.time := rfl
@[simp] theorem setReg_bootTime (a v : Nat) : (s.setReg a v).bootTime = s.bootTime := rfl
@[simp] theorem setReg_free (a v : Nat) : (s.setReg a v).free = s.free := rfl
@[simp] theorem setReg_ids (a v : Nat) : (s.setReg a v).ids = s.ids := rfl
@[simp] theorem setReg_staged (a v : Nat) : (s.setReg a v).staged = s.staged := rfl
@[simp] theorem setReg_swin (a v : Nat) : (s.setReg a v).swin = s.swin := rfl
@[simp] theorem setReg_mem (a v : Nat) : (s.setReg a v).mem = s.mem := rfl
@[simp] theorem setReg_poison (a v : Nat) : (s.setReg a v).poison = s.poison := rfl
@[simp] theorem setReg_cores (a v : Nat) : (s.setReg a v).cores = s.cores := rfl
@[simp] theorem setReg_slices (a v : Nat) : (s.setReg a v).slices = s.slices := rfl
@[simp] theorem setReg_halves (a v : Nat) : (s.setReg a v).halves = s.halves := rfl
@[simp] theorem setReg_nodes (a v : Nat) : (s.setReg a v).nodes = s.nodes := rfl
@[simp] theorem setReg_flight (a v : Nat) : (s.setReg a v).flight = s.flight := rfl
@[simp] theorem setReg_out (a v : Nat) : (s.setReg a v).out = s.out := rfl
@[simp] theorem setReg_unacked (a v : Nat) : (s.setReg a v).unacked = s.unacked := rfl
@[simp] theorem setReg_cycBase (a v : Nat) : (s.setReg a v).cycBase = s.cycBase := rfl
@[simp] theorem setReg_hostReads (a v : Nat) : (s.setReg a v).hostReads = s.hostReads := rfl
@[simp] theorem setReg_tags (a v : Nat) : (s.setReg a v).tags = s.tags := rfl
@[simp] theorem setReg_queues (a v : Nat) : (s.setReg a v).queues = s.queues := rfl
@[simp] theorem setReg_qfcIn (a v : Nat) : (s.setReg a v).qfcIn = s.qfcIn := rfl
@[simp] theorem setReg_remotes (a v : Nat) : (s.setReg a v).remotes = s.remotes := rfl
@[simp] theorem setReg_ports (a v : Nat) : (s.setReg a v).ports = s.ports := rfl
@[simp] theorem setReg_opids (a v : Nat) : (s.setReg a v).opids = s.opids := rfl
@[simp] theorem setReg_routes (a v : Nat) : (s.setReg a v).routes = s.routes := rfl
@[simp] theorem setReg_engines (a v : Nat) : (s.setReg a v).engines = s.engines := rfl
@[simp] theorem setReg_seen (a v : Nat) : (s.setReg a v).seen = s.seen := rfl
@[simp] theorem setReg_notices (a v : Nat) : (s.setReg a v).notices = s.notices := rfl
@[simp] theorem setReg_vetch (a v : Nat) : (s.setReg a v).vetch = s.vetch := rfl
@[simp] theorem setReg_errlog (a v : Nat) : (s.setReg a v).errlog = s.errlog := rfl
@[simp] theorem setReg_errSaved (a v : Nat) : (s.setReg a v).errSaved = s.errSaved := rfl
@[simp] theorem setReg_events (a v : Nat) : (s.setReg a v).events = s.events := rfl
@[simp] theorem setReg_sites (a v : Nat) : (s.setReg a v).sites = s.sites := rfl
@[simp] theorem setReg_reserves (a v : Nat) : (s.setReg a v).reserves = s.reserves := rfl
@[simp] theorem setReg_phase (a v : Nat) : (s.setReg a v).phase = s.phase := rfl
@[simp] theorem setReg_pins (a v : Nat) : (s.setReg a v).pins = s.pins := rfl
@[simp] theorem setReg_trips (a v : Nat) : (s.setReg a v).trips = s.trips := rfl
@[simp] theorem setReg_rlog (a v : Nat) : (s.setReg a v).rlog = s.rlog := rfl
@[simp] theorem setReg_syncs (a v : Nat) : (s.setReg a v).syncs = s.syncs := rfl
@[simp] theorem setReg_mesh (a v : Nat) : (s.setReg a v).mesh = s.mesh := rfl
@[simp] theorem setReg_power (a v : Nat) : (s.setReg a v).power = s.power := rfl
@[simp] theorem setReg_commit (a v : Nat) : (s.setReg a v).commit = s.commit := rfl
@[simp] theorem setReg_repairs (a v : Nat) : (s.setReg a v).repairs = s.repairs := rfl
@[simp] theorem setReg_stagedMesh (a v : Nat) : (s.setReg a v).stagedMesh = s.stagedMesh := rfl
@[simp] theorem setReg_stagedLink (a v : Nat) : (s.setReg a v).stagedLink = s.stagedLink := rfl
@[simp] theorem setReg_dieState (a v : Nat) : (s.setReg a v).dieState = s.dieState := rfl
@[simp] theorem setReg_dieGen (a v : Nat) : (s.setReg a v).dieGen = s.dieGen := rfl
@[simp] theorem setReg_clusters (a v : Nat) : (s.setReg a v).clusters = s.clusters := rfl
@[simp] theorem setReg_windows (a v : Nat) : (s.setReg a v).windows = s.windows := rfl
@[simp] theorem setReg_hosts (a v : Nat) : (s.setReg a v).hosts = s.hosts := rfl
@[simp] theorem setReg_mgr (a v : Nat) : (s.setReg a v).mgr = s.mgr := rfl
@[simp] theorem setReg_sec (a v : Nat) : (s.setReg a v).sec = s.sec := rfl
@[simp] theorem setReg_i3c (a v : Nat) : (s.setReg a v).i3c = s.i3c := rfl

/-! Fields after `setFld`. -/

@[simp] theorem setFld_pending (a lo w x : Nat) : (s.setFld a lo w x).pending = s.pending := rfl
@[simp] theorem setFld_time (a lo w x : Nat) : (s.setFld a lo w x).time = s.time := rfl
@[simp] theorem setFld_bootTime (a lo w x : Nat) : (s.setFld a lo w x).bootTime = s.bootTime := rfl
@[simp] theorem setFld_free (a lo w x : Nat) : (s.setFld a lo w x).free = s.free := rfl
@[simp] theorem setFld_ids (a lo w x : Nat) : (s.setFld a lo w x).ids = s.ids := rfl
@[simp] theorem setFld_staged (a lo w x : Nat) : (s.setFld a lo w x).staged = s.staged := rfl
@[simp] theorem setFld_swin (a lo w x : Nat) : (s.setFld a lo w x).swin = s.swin := rfl
@[simp] theorem setFld_mem (a lo w x : Nat) : (s.setFld a lo w x).mem = s.mem := rfl
@[simp] theorem setFld_poison (a lo w x : Nat) : (s.setFld a lo w x).poison = s.poison := rfl
@[simp] theorem setFld_cores (a lo w x : Nat) : (s.setFld a lo w x).cores = s.cores := rfl
@[simp] theorem setFld_slices (a lo w x : Nat) : (s.setFld a lo w x).slices = s.slices := rfl
@[simp] theorem setFld_halves (a lo w x : Nat) : (s.setFld a lo w x).halves = s.halves := rfl
@[simp] theorem setFld_nodes (a lo w x : Nat) : (s.setFld a lo w x).nodes = s.nodes := rfl
@[simp] theorem setFld_flight (a lo w x : Nat) : (s.setFld a lo w x).flight = s.flight := rfl
@[simp] theorem setFld_out (a lo w x : Nat) : (s.setFld a lo w x).out = s.out := rfl
@[simp] theorem setFld_unacked (a lo w x : Nat) : (s.setFld a lo w x).unacked = s.unacked := rfl
@[simp] theorem setFld_cycBase (a lo w x : Nat) : (s.setFld a lo w x).cycBase = s.cycBase := rfl
@[simp] theorem setFld_hostReads (a lo w x : Nat) : (s.setFld a lo w x).hostReads = s.hostReads := rfl
@[simp] theorem setFld_tags (a lo w x : Nat) : (s.setFld a lo w x).tags = s.tags := rfl
@[simp] theorem setFld_queues (a lo w x : Nat) : (s.setFld a lo w x).queues = s.queues := rfl
@[simp] theorem setFld_qfcIn (a lo w x : Nat) : (s.setFld a lo w x).qfcIn = s.qfcIn := rfl
@[simp] theorem setFld_remotes (a lo w x : Nat) : (s.setFld a lo w x).remotes = s.remotes := rfl
@[simp] theorem setFld_ports (a lo w x : Nat) : (s.setFld a lo w x).ports = s.ports := rfl
@[simp] theorem setFld_opids (a lo w x : Nat) : (s.setFld a lo w x).opids = s.opids := rfl
@[simp] theorem setFld_routes (a lo w x : Nat) : (s.setFld a lo w x).routes = s.routes := rfl
@[simp] theorem setFld_engines (a lo w x : Nat) : (s.setFld a lo w x).engines = s.engines := rfl
@[simp] theorem setFld_seen (a lo w x : Nat) : (s.setFld a lo w x).seen = s.seen := rfl
@[simp] theorem setFld_notices (a lo w x : Nat) : (s.setFld a lo w x).notices = s.notices := rfl
@[simp] theorem setFld_vetch (a lo w x : Nat) : (s.setFld a lo w x).vetch = s.vetch := rfl
@[simp] theorem setFld_errlog (a lo w x : Nat) : (s.setFld a lo w x).errlog = s.errlog := rfl
@[simp] theorem setFld_errSaved (a lo w x : Nat) : (s.setFld a lo w x).errSaved = s.errSaved := rfl
@[simp] theorem setFld_events (a lo w x : Nat) : (s.setFld a lo w x).events = s.events := rfl
@[simp] theorem setFld_sites (a lo w x : Nat) : (s.setFld a lo w x).sites = s.sites := rfl
@[simp] theorem setFld_reserves (a lo w x : Nat) : (s.setFld a lo w x).reserves = s.reserves := rfl
@[simp] theorem setFld_phase (a lo w x : Nat) : (s.setFld a lo w x).phase = s.phase := rfl
@[simp] theorem setFld_pins (a lo w x : Nat) : (s.setFld a lo w x).pins = s.pins := rfl
@[simp] theorem setFld_trips (a lo w x : Nat) : (s.setFld a lo w x).trips = s.trips := rfl
@[simp] theorem setFld_rlog (a lo w x : Nat) : (s.setFld a lo w x).rlog = s.rlog := rfl
@[simp] theorem setFld_syncs (a lo w x : Nat) : (s.setFld a lo w x).syncs = s.syncs := rfl
@[simp] theorem setFld_mesh (a lo w x : Nat) : (s.setFld a lo w x).mesh = s.mesh := rfl
@[simp] theorem setFld_power (a lo w x : Nat) : (s.setFld a lo w x).power = s.power := rfl
@[simp] theorem setFld_commit (a lo w x : Nat) : (s.setFld a lo w x).commit = s.commit := rfl
@[simp] theorem setFld_repairs (a lo w x : Nat) : (s.setFld a lo w x).repairs = s.repairs := rfl
@[simp] theorem setFld_stagedMesh (a lo w x : Nat) : (s.setFld a lo w x).stagedMesh = s.stagedMesh := rfl
@[simp] theorem setFld_stagedLink (a lo w x : Nat) : (s.setFld a lo w x).stagedLink = s.stagedLink := rfl
@[simp] theorem setFld_dieState (a lo w x : Nat) : (s.setFld a lo w x).dieState = s.dieState := rfl
@[simp] theorem setFld_dieGen (a lo w x : Nat) : (s.setFld a lo w x).dieGen = s.dieGen := rfl
@[simp] theorem setFld_clusters (a lo w x : Nat) : (s.setFld a lo w x).clusters = s.clusters := rfl
@[simp] theorem setFld_windows (a lo w x : Nat) : (s.setFld a lo w x).windows = s.windows := rfl
@[simp] theorem setFld_hosts (a lo w x : Nat) : (s.setFld a lo w x).hosts = s.hosts := rfl
@[simp] theorem setFld_mgr (a lo w x : Nat) : (s.setFld a lo w x).mgr = s.mgr := rfl
@[simp] theorem setFld_sec (a lo w x : Nat) : (s.setFld a lo w x).sec = s.sec := rfl
@[simp] theorem setFld_i3c (a lo w x : Nat) : (s.setFld a lo w x).i3c = s.i3c := rfl

/-! Fields after `flag`. -/

@[simp] theorem flag_pending (a i : Nat) : (s.flag a i).pending = s.pending := rfl
@[simp] theorem flag_time (a i : Nat) : (s.flag a i).time = s.time := rfl
@[simp] theorem flag_bootTime (a i : Nat) : (s.flag a i).bootTime = s.bootTime := rfl
@[simp] theorem flag_free (a i : Nat) : (s.flag a i).free = s.free := rfl
@[simp] theorem flag_ids (a i : Nat) : (s.flag a i).ids = s.ids := rfl
@[simp] theorem flag_staged (a i : Nat) : (s.flag a i).staged = s.staged := rfl
@[simp] theorem flag_swin (a i : Nat) : (s.flag a i).swin = s.swin := rfl
@[simp] theorem flag_mem (a i : Nat) : (s.flag a i).mem = s.mem := rfl
@[simp] theorem flag_poison (a i : Nat) : (s.flag a i).poison = s.poison := rfl
@[simp] theorem flag_cores (a i : Nat) : (s.flag a i).cores = s.cores := rfl
@[simp] theorem flag_slices (a i : Nat) : (s.flag a i).slices = s.slices := rfl
@[simp] theorem flag_halves (a i : Nat) : (s.flag a i).halves = s.halves := rfl
@[simp] theorem flag_nodes (a i : Nat) : (s.flag a i).nodes = s.nodes := rfl
@[simp] theorem flag_flight (a i : Nat) : (s.flag a i).flight = s.flight := rfl
@[simp] theorem flag_out (a i : Nat) : (s.flag a i).out = s.out := rfl
@[simp] theorem flag_unacked (a i : Nat) : (s.flag a i).unacked = s.unacked := rfl
@[simp] theorem flag_cycBase (a i : Nat) : (s.flag a i).cycBase = s.cycBase := rfl
@[simp] theorem flag_hostReads (a i : Nat) : (s.flag a i).hostReads = s.hostReads := rfl
@[simp] theorem flag_tags (a i : Nat) : (s.flag a i).tags = s.tags := rfl
@[simp] theorem flag_queues (a i : Nat) : (s.flag a i).queues = s.queues := rfl
@[simp] theorem flag_qfcIn (a i : Nat) : (s.flag a i).qfcIn = s.qfcIn := rfl
@[simp] theorem flag_remotes (a i : Nat) : (s.flag a i).remotes = s.remotes := rfl
@[simp] theorem flag_ports (a i : Nat) : (s.flag a i).ports = s.ports := rfl
@[simp] theorem flag_opids (a i : Nat) : (s.flag a i).opids = s.opids := rfl
@[simp] theorem flag_routes (a i : Nat) : (s.flag a i).routes = s.routes := rfl
@[simp] theorem flag_engines (a i : Nat) : (s.flag a i).engines = s.engines := rfl
@[simp] theorem flag_seen (a i : Nat) : (s.flag a i).seen = s.seen := rfl
@[simp] theorem flag_notices (a i : Nat) : (s.flag a i).notices = s.notices := rfl
@[simp] theorem flag_vetch (a i : Nat) : (s.flag a i).vetch = s.vetch := rfl
@[simp] theorem flag_errlog (a i : Nat) : (s.flag a i).errlog = s.errlog := rfl
@[simp] theorem flag_errSaved (a i : Nat) : (s.flag a i).errSaved = s.errSaved := rfl
@[simp] theorem flag_events (a i : Nat) : (s.flag a i).events = s.events := rfl
@[simp] theorem flag_sites (a i : Nat) : (s.flag a i).sites = s.sites := rfl
@[simp] theorem flag_reserves (a i : Nat) : (s.flag a i).reserves = s.reserves := rfl
@[simp] theorem flag_phase (a i : Nat) : (s.flag a i).phase = s.phase := rfl
@[simp] theorem flag_pins (a i : Nat) : (s.flag a i).pins = s.pins := rfl
@[simp] theorem flag_trips (a i : Nat) : (s.flag a i).trips = s.trips := rfl
@[simp] theorem flag_rlog (a i : Nat) : (s.flag a i).rlog = s.rlog := rfl
@[simp] theorem flag_syncs (a i : Nat) : (s.flag a i).syncs = s.syncs := rfl
@[simp] theorem flag_mesh (a i : Nat) : (s.flag a i).mesh = s.mesh := rfl
@[simp] theorem flag_power (a i : Nat) : (s.flag a i).power = s.power := rfl
@[simp] theorem flag_commit (a i : Nat) : (s.flag a i).commit = s.commit := rfl
@[simp] theorem flag_repairs (a i : Nat) : (s.flag a i).repairs = s.repairs := rfl
@[simp] theorem flag_stagedMesh (a i : Nat) : (s.flag a i).stagedMesh = s.stagedMesh := rfl
@[simp] theorem flag_stagedLink (a i : Nat) : (s.flag a i).stagedLink = s.stagedLink := rfl
@[simp] theorem flag_dieState (a i : Nat) : (s.flag a i).dieState = s.dieState := rfl
@[simp] theorem flag_dieGen (a i : Nat) : (s.flag a i).dieGen = s.dieGen := rfl
@[simp] theorem flag_clusters (a i : Nat) : (s.flag a i).clusters = s.clusters := rfl
@[simp] theorem flag_windows (a i : Nat) : (s.flag a i).windows = s.windows := rfl
@[simp] theorem flag_hosts (a i : Nat) : (s.flag a i).hosts = s.hosts := rfl
@[simp] theorem flag_mgr (a i : Nat) : (s.flag a i).mgr = s.mgr := rfl
@[simp] theorem flag_sec (a i : Nat) : (s.flag a i).sec = s.sec := rfl
@[simp] theorem flag_i3c (a i : Nat) : (s.flag a i).i3c = s.i3c := rfl

/-! Fields after `satInc`. -/

@[simp] theorem satInc_pending (a lo w : Nat) : (s.satInc a lo w).pending = s.pending := rfl
@[simp] theorem satInc_time (a lo w : Nat) : (s.satInc a lo w).time = s.time := rfl
@[simp] theorem satInc_bootTime (a lo w : Nat) : (s.satInc a lo w).bootTime = s.bootTime := rfl
@[simp] theorem satInc_free (a lo w : Nat) : (s.satInc a lo w).free = s.free := rfl
@[simp] theorem satInc_ids (a lo w : Nat) : (s.satInc a lo w).ids = s.ids := rfl
@[simp] theorem satInc_staged (a lo w : Nat) : (s.satInc a lo w).staged = s.staged := rfl
@[simp] theorem satInc_swin (a lo w : Nat) : (s.satInc a lo w).swin = s.swin := rfl
@[simp] theorem satInc_mem (a lo w : Nat) : (s.satInc a lo w).mem = s.mem := rfl
@[simp] theorem satInc_poison (a lo w : Nat) : (s.satInc a lo w).poison = s.poison := rfl
@[simp] theorem satInc_cores (a lo w : Nat) : (s.satInc a lo w).cores = s.cores := rfl
@[simp] theorem satInc_slices (a lo w : Nat) : (s.satInc a lo w).slices = s.slices := rfl
@[simp] theorem satInc_halves (a lo w : Nat) : (s.satInc a lo w).halves = s.halves := rfl
@[simp] theorem satInc_nodes (a lo w : Nat) : (s.satInc a lo w).nodes = s.nodes := rfl
@[simp] theorem satInc_flight (a lo w : Nat) : (s.satInc a lo w).flight = s.flight := rfl
@[simp] theorem satInc_out (a lo w : Nat) : (s.satInc a lo w).out = s.out := rfl
@[simp] theorem satInc_unacked (a lo w : Nat) : (s.satInc a lo w).unacked = s.unacked := rfl
@[simp] theorem satInc_cycBase (a lo w : Nat) : (s.satInc a lo w).cycBase = s.cycBase := rfl
@[simp] theorem satInc_hostReads (a lo w : Nat) : (s.satInc a lo w).hostReads = s.hostReads := rfl
@[simp] theorem satInc_tags (a lo w : Nat) : (s.satInc a lo w).tags = s.tags := rfl
@[simp] theorem satInc_queues (a lo w : Nat) : (s.satInc a lo w).queues = s.queues := rfl
@[simp] theorem satInc_qfcIn (a lo w : Nat) : (s.satInc a lo w).qfcIn = s.qfcIn := rfl
@[simp] theorem satInc_remotes (a lo w : Nat) : (s.satInc a lo w).remotes = s.remotes := rfl
@[simp] theorem satInc_ports (a lo w : Nat) : (s.satInc a lo w).ports = s.ports := rfl
@[simp] theorem satInc_opids (a lo w : Nat) : (s.satInc a lo w).opids = s.opids := rfl
@[simp] theorem satInc_routes (a lo w : Nat) : (s.satInc a lo w).routes = s.routes := rfl
@[simp] theorem satInc_engines (a lo w : Nat) : (s.satInc a lo w).engines = s.engines := rfl
@[simp] theorem satInc_seen (a lo w : Nat) : (s.satInc a lo w).seen = s.seen := rfl
@[simp] theorem satInc_notices (a lo w : Nat) : (s.satInc a lo w).notices = s.notices := rfl
@[simp] theorem satInc_vetch (a lo w : Nat) : (s.satInc a lo w).vetch = s.vetch := rfl
@[simp] theorem satInc_errlog (a lo w : Nat) : (s.satInc a lo w).errlog = s.errlog := rfl
@[simp] theorem satInc_errSaved (a lo w : Nat) : (s.satInc a lo w).errSaved = s.errSaved := rfl
@[simp] theorem satInc_events (a lo w : Nat) : (s.satInc a lo w).events = s.events := rfl
@[simp] theorem satInc_sites (a lo w : Nat) : (s.satInc a lo w).sites = s.sites := rfl
@[simp] theorem satInc_reserves (a lo w : Nat) : (s.satInc a lo w).reserves = s.reserves := rfl
@[simp] theorem satInc_phase (a lo w : Nat) : (s.satInc a lo w).phase = s.phase := rfl
@[simp] theorem satInc_pins (a lo w : Nat) : (s.satInc a lo w).pins = s.pins := rfl
@[simp] theorem satInc_trips (a lo w : Nat) : (s.satInc a lo w).trips = s.trips := rfl
@[simp] theorem satInc_rlog (a lo w : Nat) : (s.satInc a lo w).rlog = s.rlog := rfl
@[simp] theorem satInc_syncs (a lo w : Nat) : (s.satInc a lo w).syncs = s.syncs := rfl
@[simp] theorem satInc_mesh (a lo w : Nat) : (s.satInc a lo w).mesh = s.mesh := rfl
@[simp] theorem satInc_power (a lo w : Nat) : (s.satInc a lo w).power = s.power := rfl
@[simp] theorem satInc_commit (a lo w : Nat) : (s.satInc a lo w).commit = s.commit := rfl
@[simp] theorem satInc_repairs (a lo w : Nat) : (s.satInc a lo w).repairs = s.repairs := rfl
@[simp] theorem satInc_stagedMesh (a lo w : Nat) : (s.satInc a lo w).stagedMesh = s.stagedMesh := rfl
@[simp] theorem satInc_stagedLink (a lo w : Nat) : (s.satInc a lo w).stagedLink = s.stagedLink := rfl
@[simp] theorem satInc_dieState (a lo w : Nat) : (s.satInc a lo w).dieState = s.dieState := rfl
@[simp] theorem satInc_dieGen (a lo w : Nat) : (s.satInc a lo w).dieGen = s.dieGen := rfl
@[simp] theorem satInc_clusters (a lo w : Nat) : (s.satInc a lo w).clusters = s.clusters := rfl
@[simp] theorem satInc_windows (a lo w : Nat) : (s.satInc a lo w).windows = s.windows := rfl
@[simp] theorem satInc_hosts (a lo w : Nat) : (s.satInc a lo w).hosts = s.hosts := rfl
@[simp] theorem satInc_mgr (a lo w : Nat) : (s.satInc a lo w).mgr = s.mgr := rfl
@[simp] theorem satInc_sec (a lo w : Nat) : (s.satInc a lo w).sec = s.sec := rfl
@[simp] theorem satInc_i3c (a lo w : Nat) : (s.satInc a lo w).i3c = s.i3c := rfl

/-! Fields after `setSreg`. -/

@[simp] theorem setSreg_pending (sl o v : Nat) : (s.setSreg sl o v).pending = s.pending := rfl
@[simp] theorem setSreg_time (sl o v : Nat) : (s.setSreg sl o v).time = s.time := rfl
@[simp] theorem setSreg_bootTime (sl o v : Nat) : (s.setSreg sl o v).bootTime = s.bootTime := rfl
@[simp] theorem setSreg_free (sl o v : Nat) : (s.setSreg sl o v).free = s.free := rfl
@[simp] theorem setSreg_ids (sl o v : Nat) : (s.setSreg sl o v).ids = s.ids := rfl
@[simp] theorem setSreg_regs (sl o v : Nat) : (s.setSreg sl o v).regs = s.regs := rfl
@[simp] theorem setSreg_staged (sl o v : Nat) : (s.setSreg sl o v).staged = s.staged := rfl
@[simp] theorem setSreg_mem (sl o v : Nat) : (s.setSreg sl o v).mem = s.mem := rfl
@[simp] theorem setSreg_poison (sl o v : Nat) : (s.setSreg sl o v).poison = s.poison := rfl
@[simp] theorem setSreg_cores (sl o v : Nat) : (s.setSreg sl o v).cores = s.cores := rfl
@[simp] theorem setSreg_slices (sl o v : Nat) : (s.setSreg sl o v).slices = s.slices := rfl
@[simp] theorem setSreg_halves (sl o v : Nat) : (s.setSreg sl o v).halves = s.halves := rfl
@[simp] theorem setSreg_nodes (sl o v : Nat) : (s.setSreg sl o v).nodes = s.nodes := rfl
@[simp] theorem setSreg_flight (sl o v : Nat) : (s.setSreg sl o v).flight = s.flight := rfl
@[simp] theorem setSreg_out (sl o v : Nat) : (s.setSreg sl o v).out = s.out := rfl
@[simp] theorem setSreg_unacked (sl o v : Nat) : (s.setSreg sl o v).unacked = s.unacked := rfl
@[simp] theorem setSreg_cycBase (sl o v : Nat) : (s.setSreg sl o v).cycBase = s.cycBase := rfl
@[simp] theorem setSreg_hostReads (sl o v : Nat) : (s.setSreg sl o v).hostReads = s.hostReads := rfl
@[simp] theorem setSreg_tags (sl o v : Nat) : (s.setSreg sl o v).tags = s.tags := rfl
@[simp] theorem setSreg_queues (sl o v : Nat) : (s.setSreg sl o v).queues = s.queues := rfl
@[simp] theorem setSreg_qfcIn (sl o v : Nat) : (s.setSreg sl o v).qfcIn = s.qfcIn := rfl
@[simp] theorem setSreg_remotes (sl o v : Nat) : (s.setSreg sl o v).remotes = s.remotes := rfl
@[simp] theorem setSreg_ports (sl o v : Nat) : (s.setSreg sl o v).ports = s.ports := rfl
@[simp] theorem setSreg_opids (sl o v : Nat) : (s.setSreg sl o v).opids = s.opids := rfl
@[simp] theorem setSreg_routes (sl o v : Nat) : (s.setSreg sl o v).routes = s.routes := rfl
@[simp] theorem setSreg_engines (sl o v : Nat) : (s.setSreg sl o v).engines = s.engines := rfl
@[simp] theorem setSreg_seen (sl o v : Nat) : (s.setSreg sl o v).seen = s.seen := rfl
@[simp] theorem setSreg_notices (sl o v : Nat) : (s.setSreg sl o v).notices = s.notices := rfl
@[simp] theorem setSreg_vetch (sl o v : Nat) : (s.setSreg sl o v).vetch = s.vetch := rfl
@[simp] theorem setSreg_errlog (sl o v : Nat) : (s.setSreg sl o v).errlog = s.errlog := rfl
@[simp] theorem setSreg_errSaved (sl o v : Nat) : (s.setSreg sl o v).errSaved = s.errSaved := rfl
@[simp] theorem setSreg_events (sl o v : Nat) : (s.setSreg sl o v).events = s.events := rfl
@[simp] theorem setSreg_sites (sl o v : Nat) : (s.setSreg sl o v).sites = s.sites := rfl
@[simp] theorem setSreg_reserves (sl o v : Nat) : (s.setSreg sl o v).reserves = s.reserves := rfl
@[simp] theorem setSreg_phase (sl o v : Nat) : (s.setSreg sl o v).phase = s.phase := rfl
@[simp] theorem setSreg_pins (sl o v : Nat) : (s.setSreg sl o v).pins = s.pins := rfl
@[simp] theorem setSreg_trips (sl o v : Nat) : (s.setSreg sl o v).trips = s.trips := rfl
@[simp] theorem setSreg_rlog (sl o v : Nat) : (s.setSreg sl o v).rlog = s.rlog := rfl
@[simp] theorem setSreg_syncs (sl o v : Nat) : (s.setSreg sl o v).syncs = s.syncs := rfl
@[simp] theorem setSreg_mesh (sl o v : Nat) : (s.setSreg sl o v).mesh = s.mesh := rfl
@[simp] theorem setSreg_power (sl o v : Nat) : (s.setSreg sl o v).power = s.power := rfl
@[simp] theorem setSreg_commit (sl o v : Nat) : (s.setSreg sl o v).commit = s.commit := rfl
@[simp] theorem setSreg_repairs (sl o v : Nat) : (s.setSreg sl o v).repairs = s.repairs := rfl
@[simp] theorem setSreg_stagedMesh (sl o v : Nat) : (s.setSreg sl o v).stagedMesh = s.stagedMesh := rfl
@[simp] theorem setSreg_stagedLink (sl o v : Nat) : (s.setSreg sl o v).stagedLink = s.stagedLink := rfl
@[simp] theorem setSreg_dieState (sl o v : Nat) : (s.setSreg sl o v).dieState = s.dieState := rfl
@[simp] theorem setSreg_dieGen (sl o v : Nat) : (s.setSreg sl o v).dieGen = s.dieGen := rfl
@[simp] theorem setSreg_clusters (sl o v : Nat) : (s.setSreg sl o v).clusters = s.clusters := rfl
@[simp] theorem setSreg_windows (sl o v : Nat) : (s.setSreg sl o v).windows = s.windows := rfl
@[simp] theorem setSreg_hosts (sl o v : Nat) : (s.setSreg sl o v).hosts = s.hosts := rfl
@[simp] theorem setSreg_mgr (sl o v : Nat) : (s.setSreg sl o v).mgr = s.mgr := rfl
@[simp] theorem setSreg_sec (sl o v : Nat) : (s.setSreg sl o v).sec = s.sec := rfl
@[simp] theorem setSreg_i3c (sl o v : Nat) : (s.setSreg sl o v).i3c = s.i3c := rfl

/-! Fields after `incSreg`. -/

@[simp] theorem incSreg_pending (sl o : Nat) : (s.incSreg sl o).pending = s.pending := rfl
@[simp] theorem incSreg_time (sl o : Nat) : (s.incSreg sl o).time = s.time := rfl
@[simp] theorem incSreg_bootTime (sl o : Nat) : (s.incSreg sl o).bootTime = s.bootTime := rfl
@[simp] theorem incSreg_free (sl o : Nat) : (s.incSreg sl o).free = s.free := rfl
@[simp] theorem incSreg_ids (sl o : Nat) : (s.incSreg sl o).ids = s.ids := rfl
@[simp] theorem incSreg_regs (sl o : Nat) : (s.incSreg sl o).regs = s.regs := rfl
@[simp] theorem incSreg_staged (sl o : Nat) : (s.incSreg sl o).staged = s.staged := rfl
@[simp] theorem incSreg_mem (sl o : Nat) : (s.incSreg sl o).mem = s.mem := rfl
@[simp] theorem incSreg_poison (sl o : Nat) : (s.incSreg sl o).poison = s.poison := rfl
@[simp] theorem incSreg_cores (sl o : Nat) : (s.incSreg sl o).cores = s.cores := rfl
@[simp] theorem incSreg_slices (sl o : Nat) : (s.incSreg sl o).slices = s.slices := rfl
@[simp] theorem incSreg_halves (sl o : Nat) : (s.incSreg sl o).halves = s.halves := rfl
@[simp] theorem incSreg_nodes (sl o : Nat) : (s.incSreg sl o).nodes = s.nodes := rfl
@[simp] theorem incSreg_flight (sl o : Nat) : (s.incSreg sl o).flight = s.flight := rfl
@[simp] theorem incSreg_out (sl o : Nat) : (s.incSreg sl o).out = s.out := rfl
@[simp] theorem incSreg_unacked (sl o : Nat) : (s.incSreg sl o).unacked = s.unacked := rfl
@[simp] theorem incSreg_cycBase (sl o : Nat) : (s.incSreg sl o).cycBase = s.cycBase := rfl
@[simp] theorem incSreg_hostReads (sl o : Nat) : (s.incSreg sl o).hostReads = s.hostReads := rfl
@[simp] theorem incSreg_tags (sl o : Nat) : (s.incSreg sl o).tags = s.tags := rfl
@[simp] theorem incSreg_queues (sl o : Nat) : (s.incSreg sl o).queues = s.queues := rfl
@[simp] theorem incSreg_qfcIn (sl o : Nat) : (s.incSreg sl o).qfcIn = s.qfcIn := rfl
@[simp] theorem incSreg_remotes (sl o : Nat) : (s.incSreg sl o).remotes = s.remotes := rfl
@[simp] theorem incSreg_ports (sl o : Nat) : (s.incSreg sl o).ports = s.ports := rfl
@[simp] theorem incSreg_opids (sl o : Nat) : (s.incSreg sl o).opids = s.opids := rfl
@[simp] theorem incSreg_routes (sl o : Nat) : (s.incSreg sl o).routes = s.routes := rfl
@[simp] theorem incSreg_engines (sl o : Nat) : (s.incSreg sl o).engines = s.engines := rfl
@[simp] theorem incSreg_seen (sl o : Nat) : (s.incSreg sl o).seen = s.seen := rfl
@[simp] theorem incSreg_notices (sl o : Nat) : (s.incSreg sl o).notices = s.notices := rfl
@[simp] theorem incSreg_vetch (sl o : Nat) : (s.incSreg sl o).vetch = s.vetch := rfl
@[simp] theorem incSreg_errlog (sl o : Nat) : (s.incSreg sl o).errlog = s.errlog := rfl
@[simp] theorem incSreg_errSaved (sl o : Nat) : (s.incSreg sl o).errSaved = s.errSaved := rfl
@[simp] theorem incSreg_events (sl o : Nat) : (s.incSreg sl o).events = s.events := rfl
@[simp] theorem incSreg_sites (sl o : Nat) : (s.incSreg sl o).sites = s.sites := rfl
@[simp] theorem incSreg_reserves (sl o : Nat) : (s.incSreg sl o).reserves = s.reserves := rfl
@[simp] theorem incSreg_phase (sl o : Nat) : (s.incSreg sl o).phase = s.phase := rfl
@[simp] theorem incSreg_pins (sl o : Nat) : (s.incSreg sl o).pins = s.pins := rfl
@[simp] theorem incSreg_trips (sl o : Nat) : (s.incSreg sl o).trips = s.trips := rfl
@[simp] theorem incSreg_rlog (sl o : Nat) : (s.incSreg sl o).rlog = s.rlog := rfl
@[simp] theorem incSreg_syncs (sl o : Nat) : (s.incSreg sl o).syncs = s.syncs := rfl
@[simp] theorem incSreg_mesh (sl o : Nat) : (s.incSreg sl o).mesh = s.mesh := rfl
@[simp] theorem incSreg_power (sl o : Nat) : (s.incSreg sl o).power = s.power := rfl
@[simp] theorem incSreg_commit (sl o : Nat) : (s.incSreg sl o).commit = s.commit := rfl
@[simp] theorem incSreg_repairs (sl o : Nat) : (s.incSreg sl o).repairs = s.repairs := rfl
@[simp] theorem incSreg_stagedMesh (sl o : Nat) : (s.incSreg sl o).stagedMesh = s.stagedMesh := rfl
@[simp] theorem incSreg_stagedLink (sl o : Nat) : (s.incSreg sl o).stagedLink = s.stagedLink := rfl
@[simp] theorem incSreg_dieState (sl o : Nat) : (s.incSreg sl o).dieState = s.dieState := rfl
@[simp] theorem incSreg_dieGen (sl o : Nat) : (s.incSreg sl o).dieGen = s.dieGen := rfl
@[simp] theorem incSreg_clusters (sl o : Nat) : (s.incSreg sl o).clusters = s.clusters := rfl
@[simp] theorem incSreg_windows (sl o : Nat) : (s.incSreg sl o).windows = s.windows := rfl
@[simp] theorem incSreg_hosts (sl o : Nat) : (s.incSreg sl o).hosts = s.hosts := rfl
@[simp] theorem incSreg_mgr (sl o : Nat) : (s.incSreg sl o).mgr = s.mgr := rfl
@[simp] theorem incSreg_sec (sl o : Nat) : (s.incSreg sl o).sec = s.sec := rfl
@[simp] theorem incSreg_i3c (sl o : Nat) : (s.incSreg sl o).i3c = s.i3c := rfl

/-! Fields after `putCore`. -/

@[simp] theorem putCore_pending (n : Nat) (x : Core) : (s.putCore n x).pending = s.pending := rfl
@[simp] theorem putCore_time (n : Nat) (x : Core) : (s.putCore n x).time = s.time := rfl
@[simp] theorem putCore_bootTime (n : Nat) (x : Core) : (s.putCore n x).bootTime = s.bootTime := rfl
@[simp] theorem putCore_free (n : Nat) (x : Core) : (s.putCore n x).free = s.free := rfl
@[simp] theorem putCore_ids (n : Nat) (x : Core) : (s.putCore n x).ids = s.ids := rfl
@[simp] theorem putCore_regs (n : Nat) (x : Core) : (s.putCore n x).regs = s.regs := rfl
@[simp] theorem putCore_staged (n : Nat) (x : Core) : (s.putCore n x).staged = s.staged := rfl
@[simp] theorem putCore_swin (n : Nat) (x : Core) : (s.putCore n x).swin = s.swin := rfl
@[simp] theorem putCore_mem (n : Nat) (x : Core) : (s.putCore n x).mem = s.mem := rfl
@[simp] theorem putCore_poison (n : Nat) (x : Core) : (s.putCore n x).poison = s.poison := rfl
@[simp] theorem putCore_slices (n : Nat) (x : Core) : (s.putCore n x).slices = s.slices := rfl
@[simp] theorem putCore_halves (n : Nat) (x : Core) : (s.putCore n x).halves = s.halves := rfl
@[simp] theorem putCore_nodes (n : Nat) (x : Core) : (s.putCore n x).nodes = s.nodes := rfl
@[simp] theorem putCore_flight (n : Nat) (x : Core) : (s.putCore n x).flight = s.flight := rfl
@[simp] theorem putCore_out (n : Nat) (x : Core) : (s.putCore n x).out = s.out := rfl
@[simp] theorem putCore_unacked (n : Nat) (x : Core) : (s.putCore n x).unacked = s.unacked := rfl
@[simp] theorem putCore_cycBase (n : Nat) (x : Core) : (s.putCore n x).cycBase = s.cycBase := rfl
@[simp] theorem putCore_hostReads (n : Nat) (x : Core) : (s.putCore n x).hostReads = s.hostReads := rfl
@[simp] theorem putCore_tags (n : Nat) (x : Core) : (s.putCore n x).tags = s.tags := rfl
@[simp] theorem putCore_queues (n : Nat) (x : Core) : (s.putCore n x).queues = s.queues := rfl
@[simp] theorem putCore_qfcIn (n : Nat) (x : Core) : (s.putCore n x).qfcIn = s.qfcIn := rfl
@[simp] theorem putCore_remotes (n : Nat) (x : Core) : (s.putCore n x).remotes = s.remotes := rfl
@[simp] theorem putCore_ports (n : Nat) (x : Core) : (s.putCore n x).ports = s.ports := rfl
@[simp] theorem putCore_opids (n : Nat) (x : Core) : (s.putCore n x).opids = s.opids := rfl
@[simp] theorem putCore_routes (n : Nat) (x : Core) : (s.putCore n x).routes = s.routes := rfl
@[simp] theorem putCore_engines (n : Nat) (x : Core) : (s.putCore n x).engines = s.engines := rfl
@[simp] theorem putCore_seen (n : Nat) (x : Core) : (s.putCore n x).seen = s.seen := rfl
@[simp] theorem putCore_notices (n : Nat) (x : Core) : (s.putCore n x).notices = s.notices := rfl
@[simp] theorem putCore_vetch (n : Nat) (x : Core) : (s.putCore n x).vetch = s.vetch := rfl
@[simp] theorem putCore_errlog (n : Nat) (x : Core) : (s.putCore n x).errlog = s.errlog := rfl
@[simp] theorem putCore_errSaved (n : Nat) (x : Core) : (s.putCore n x).errSaved = s.errSaved := rfl
@[simp] theorem putCore_events (n : Nat) (x : Core) : (s.putCore n x).events = s.events := rfl
@[simp] theorem putCore_sites (n : Nat) (x : Core) : (s.putCore n x).sites = s.sites := rfl
@[simp] theorem putCore_reserves (n : Nat) (x : Core) : (s.putCore n x).reserves = s.reserves := rfl
@[simp] theorem putCore_phase (n : Nat) (x : Core) : (s.putCore n x).phase = s.phase := rfl
@[simp] theorem putCore_pins (n : Nat) (x : Core) : (s.putCore n x).pins = s.pins := rfl
@[simp] theorem putCore_trips (n : Nat) (x : Core) : (s.putCore n x).trips = s.trips := rfl
@[simp] theorem putCore_rlog (n : Nat) (x : Core) : (s.putCore n x).rlog = s.rlog := rfl
@[simp] theorem putCore_syncs (n : Nat) (x : Core) : (s.putCore n x).syncs = s.syncs := rfl
@[simp] theorem putCore_mesh (n : Nat) (x : Core) : (s.putCore n x).mesh = s.mesh := rfl
@[simp] theorem putCore_power (n : Nat) (x : Core) : (s.putCore n x).power = s.power := rfl
@[simp] theorem putCore_commit (n : Nat) (x : Core) : (s.putCore n x).commit = s.commit := rfl
@[simp] theorem putCore_repairs (n : Nat) (x : Core) : (s.putCore n x).repairs = s.repairs := rfl
@[simp] theorem putCore_stagedMesh (n : Nat) (x : Core) : (s.putCore n x).stagedMesh = s.stagedMesh := rfl
@[simp] theorem putCore_stagedLink (n : Nat) (x : Core) : (s.putCore n x).stagedLink = s.stagedLink := rfl
@[simp] theorem putCore_dieState (n : Nat) (x : Core) : (s.putCore n x).dieState = s.dieState := rfl
@[simp] theorem putCore_dieGen (n : Nat) (x : Core) : (s.putCore n x).dieGen = s.dieGen := rfl
@[simp] theorem putCore_clusters (n : Nat) (x : Core) : (s.putCore n x).clusters = s.clusters := rfl
@[simp] theorem putCore_windows (n : Nat) (x : Core) : (s.putCore n x).windows = s.windows := rfl
@[simp] theorem putCore_hosts (n : Nat) (x : Core) : (s.putCore n x).hosts = s.hosts := rfl
@[simp] theorem putCore_mgr (n : Nat) (x : Core) : (s.putCore n x).mgr = s.mgr := rfl
@[simp] theorem putCore_sec (n : Nat) (x : Core) : (s.putCore n x).sec = s.sec := rfl
@[simp] theorem putCore_i3c (n : Nat) (x : Core) : (s.putCore n x).i3c = s.i3c := rfl

/-! Fields after `putSlice`. -/

@[simp] theorem putSlice_pending (n : Nat) (x : Slice) : (s.putSlice n x).pending = s.pending := rfl
@[simp] theorem putSlice_time (n : Nat) (x : Slice) : (s.putSlice n x).time = s.time := rfl
@[simp] theorem putSlice_bootTime (n : Nat) (x : Slice) : (s.putSlice n x).bootTime = s.bootTime := rfl
@[simp] theorem putSlice_free (n : Nat) (x : Slice) : (s.putSlice n x).free = s.free := rfl
@[simp] theorem putSlice_ids (n : Nat) (x : Slice) : (s.putSlice n x).ids = s.ids := rfl
@[simp] theorem putSlice_regs (n : Nat) (x : Slice) : (s.putSlice n x).regs = s.regs := rfl
@[simp] theorem putSlice_staged (n : Nat) (x : Slice) : (s.putSlice n x).staged = s.staged := rfl
@[simp] theorem putSlice_swin (n : Nat) (x : Slice) : (s.putSlice n x).swin = s.swin := rfl
@[simp] theorem putSlice_mem (n : Nat) (x : Slice) : (s.putSlice n x).mem = s.mem := rfl
@[simp] theorem putSlice_poison (n : Nat) (x : Slice) : (s.putSlice n x).poison = s.poison := rfl
@[simp] theorem putSlice_cores (n : Nat) (x : Slice) : (s.putSlice n x).cores = s.cores := rfl
@[simp] theorem putSlice_halves (n : Nat) (x : Slice) : (s.putSlice n x).halves = s.halves := rfl
@[simp] theorem putSlice_nodes (n : Nat) (x : Slice) : (s.putSlice n x).nodes = s.nodes := rfl
@[simp] theorem putSlice_flight (n : Nat) (x : Slice) : (s.putSlice n x).flight = s.flight := rfl
@[simp] theorem putSlice_out (n : Nat) (x : Slice) : (s.putSlice n x).out = s.out := rfl
@[simp] theorem putSlice_unacked (n : Nat) (x : Slice) : (s.putSlice n x).unacked = s.unacked := rfl
@[simp] theorem putSlice_cycBase (n : Nat) (x : Slice) : (s.putSlice n x).cycBase = s.cycBase := rfl
@[simp] theorem putSlice_hostReads (n : Nat) (x : Slice) : (s.putSlice n x).hostReads = s.hostReads := rfl
@[simp] theorem putSlice_tags (n : Nat) (x : Slice) : (s.putSlice n x).tags = s.tags := rfl
@[simp] theorem putSlice_queues (n : Nat) (x : Slice) : (s.putSlice n x).queues = s.queues := rfl
@[simp] theorem putSlice_qfcIn (n : Nat) (x : Slice) : (s.putSlice n x).qfcIn = s.qfcIn := rfl
@[simp] theorem putSlice_remotes (n : Nat) (x : Slice) : (s.putSlice n x).remotes = s.remotes := rfl
@[simp] theorem putSlice_ports (n : Nat) (x : Slice) : (s.putSlice n x).ports = s.ports := rfl
@[simp] theorem putSlice_opids (n : Nat) (x : Slice) : (s.putSlice n x).opids = s.opids := rfl
@[simp] theorem putSlice_routes (n : Nat) (x : Slice) : (s.putSlice n x).routes = s.routes := rfl
@[simp] theorem putSlice_engines (n : Nat) (x : Slice) : (s.putSlice n x).engines = s.engines := rfl
@[simp] theorem putSlice_seen (n : Nat) (x : Slice) : (s.putSlice n x).seen = s.seen := rfl
@[simp] theorem putSlice_notices (n : Nat) (x : Slice) : (s.putSlice n x).notices = s.notices := rfl
@[simp] theorem putSlice_vetch (n : Nat) (x : Slice) : (s.putSlice n x).vetch = s.vetch := rfl
@[simp] theorem putSlice_errlog (n : Nat) (x : Slice) : (s.putSlice n x).errlog = s.errlog := rfl
@[simp] theorem putSlice_errSaved (n : Nat) (x : Slice) : (s.putSlice n x).errSaved = s.errSaved := rfl
@[simp] theorem putSlice_events (n : Nat) (x : Slice) : (s.putSlice n x).events = s.events := rfl
@[simp] theorem putSlice_sites (n : Nat) (x : Slice) : (s.putSlice n x).sites = s.sites := rfl
@[simp] theorem putSlice_reserves (n : Nat) (x : Slice) : (s.putSlice n x).reserves = s.reserves := rfl
@[simp] theorem putSlice_phase (n : Nat) (x : Slice) : (s.putSlice n x).phase = s.phase := rfl
@[simp] theorem putSlice_pins (n : Nat) (x : Slice) : (s.putSlice n x).pins = s.pins := rfl
@[simp] theorem putSlice_trips (n : Nat) (x : Slice) : (s.putSlice n x).trips = s.trips := rfl
@[simp] theorem putSlice_rlog (n : Nat) (x : Slice) : (s.putSlice n x).rlog = s.rlog := rfl
@[simp] theorem putSlice_syncs (n : Nat) (x : Slice) : (s.putSlice n x).syncs = s.syncs := rfl
@[simp] theorem putSlice_mesh (n : Nat) (x : Slice) : (s.putSlice n x).mesh = s.mesh := rfl
@[simp] theorem putSlice_power (n : Nat) (x : Slice) : (s.putSlice n x).power = s.power := rfl
@[simp] theorem putSlice_commit (n : Nat) (x : Slice) : (s.putSlice n x).commit = s.commit := rfl
@[simp] theorem putSlice_repairs (n : Nat) (x : Slice) : (s.putSlice n x).repairs = s.repairs := rfl
@[simp] theorem putSlice_stagedMesh (n : Nat) (x : Slice) : (s.putSlice n x).stagedMesh = s.stagedMesh := rfl
@[simp] theorem putSlice_stagedLink (n : Nat) (x : Slice) : (s.putSlice n x).stagedLink = s.stagedLink := rfl
@[simp] theorem putSlice_dieState (n : Nat) (x : Slice) : (s.putSlice n x).dieState = s.dieState := rfl
@[simp] theorem putSlice_dieGen (n : Nat) (x : Slice) : (s.putSlice n x).dieGen = s.dieGen := rfl
@[simp] theorem putSlice_clusters (n : Nat) (x : Slice) : (s.putSlice n x).clusters = s.clusters := rfl
@[simp] theorem putSlice_windows (n : Nat) (x : Slice) : (s.putSlice n x).windows = s.windows := rfl
@[simp] theorem putSlice_hosts (n : Nat) (x : Slice) : (s.putSlice n x).hosts = s.hosts := rfl
@[simp] theorem putSlice_mgr (n : Nat) (x : Slice) : (s.putSlice n x).mgr = s.mgr := rfl
@[simp] theorem putSlice_sec (n : Nat) (x : Slice) : (s.putSlice n x).sec = s.sec := rfl
@[simp] theorem putSlice_i3c (n : Nat) (x : Slice) : (s.putSlice n x).i3c = s.i3c := rfl

/-! Fields after `putHalf`. -/

@[simp] theorem putHalf_pending (n : Nat) (x : Half) : (s.putHalf n x).pending = s.pending := rfl
@[simp] theorem putHalf_time (n : Nat) (x : Half) : (s.putHalf n x).time = s.time := rfl
@[simp] theorem putHalf_bootTime (n : Nat) (x : Half) : (s.putHalf n x).bootTime = s.bootTime := rfl
@[simp] theorem putHalf_free (n : Nat) (x : Half) : (s.putHalf n x).free = s.free := rfl
@[simp] theorem putHalf_ids (n : Nat) (x : Half) : (s.putHalf n x).ids = s.ids := rfl
@[simp] theorem putHalf_regs (n : Nat) (x : Half) : (s.putHalf n x).regs = s.regs := rfl
@[simp] theorem putHalf_staged (n : Nat) (x : Half) : (s.putHalf n x).staged = s.staged := rfl
@[simp] theorem putHalf_swin (n : Nat) (x : Half) : (s.putHalf n x).swin = s.swin := rfl
@[simp] theorem putHalf_mem (n : Nat) (x : Half) : (s.putHalf n x).mem = s.mem := rfl
@[simp] theorem putHalf_poison (n : Nat) (x : Half) : (s.putHalf n x).poison = s.poison := rfl
@[simp] theorem putHalf_cores (n : Nat) (x : Half) : (s.putHalf n x).cores = s.cores := rfl
@[simp] theorem putHalf_slices (n : Nat) (x : Half) : (s.putHalf n x).slices = s.slices := rfl
@[simp] theorem putHalf_nodes (n : Nat) (x : Half) : (s.putHalf n x).nodes = s.nodes := rfl
@[simp] theorem putHalf_flight (n : Nat) (x : Half) : (s.putHalf n x).flight = s.flight := rfl
@[simp] theorem putHalf_out (n : Nat) (x : Half) : (s.putHalf n x).out = s.out := rfl
@[simp] theorem putHalf_unacked (n : Nat) (x : Half) : (s.putHalf n x).unacked = s.unacked := rfl
@[simp] theorem putHalf_cycBase (n : Nat) (x : Half) : (s.putHalf n x).cycBase = s.cycBase := rfl
@[simp] theorem putHalf_hostReads (n : Nat) (x : Half) : (s.putHalf n x).hostReads = s.hostReads := rfl
@[simp] theorem putHalf_tags (n : Nat) (x : Half) : (s.putHalf n x).tags = s.tags := rfl
@[simp] theorem putHalf_queues (n : Nat) (x : Half) : (s.putHalf n x).queues = s.queues := rfl
@[simp] theorem putHalf_qfcIn (n : Nat) (x : Half) : (s.putHalf n x).qfcIn = s.qfcIn := rfl
@[simp] theorem putHalf_remotes (n : Nat) (x : Half) : (s.putHalf n x).remotes = s.remotes := rfl
@[simp] theorem putHalf_ports (n : Nat) (x : Half) : (s.putHalf n x).ports = s.ports := rfl
@[simp] theorem putHalf_opids (n : Nat) (x : Half) : (s.putHalf n x).opids = s.opids := rfl
@[simp] theorem putHalf_routes (n : Nat) (x : Half) : (s.putHalf n x).routes = s.routes := rfl
@[simp] theorem putHalf_engines (n : Nat) (x : Half) : (s.putHalf n x).engines = s.engines := rfl
@[simp] theorem putHalf_seen (n : Nat) (x : Half) : (s.putHalf n x).seen = s.seen := rfl
@[simp] theorem putHalf_notices (n : Nat) (x : Half) : (s.putHalf n x).notices = s.notices := rfl
@[simp] theorem putHalf_vetch (n : Nat) (x : Half) : (s.putHalf n x).vetch = s.vetch := rfl
@[simp] theorem putHalf_errlog (n : Nat) (x : Half) : (s.putHalf n x).errlog = s.errlog := rfl
@[simp] theorem putHalf_errSaved (n : Nat) (x : Half) : (s.putHalf n x).errSaved = s.errSaved := rfl
@[simp] theorem putHalf_events (n : Nat) (x : Half) : (s.putHalf n x).events = s.events := rfl
@[simp] theorem putHalf_sites (n : Nat) (x : Half) : (s.putHalf n x).sites = s.sites := rfl
@[simp] theorem putHalf_reserves (n : Nat) (x : Half) : (s.putHalf n x).reserves = s.reserves := rfl
@[simp] theorem putHalf_phase (n : Nat) (x : Half) : (s.putHalf n x).phase = s.phase := rfl
@[simp] theorem putHalf_pins (n : Nat) (x : Half) : (s.putHalf n x).pins = s.pins := rfl
@[simp] theorem putHalf_trips (n : Nat) (x : Half) : (s.putHalf n x).trips = s.trips := rfl
@[simp] theorem putHalf_rlog (n : Nat) (x : Half) : (s.putHalf n x).rlog = s.rlog := rfl
@[simp] theorem putHalf_syncs (n : Nat) (x : Half) : (s.putHalf n x).syncs = s.syncs := rfl
@[simp] theorem putHalf_mesh (n : Nat) (x : Half) : (s.putHalf n x).mesh = s.mesh := rfl
@[simp] theorem putHalf_power (n : Nat) (x : Half) : (s.putHalf n x).power = s.power := rfl
@[simp] theorem putHalf_commit (n : Nat) (x : Half) : (s.putHalf n x).commit = s.commit := rfl
@[simp] theorem putHalf_repairs (n : Nat) (x : Half) : (s.putHalf n x).repairs = s.repairs := rfl
@[simp] theorem putHalf_stagedMesh (n : Nat) (x : Half) : (s.putHalf n x).stagedMesh = s.stagedMesh := rfl
@[simp] theorem putHalf_stagedLink (n : Nat) (x : Half) : (s.putHalf n x).stagedLink = s.stagedLink := rfl
@[simp] theorem putHalf_dieState (n : Nat) (x : Half) : (s.putHalf n x).dieState = s.dieState := rfl
@[simp] theorem putHalf_dieGen (n : Nat) (x : Half) : (s.putHalf n x).dieGen = s.dieGen := rfl
@[simp] theorem putHalf_clusters (n : Nat) (x : Half) : (s.putHalf n x).clusters = s.clusters := rfl
@[simp] theorem putHalf_windows (n : Nat) (x : Half) : (s.putHalf n x).windows = s.windows := rfl
@[simp] theorem putHalf_hosts (n : Nat) (x : Half) : (s.putHalf n x).hosts = s.hosts := rfl
@[simp] theorem putHalf_mgr (n : Nat) (x : Half) : (s.putHalf n x).mgr = s.mgr := rfl
@[simp] theorem putHalf_sec (n : Nat) (x : Half) : (s.putHalf n x).sec = s.sec := rfl
@[simp] theorem putHalf_i3c (n : Nat) (x : Half) : (s.putHalf n x).i3c = s.i3c := rfl

/-! Fields after `putNode`. -/

@[simp] theorem putNode_pending (n : Nat) (x : Node) : (s.putNode n x).pending = s.pending := rfl
@[simp] theorem putNode_time (n : Nat) (x : Node) : (s.putNode n x).time = s.time := rfl
@[simp] theorem putNode_bootTime (n : Nat) (x : Node) : (s.putNode n x).bootTime = s.bootTime := rfl
@[simp] theorem putNode_free (n : Nat) (x : Node) : (s.putNode n x).free = s.free := rfl
@[simp] theorem putNode_ids (n : Nat) (x : Node) : (s.putNode n x).ids = s.ids := rfl
@[simp] theorem putNode_regs (n : Nat) (x : Node) : (s.putNode n x).regs = s.regs := rfl
@[simp] theorem putNode_staged (n : Nat) (x : Node) : (s.putNode n x).staged = s.staged := rfl
@[simp] theorem putNode_swin (n : Nat) (x : Node) : (s.putNode n x).swin = s.swin := rfl
@[simp] theorem putNode_mem (n : Nat) (x : Node) : (s.putNode n x).mem = s.mem := rfl
@[simp] theorem putNode_poison (n : Nat) (x : Node) : (s.putNode n x).poison = s.poison := rfl
@[simp] theorem putNode_cores (n : Nat) (x : Node) : (s.putNode n x).cores = s.cores := rfl
@[simp] theorem putNode_slices (n : Nat) (x : Node) : (s.putNode n x).slices = s.slices := rfl
@[simp] theorem putNode_halves (n : Nat) (x : Node) : (s.putNode n x).halves = s.halves := rfl
@[simp] theorem putNode_flight (n : Nat) (x : Node) : (s.putNode n x).flight = s.flight := rfl
@[simp] theorem putNode_out (n : Nat) (x : Node) : (s.putNode n x).out = s.out := rfl
@[simp] theorem putNode_unacked (n : Nat) (x : Node) : (s.putNode n x).unacked = s.unacked := rfl
@[simp] theorem putNode_cycBase (n : Nat) (x : Node) : (s.putNode n x).cycBase = s.cycBase := rfl
@[simp] theorem putNode_hostReads (n : Nat) (x : Node) : (s.putNode n x).hostReads = s.hostReads := rfl
@[simp] theorem putNode_tags (n : Nat) (x : Node) : (s.putNode n x).tags = s.tags := rfl
@[simp] theorem putNode_queues (n : Nat) (x : Node) : (s.putNode n x).queues = s.queues := rfl
@[simp] theorem putNode_qfcIn (n : Nat) (x : Node) : (s.putNode n x).qfcIn = s.qfcIn := rfl
@[simp] theorem putNode_remotes (n : Nat) (x : Node) : (s.putNode n x).remotes = s.remotes := rfl
@[simp] theorem putNode_ports (n : Nat) (x : Node) : (s.putNode n x).ports = s.ports := rfl
@[simp] theorem putNode_opids (n : Nat) (x : Node) : (s.putNode n x).opids = s.opids := rfl
@[simp] theorem putNode_routes (n : Nat) (x : Node) : (s.putNode n x).routes = s.routes := rfl
@[simp] theorem putNode_engines (n : Nat) (x : Node) : (s.putNode n x).engines = s.engines := rfl
@[simp] theorem putNode_seen (n : Nat) (x : Node) : (s.putNode n x).seen = s.seen := rfl
@[simp] theorem putNode_notices (n : Nat) (x : Node) : (s.putNode n x).notices = s.notices := rfl
@[simp] theorem putNode_vetch (n : Nat) (x : Node) : (s.putNode n x).vetch = s.vetch := rfl
@[simp] theorem putNode_errlog (n : Nat) (x : Node) : (s.putNode n x).errlog = s.errlog := rfl
@[simp] theorem putNode_errSaved (n : Nat) (x : Node) : (s.putNode n x).errSaved = s.errSaved := rfl
@[simp] theorem putNode_events (n : Nat) (x : Node) : (s.putNode n x).events = s.events := rfl
@[simp] theorem putNode_sites (n : Nat) (x : Node) : (s.putNode n x).sites = s.sites := rfl
@[simp] theorem putNode_reserves (n : Nat) (x : Node) : (s.putNode n x).reserves = s.reserves := rfl
@[simp] theorem putNode_phase (n : Nat) (x : Node) : (s.putNode n x).phase = s.phase := rfl
@[simp] theorem putNode_pins (n : Nat) (x : Node) : (s.putNode n x).pins = s.pins := rfl
@[simp] theorem putNode_trips (n : Nat) (x : Node) : (s.putNode n x).trips = s.trips := rfl
@[simp] theorem putNode_rlog (n : Nat) (x : Node) : (s.putNode n x).rlog = s.rlog := rfl
@[simp] theorem putNode_syncs (n : Nat) (x : Node) : (s.putNode n x).syncs = s.syncs := rfl
@[simp] theorem putNode_mesh (n : Nat) (x : Node) : (s.putNode n x).mesh = s.mesh := rfl
@[simp] theorem putNode_power (n : Nat) (x : Node) : (s.putNode n x).power = s.power := rfl
@[simp] theorem putNode_commit (n : Nat) (x : Node) : (s.putNode n x).commit = s.commit := rfl
@[simp] theorem putNode_repairs (n : Nat) (x : Node) : (s.putNode n x).repairs = s.repairs := rfl
@[simp] theorem putNode_stagedMesh (n : Nat) (x : Node) : (s.putNode n x).stagedMesh = s.stagedMesh := rfl
@[simp] theorem putNode_stagedLink (n : Nat) (x : Node) : (s.putNode n x).stagedLink = s.stagedLink := rfl
@[simp] theorem putNode_dieState (n : Nat) (x : Node) : (s.putNode n x).dieState = s.dieState := rfl
@[simp] theorem putNode_dieGen (n : Nat) (x : Node) : (s.putNode n x).dieGen = s.dieGen := rfl
@[simp] theorem putNode_clusters (n : Nat) (x : Node) : (s.putNode n x).clusters = s.clusters := rfl
@[simp] theorem putNode_windows (n : Nat) (x : Node) : (s.putNode n x).windows = s.windows := rfl
@[simp] theorem putNode_hosts (n : Nat) (x : Node) : (s.putNode n x).hosts = s.hosts := rfl
@[simp] theorem putNode_mgr (n : Nat) (x : Node) : (s.putNode n x).mgr = s.mgr := rfl
@[simp] theorem putNode_sec (n : Nat) (x : Node) : (s.putNode n x).sec = s.sec := rfl
@[simp] theorem putNode_i3c (n : Nat) (x : Node) : (s.putNode n x).i3c = s.i3c := rfl

/-! Fields after `putQueue`. -/

@[simp] theorem putQueue_pending (n : Nat) (x : Queue) : (s.putQueue n x).pending = s.pending := rfl
@[simp] theorem putQueue_time (n : Nat) (x : Queue) : (s.putQueue n x).time = s.time := rfl
@[simp] theorem putQueue_bootTime (n : Nat) (x : Queue) : (s.putQueue n x).bootTime = s.bootTime := rfl
@[simp] theorem putQueue_free (n : Nat) (x : Queue) : (s.putQueue n x).free = s.free := rfl
@[simp] theorem putQueue_ids (n : Nat) (x : Queue) : (s.putQueue n x).ids = s.ids := rfl
@[simp] theorem putQueue_regs (n : Nat) (x : Queue) : (s.putQueue n x).regs = s.regs := rfl
@[simp] theorem putQueue_staged (n : Nat) (x : Queue) : (s.putQueue n x).staged = s.staged := rfl
@[simp] theorem putQueue_swin (n : Nat) (x : Queue) : (s.putQueue n x).swin = s.swin := rfl
@[simp] theorem putQueue_mem (n : Nat) (x : Queue) : (s.putQueue n x).mem = s.mem := rfl
@[simp] theorem putQueue_poison (n : Nat) (x : Queue) : (s.putQueue n x).poison = s.poison := rfl
@[simp] theorem putQueue_cores (n : Nat) (x : Queue) : (s.putQueue n x).cores = s.cores := rfl
@[simp] theorem putQueue_slices (n : Nat) (x : Queue) : (s.putQueue n x).slices = s.slices := rfl
@[simp] theorem putQueue_halves (n : Nat) (x : Queue) : (s.putQueue n x).halves = s.halves := rfl
@[simp] theorem putQueue_nodes (n : Nat) (x : Queue) : (s.putQueue n x).nodes = s.nodes := rfl
@[simp] theorem putQueue_flight (n : Nat) (x : Queue) : (s.putQueue n x).flight = s.flight := rfl
@[simp] theorem putQueue_out (n : Nat) (x : Queue) : (s.putQueue n x).out = s.out := rfl
@[simp] theorem putQueue_unacked (n : Nat) (x : Queue) : (s.putQueue n x).unacked = s.unacked := rfl
@[simp] theorem putQueue_cycBase (n : Nat) (x : Queue) : (s.putQueue n x).cycBase = s.cycBase := rfl
@[simp] theorem putQueue_hostReads (n : Nat) (x : Queue) : (s.putQueue n x).hostReads = s.hostReads := rfl
@[simp] theorem putQueue_tags (n : Nat) (x : Queue) : (s.putQueue n x).tags = s.tags := rfl
@[simp] theorem putQueue_qfcIn (n : Nat) (x : Queue) : (s.putQueue n x).qfcIn = s.qfcIn := rfl
@[simp] theorem putQueue_remotes (n : Nat) (x : Queue) : (s.putQueue n x).remotes = s.remotes := rfl
@[simp] theorem putQueue_ports (n : Nat) (x : Queue) : (s.putQueue n x).ports = s.ports := rfl
@[simp] theorem putQueue_opids (n : Nat) (x : Queue) : (s.putQueue n x).opids = s.opids := rfl
@[simp] theorem putQueue_routes (n : Nat) (x : Queue) : (s.putQueue n x).routes = s.routes := rfl
@[simp] theorem putQueue_engines (n : Nat) (x : Queue) : (s.putQueue n x).engines = s.engines := rfl
@[simp] theorem putQueue_seen (n : Nat) (x : Queue) : (s.putQueue n x).seen = s.seen := rfl
@[simp] theorem putQueue_notices (n : Nat) (x : Queue) : (s.putQueue n x).notices = s.notices := rfl
@[simp] theorem putQueue_vetch (n : Nat) (x : Queue) : (s.putQueue n x).vetch = s.vetch := rfl
@[simp] theorem putQueue_errlog (n : Nat) (x : Queue) : (s.putQueue n x).errlog = s.errlog := rfl
@[simp] theorem putQueue_errSaved (n : Nat) (x : Queue) : (s.putQueue n x).errSaved = s.errSaved := rfl
@[simp] theorem putQueue_events (n : Nat) (x : Queue) : (s.putQueue n x).events = s.events := rfl
@[simp] theorem putQueue_sites (n : Nat) (x : Queue) : (s.putQueue n x).sites = s.sites := rfl
@[simp] theorem putQueue_reserves (n : Nat) (x : Queue) : (s.putQueue n x).reserves = s.reserves := rfl
@[simp] theorem putQueue_phase (n : Nat) (x : Queue) : (s.putQueue n x).phase = s.phase := rfl
@[simp] theorem putQueue_pins (n : Nat) (x : Queue) : (s.putQueue n x).pins = s.pins := rfl
@[simp] theorem putQueue_trips (n : Nat) (x : Queue) : (s.putQueue n x).trips = s.trips := rfl
@[simp] theorem putQueue_rlog (n : Nat) (x : Queue) : (s.putQueue n x).rlog = s.rlog := rfl
@[simp] theorem putQueue_syncs (n : Nat) (x : Queue) : (s.putQueue n x).syncs = s.syncs := rfl
@[simp] theorem putQueue_mesh (n : Nat) (x : Queue) : (s.putQueue n x).mesh = s.mesh := rfl
@[simp] theorem putQueue_power (n : Nat) (x : Queue) : (s.putQueue n x).power = s.power := rfl
@[simp] theorem putQueue_commit (n : Nat) (x : Queue) : (s.putQueue n x).commit = s.commit := rfl
@[simp] theorem putQueue_repairs (n : Nat) (x : Queue) : (s.putQueue n x).repairs = s.repairs := rfl
@[simp] theorem putQueue_stagedMesh (n : Nat) (x : Queue) : (s.putQueue n x).stagedMesh = s.stagedMesh := rfl
@[simp] theorem putQueue_stagedLink (n : Nat) (x : Queue) : (s.putQueue n x).stagedLink = s.stagedLink := rfl
@[simp] theorem putQueue_dieState (n : Nat) (x : Queue) : (s.putQueue n x).dieState = s.dieState := rfl
@[simp] theorem putQueue_dieGen (n : Nat) (x : Queue) : (s.putQueue n x).dieGen = s.dieGen := rfl
@[simp] theorem putQueue_clusters (n : Nat) (x : Queue) : (s.putQueue n x).clusters = s.clusters := rfl
@[simp] theorem putQueue_windows (n : Nat) (x : Queue) : (s.putQueue n x).windows = s.windows := rfl
@[simp] theorem putQueue_hosts (n : Nat) (x : Queue) : (s.putQueue n x).hosts = s.hosts := rfl
@[simp] theorem putQueue_mgr (n : Nat) (x : Queue) : (s.putQueue n x).mgr = s.mgr := rfl
@[simp] theorem putQueue_sec (n : Nat) (x : Queue) : (s.putQueue n x).sec = s.sec := rfl
@[simp] theorem putQueue_i3c (n : Nat) (x : Queue) : (s.putQueue n x).i3c = s.i3c := rfl

/-! Fields after `putVetch`. -/

@[simp] theorem putVetch_pending (n : Nat) (x : Vetch) : (s.putVetch n x).pending = s.pending := rfl
@[simp] theorem putVetch_time (n : Nat) (x : Vetch) : (s.putVetch n x).time = s.time := rfl
@[simp] theorem putVetch_bootTime (n : Nat) (x : Vetch) : (s.putVetch n x).bootTime = s.bootTime := rfl
@[simp] theorem putVetch_free (n : Nat) (x : Vetch) : (s.putVetch n x).free = s.free := rfl
@[simp] theorem putVetch_ids (n : Nat) (x : Vetch) : (s.putVetch n x).ids = s.ids := rfl
@[simp] theorem putVetch_regs (n : Nat) (x : Vetch) : (s.putVetch n x).regs = s.regs := rfl
@[simp] theorem putVetch_staged (n : Nat) (x : Vetch) : (s.putVetch n x).staged = s.staged := rfl
@[simp] theorem putVetch_swin (n : Nat) (x : Vetch) : (s.putVetch n x).swin = s.swin := rfl
@[simp] theorem putVetch_mem (n : Nat) (x : Vetch) : (s.putVetch n x).mem = s.mem := rfl
@[simp] theorem putVetch_poison (n : Nat) (x : Vetch) : (s.putVetch n x).poison = s.poison := rfl
@[simp] theorem putVetch_cores (n : Nat) (x : Vetch) : (s.putVetch n x).cores = s.cores := rfl
@[simp] theorem putVetch_slices (n : Nat) (x : Vetch) : (s.putVetch n x).slices = s.slices := rfl
@[simp] theorem putVetch_halves (n : Nat) (x : Vetch) : (s.putVetch n x).halves = s.halves := rfl
@[simp] theorem putVetch_nodes (n : Nat) (x : Vetch) : (s.putVetch n x).nodes = s.nodes := rfl
@[simp] theorem putVetch_flight (n : Nat) (x : Vetch) : (s.putVetch n x).flight = s.flight := rfl
@[simp] theorem putVetch_out (n : Nat) (x : Vetch) : (s.putVetch n x).out = s.out := rfl
@[simp] theorem putVetch_unacked (n : Nat) (x : Vetch) : (s.putVetch n x).unacked = s.unacked := rfl
@[simp] theorem putVetch_cycBase (n : Nat) (x : Vetch) : (s.putVetch n x).cycBase = s.cycBase := rfl
@[simp] theorem putVetch_hostReads (n : Nat) (x : Vetch) : (s.putVetch n x).hostReads = s.hostReads := rfl
@[simp] theorem putVetch_tags (n : Nat) (x : Vetch) : (s.putVetch n x).tags = s.tags := rfl
@[simp] theorem putVetch_queues (n : Nat) (x : Vetch) : (s.putVetch n x).queues = s.queues := rfl
@[simp] theorem putVetch_qfcIn (n : Nat) (x : Vetch) : (s.putVetch n x).qfcIn = s.qfcIn := rfl
@[simp] theorem putVetch_remotes (n : Nat) (x : Vetch) : (s.putVetch n x).remotes = s.remotes := rfl
@[simp] theorem putVetch_ports (n : Nat) (x : Vetch) : (s.putVetch n x).ports = s.ports := rfl
@[simp] theorem putVetch_opids (n : Nat) (x : Vetch) : (s.putVetch n x).opids = s.opids := rfl
@[simp] theorem putVetch_routes (n : Nat) (x : Vetch) : (s.putVetch n x).routes = s.routes := rfl
@[simp] theorem putVetch_engines (n : Nat) (x : Vetch) : (s.putVetch n x).engines = s.engines := rfl
@[simp] theorem putVetch_seen (n : Nat) (x : Vetch) : (s.putVetch n x).seen = s.seen := rfl
@[simp] theorem putVetch_notices (n : Nat) (x : Vetch) : (s.putVetch n x).notices = s.notices := rfl
@[simp] theorem putVetch_errlog (n : Nat) (x : Vetch) : (s.putVetch n x).errlog = s.errlog := rfl
@[simp] theorem putVetch_errSaved (n : Nat) (x : Vetch) : (s.putVetch n x).errSaved = s.errSaved := rfl
@[simp] theorem putVetch_events (n : Nat) (x : Vetch) : (s.putVetch n x).events = s.events := rfl
@[simp] theorem putVetch_sites (n : Nat) (x : Vetch) : (s.putVetch n x).sites = s.sites := rfl
@[simp] theorem putVetch_reserves (n : Nat) (x : Vetch) : (s.putVetch n x).reserves = s.reserves := rfl
@[simp] theorem putVetch_phase (n : Nat) (x : Vetch) : (s.putVetch n x).phase = s.phase := rfl
@[simp] theorem putVetch_pins (n : Nat) (x : Vetch) : (s.putVetch n x).pins = s.pins := rfl
@[simp] theorem putVetch_trips (n : Nat) (x : Vetch) : (s.putVetch n x).trips = s.trips := rfl
@[simp] theorem putVetch_rlog (n : Nat) (x : Vetch) : (s.putVetch n x).rlog = s.rlog := rfl
@[simp] theorem putVetch_syncs (n : Nat) (x : Vetch) : (s.putVetch n x).syncs = s.syncs := rfl
@[simp] theorem putVetch_mesh (n : Nat) (x : Vetch) : (s.putVetch n x).mesh = s.mesh := rfl
@[simp] theorem putVetch_power (n : Nat) (x : Vetch) : (s.putVetch n x).power = s.power := rfl
@[simp] theorem putVetch_commit (n : Nat) (x : Vetch) : (s.putVetch n x).commit = s.commit := rfl
@[simp] theorem putVetch_repairs (n : Nat) (x : Vetch) : (s.putVetch n x).repairs = s.repairs := rfl
@[simp] theorem putVetch_stagedMesh (n : Nat) (x : Vetch) : (s.putVetch n x).stagedMesh = s.stagedMesh := rfl
@[simp] theorem putVetch_stagedLink (n : Nat) (x : Vetch) : (s.putVetch n x).stagedLink = s.stagedLink := rfl
@[simp] theorem putVetch_dieState (n : Nat) (x : Vetch) : (s.putVetch n x).dieState = s.dieState := rfl
@[simp] theorem putVetch_dieGen (n : Nat) (x : Vetch) : (s.putVetch n x).dieGen = s.dieGen := rfl
@[simp] theorem putVetch_clusters (n : Nat) (x : Vetch) : (s.putVetch n x).clusters = s.clusters := rfl
@[simp] theorem putVetch_windows (n : Nat) (x : Vetch) : (s.putVetch n x).windows = s.windows := rfl
@[simp] theorem putVetch_hosts (n : Nat) (x : Vetch) : (s.putVetch n x).hosts = s.hosts := rfl
@[simp] theorem putVetch_mgr (n : Nat) (x : Vetch) : (s.putVetch n x).mgr = s.mgr := rfl
@[simp] theorem putVetch_sec (n : Nat) (x : Vetch) : (s.putVetch n x).sec = s.sec := rfl
@[simp] theorem putVetch_i3c (n : Nat) (x : Vetch) : (s.putVetch n x).i3c = s.i3c := rfl

/-! Fields after `putEngine`. -/

@[simp] theorem putEngine_pending (n : Nat) (x : LinkEngine) : (s.putEngine n x).pending = s.pending := rfl
@[simp] theorem putEngine_time (n : Nat) (x : LinkEngine) : (s.putEngine n x).time = s.time := rfl
@[simp] theorem putEngine_bootTime (n : Nat) (x : LinkEngine) : (s.putEngine n x).bootTime = s.bootTime := rfl
@[simp] theorem putEngine_free (n : Nat) (x : LinkEngine) : (s.putEngine n x).free = s.free := rfl
@[simp] theorem putEngine_ids (n : Nat) (x : LinkEngine) : (s.putEngine n x).ids = s.ids := rfl
@[simp] theorem putEngine_regs (n : Nat) (x : LinkEngine) : (s.putEngine n x).regs = s.regs := rfl
@[simp] theorem putEngine_staged (n : Nat) (x : LinkEngine) : (s.putEngine n x).staged = s.staged := rfl
@[simp] theorem putEngine_swin (n : Nat) (x : LinkEngine) : (s.putEngine n x).swin = s.swin := rfl
@[simp] theorem putEngine_mem (n : Nat) (x : LinkEngine) : (s.putEngine n x).mem = s.mem := rfl
@[simp] theorem putEngine_poison (n : Nat) (x : LinkEngine) : (s.putEngine n x).poison = s.poison := rfl
@[simp] theorem putEngine_cores (n : Nat) (x : LinkEngine) : (s.putEngine n x).cores = s.cores := rfl
@[simp] theorem putEngine_slices (n : Nat) (x : LinkEngine) : (s.putEngine n x).slices = s.slices := rfl
@[simp] theorem putEngine_halves (n : Nat) (x : LinkEngine) : (s.putEngine n x).halves = s.halves := rfl
@[simp] theorem putEngine_nodes (n : Nat) (x : LinkEngine) : (s.putEngine n x).nodes = s.nodes := rfl
@[simp] theorem putEngine_flight (n : Nat) (x : LinkEngine) : (s.putEngine n x).flight = s.flight := rfl
@[simp] theorem putEngine_out (n : Nat) (x : LinkEngine) : (s.putEngine n x).out = s.out := rfl
@[simp] theorem putEngine_unacked (n : Nat) (x : LinkEngine) : (s.putEngine n x).unacked = s.unacked := rfl
@[simp] theorem putEngine_cycBase (n : Nat) (x : LinkEngine) : (s.putEngine n x).cycBase = s.cycBase := rfl
@[simp] theorem putEngine_hostReads (n : Nat) (x : LinkEngine) : (s.putEngine n x).hostReads = s.hostReads := rfl
@[simp] theorem putEngine_tags (n : Nat) (x : LinkEngine) : (s.putEngine n x).tags = s.tags := rfl
@[simp] theorem putEngine_queues (n : Nat) (x : LinkEngine) : (s.putEngine n x).queues = s.queues := rfl
@[simp] theorem putEngine_qfcIn (n : Nat) (x : LinkEngine) : (s.putEngine n x).qfcIn = s.qfcIn := rfl
@[simp] theorem putEngine_remotes (n : Nat) (x : LinkEngine) : (s.putEngine n x).remotes = s.remotes := rfl
@[simp] theorem putEngine_ports (n : Nat) (x : LinkEngine) : (s.putEngine n x).ports = s.ports := rfl
@[simp] theorem putEngine_opids (n : Nat) (x : LinkEngine) : (s.putEngine n x).opids = s.opids := rfl
@[simp] theorem putEngine_routes (n : Nat) (x : LinkEngine) : (s.putEngine n x).routes = s.routes := rfl
@[simp] theorem putEngine_seen (n : Nat) (x : LinkEngine) : (s.putEngine n x).seen = s.seen := rfl
@[simp] theorem putEngine_notices (n : Nat) (x : LinkEngine) : (s.putEngine n x).notices = s.notices := rfl
@[simp] theorem putEngine_vetch (n : Nat) (x : LinkEngine) : (s.putEngine n x).vetch = s.vetch := rfl
@[simp] theorem putEngine_errlog (n : Nat) (x : LinkEngine) : (s.putEngine n x).errlog = s.errlog := rfl
@[simp] theorem putEngine_errSaved (n : Nat) (x : LinkEngine) : (s.putEngine n x).errSaved = s.errSaved := rfl
@[simp] theorem putEngine_events (n : Nat) (x : LinkEngine) : (s.putEngine n x).events = s.events := rfl
@[simp] theorem putEngine_sites (n : Nat) (x : LinkEngine) : (s.putEngine n x).sites = s.sites := rfl
@[simp] theorem putEngine_reserves (n : Nat) (x : LinkEngine) : (s.putEngine n x).reserves = s.reserves := rfl
@[simp] theorem putEngine_phase (n : Nat) (x : LinkEngine) : (s.putEngine n x).phase = s.phase := rfl
@[simp] theorem putEngine_pins (n : Nat) (x : LinkEngine) : (s.putEngine n x).pins = s.pins := rfl
@[simp] theorem putEngine_trips (n : Nat) (x : LinkEngine) : (s.putEngine n x).trips = s.trips := rfl
@[simp] theorem putEngine_rlog (n : Nat) (x : LinkEngine) : (s.putEngine n x).rlog = s.rlog := rfl
@[simp] theorem putEngine_syncs (n : Nat) (x : LinkEngine) : (s.putEngine n x).syncs = s.syncs := rfl
@[simp] theorem putEngine_mesh (n : Nat) (x : LinkEngine) : (s.putEngine n x).mesh = s.mesh := rfl
@[simp] theorem putEngine_power (n : Nat) (x : LinkEngine) : (s.putEngine n x).power = s.power := rfl
@[simp] theorem putEngine_commit (n : Nat) (x : LinkEngine) : (s.putEngine n x).commit = s.commit := rfl
@[simp] theorem putEngine_repairs (n : Nat) (x : LinkEngine) : (s.putEngine n x).repairs = s.repairs := rfl
@[simp] theorem putEngine_stagedMesh (n : Nat) (x : LinkEngine) : (s.putEngine n x).stagedMesh = s.stagedMesh := rfl
@[simp] theorem putEngine_stagedLink (n : Nat) (x : LinkEngine) : (s.putEngine n x).stagedLink = s.stagedLink := rfl
@[simp] theorem putEngine_dieState (n : Nat) (x : LinkEngine) : (s.putEngine n x).dieState = s.dieState := rfl
@[simp] theorem putEngine_dieGen (n : Nat) (x : LinkEngine) : (s.putEngine n x).dieGen = s.dieGen := rfl
@[simp] theorem putEngine_clusters (n : Nat) (x : LinkEngine) : (s.putEngine n x).clusters = s.clusters := rfl
@[simp] theorem putEngine_windows (n : Nat) (x : LinkEngine) : (s.putEngine n x).windows = s.windows := rfl
@[simp] theorem putEngine_hosts (n : Nat) (x : LinkEngine) : (s.putEngine n x).hosts = s.hosts := rfl
@[simp] theorem putEngine_mgr (n : Nat) (x : LinkEngine) : (s.putEngine n x).mgr = s.mgr := rfl
@[simp] theorem putEngine_sec (n : Nat) (x : LinkEngine) : (s.putEngine n x).sec = s.sec := rfl
@[simp] theorem putEngine_i3c (n : Nat) (x : LinkEngine) : (s.putEngine n x).i3c = s.i3c := rfl

/-! Fields after `putPort`. -/

@[simp] theorem putPort_pending (n : Nat) (x : Port) : (s.putPort n x).pending = s.pending := rfl
@[simp] theorem putPort_time (n : Nat) (x : Port) : (s.putPort n x).time = s.time := rfl
@[simp] theorem putPort_bootTime (n : Nat) (x : Port) : (s.putPort n x).bootTime = s.bootTime := rfl
@[simp] theorem putPort_free (n : Nat) (x : Port) : (s.putPort n x).free = s.free := rfl
@[simp] theorem putPort_ids (n : Nat) (x : Port) : (s.putPort n x).ids = s.ids := rfl
@[simp] theorem putPort_regs (n : Nat) (x : Port) : (s.putPort n x).regs = s.regs := rfl
@[simp] theorem putPort_staged (n : Nat) (x : Port) : (s.putPort n x).staged = s.staged := rfl
@[simp] theorem putPort_swin (n : Nat) (x : Port) : (s.putPort n x).swin = s.swin := rfl
@[simp] theorem putPort_mem (n : Nat) (x : Port) : (s.putPort n x).mem = s.mem := rfl
@[simp] theorem putPort_poison (n : Nat) (x : Port) : (s.putPort n x).poison = s.poison := rfl
@[simp] theorem putPort_cores (n : Nat) (x : Port) : (s.putPort n x).cores = s.cores := rfl
@[simp] theorem putPort_slices (n : Nat) (x : Port) : (s.putPort n x).slices = s.slices := rfl
@[simp] theorem putPort_halves (n : Nat) (x : Port) : (s.putPort n x).halves = s.halves := rfl
@[simp] theorem putPort_nodes (n : Nat) (x : Port) : (s.putPort n x).nodes = s.nodes := rfl
@[simp] theorem putPort_flight (n : Nat) (x : Port) : (s.putPort n x).flight = s.flight := rfl
@[simp] theorem putPort_out (n : Nat) (x : Port) : (s.putPort n x).out = s.out := rfl
@[simp] theorem putPort_unacked (n : Nat) (x : Port) : (s.putPort n x).unacked = s.unacked := rfl
@[simp] theorem putPort_cycBase (n : Nat) (x : Port) : (s.putPort n x).cycBase = s.cycBase := rfl
@[simp] theorem putPort_hostReads (n : Nat) (x : Port) : (s.putPort n x).hostReads = s.hostReads := rfl
@[simp] theorem putPort_tags (n : Nat) (x : Port) : (s.putPort n x).tags = s.tags := rfl
@[simp] theorem putPort_queues (n : Nat) (x : Port) : (s.putPort n x).queues = s.queues := rfl
@[simp] theorem putPort_qfcIn (n : Nat) (x : Port) : (s.putPort n x).qfcIn = s.qfcIn := rfl
@[simp] theorem putPort_remotes (n : Nat) (x : Port) : (s.putPort n x).remotes = s.remotes := rfl
@[simp] theorem putPort_opids (n : Nat) (x : Port) : (s.putPort n x).opids = s.opids := rfl
@[simp] theorem putPort_routes (n : Nat) (x : Port) : (s.putPort n x).routes = s.routes := rfl
@[simp] theorem putPort_engines (n : Nat) (x : Port) : (s.putPort n x).engines = s.engines := rfl
@[simp] theorem putPort_seen (n : Nat) (x : Port) : (s.putPort n x).seen = s.seen := rfl
@[simp] theorem putPort_notices (n : Nat) (x : Port) : (s.putPort n x).notices = s.notices := rfl
@[simp] theorem putPort_vetch (n : Nat) (x : Port) : (s.putPort n x).vetch = s.vetch := rfl
@[simp] theorem putPort_errlog (n : Nat) (x : Port) : (s.putPort n x).errlog = s.errlog := rfl
@[simp] theorem putPort_errSaved (n : Nat) (x : Port) : (s.putPort n x).errSaved = s.errSaved := rfl
@[simp] theorem putPort_events (n : Nat) (x : Port) : (s.putPort n x).events = s.events := rfl
@[simp] theorem putPort_sites (n : Nat) (x : Port) : (s.putPort n x).sites = s.sites := rfl
@[simp] theorem putPort_reserves (n : Nat) (x : Port) : (s.putPort n x).reserves = s.reserves := rfl
@[simp] theorem putPort_phase (n : Nat) (x : Port) : (s.putPort n x).phase = s.phase := rfl
@[simp] theorem putPort_pins (n : Nat) (x : Port) : (s.putPort n x).pins = s.pins := rfl
@[simp] theorem putPort_trips (n : Nat) (x : Port) : (s.putPort n x).trips = s.trips := rfl
@[simp] theorem putPort_rlog (n : Nat) (x : Port) : (s.putPort n x).rlog = s.rlog := rfl
@[simp] theorem putPort_syncs (n : Nat) (x : Port) : (s.putPort n x).syncs = s.syncs := rfl
@[simp] theorem putPort_mesh (n : Nat) (x : Port) : (s.putPort n x).mesh = s.mesh := rfl
@[simp] theorem putPort_power (n : Nat) (x : Port) : (s.putPort n x).power = s.power := rfl
@[simp] theorem putPort_commit (n : Nat) (x : Port) : (s.putPort n x).commit = s.commit := rfl
@[simp] theorem putPort_repairs (n : Nat) (x : Port) : (s.putPort n x).repairs = s.repairs := rfl
@[simp] theorem putPort_stagedMesh (n : Nat) (x : Port) : (s.putPort n x).stagedMesh = s.stagedMesh := rfl
@[simp] theorem putPort_stagedLink (n : Nat) (x : Port) : (s.putPort n x).stagedLink = s.stagedLink := rfl
@[simp] theorem putPort_dieState (n : Nat) (x : Port) : (s.putPort n x).dieState = s.dieState := rfl
@[simp] theorem putPort_dieGen (n : Nat) (x : Port) : (s.putPort n x).dieGen = s.dieGen := rfl
@[simp] theorem putPort_clusters (n : Nat) (x : Port) : (s.putPort n x).clusters = s.clusters := rfl
@[simp] theorem putPort_windows (n : Nat) (x : Port) : (s.putPort n x).windows = s.windows := rfl
@[simp] theorem putPort_hosts (n : Nat) (x : Port) : (s.putPort n x).hosts = s.hosts := rfl
@[simp] theorem putPort_mgr (n : Nat) (x : Port) : (s.putPort n x).mgr = s.mgr := rfl
@[simp] theorem putPort_sec (n : Nat) (x : Port) : (s.putPort n x).sec = s.sec := rfl
@[simp] theorem putPort_i3c (n : Nat) (x : Port) : (s.putPort n x).i3c = s.i3c := rfl

/-! Fields after `putHost`. -/

@[simp] theorem putHost_pending (n : Nat) (x : HostPort) : (s.putHost n x).pending = s.pending := rfl
@[simp] theorem putHost_time (n : Nat) (x : HostPort) : (s.putHost n x).time = s.time := rfl
@[simp] theorem putHost_bootTime (n : Nat) (x : HostPort) : (s.putHost n x).bootTime = s.bootTime := rfl
@[simp] theorem putHost_free (n : Nat) (x : HostPort) : (s.putHost n x).free = s.free := rfl
@[simp] theorem putHost_ids (n : Nat) (x : HostPort) : (s.putHost n x).ids = s.ids := rfl
@[simp] theorem putHost_regs (n : Nat) (x : HostPort) : (s.putHost n x).regs = s.regs := rfl
@[simp] theorem putHost_staged (n : Nat) (x : HostPort) : (s.putHost n x).staged = s.staged := rfl
@[simp] theorem putHost_swin (n : Nat) (x : HostPort) : (s.putHost n x).swin = s.swin := rfl
@[simp] theorem putHost_mem (n : Nat) (x : HostPort) : (s.putHost n x).mem = s.mem := rfl
@[simp] theorem putHost_poison (n : Nat) (x : HostPort) : (s.putHost n x).poison = s.poison := rfl
@[simp] theorem putHost_cores (n : Nat) (x : HostPort) : (s.putHost n x).cores = s.cores := rfl
@[simp] theorem putHost_slices (n : Nat) (x : HostPort) : (s.putHost n x).slices = s.slices := rfl
@[simp] theorem putHost_halves (n : Nat) (x : HostPort) : (s.putHost n x).halves = s.halves := rfl
@[simp] theorem putHost_nodes (n : Nat) (x : HostPort) : (s.putHost n x).nodes = s.nodes := rfl
@[simp] theorem putHost_flight (n : Nat) (x : HostPort) : (s.putHost n x).flight = s.flight := rfl
@[simp] theorem putHost_out (n : Nat) (x : HostPort) : (s.putHost n x).out = s.out := rfl
@[simp] theorem putHost_unacked (n : Nat) (x : HostPort) : (s.putHost n x).unacked = s.unacked := rfl
@[simp] theorem putHost_cycBase (n : Nat) (x : HostPort) : (s.putHost n x).cycBase = s.cycBase := rfl
@[simp] theorem putHost_hostReads (n : Nat) (x : HostPort) : (s.putHost n x).hostReads = s.hostReads := rfl
@[simp] theorem putHost_tags (n : Nat) (x : HostPort) : (s.putHost n x).tags = s.tags := rfl
@[simp] theorem putHost_queues (n : Nat) (x : HostPort) : (s.putHost n x).queues = s.queues := rfl
@[simp] theorem putHost_qfcIn (n : Nat) (x : HostPort) : (s.putHost n x).qfcIn = s.qfcIn := rfl
@[simp] theorem putHost_remotes (n : Nat) (x : HostPort) : (s.putHost n x).remotes = s.remotes := rfl
@[simp] theorem putHost_ports (n : Nat) (x : HostPort) : (s.putHost n x).ports = s.ports := rfl
@[simp] theorem putHost_opids (n : Nat) (x : HostPort) : (s.putHost n x).opids = s.opids := rfl
@[simp] theorem putHost_routes (n : Nat) (x : HostPort) : (s.putHost n x).routes = s.routes := rfl
@[simp] theorem putHost_engines (n : Nat) (x : HostPort) : (s.putHost n x).engines = s.engines := rfl
@[simp] theorem putHost_seen (n : Nat) (x : HostPort) : (s.putHost n x).seen = s.seen := rfl
@[simp] theorem putHost_notices (n : Nat) (x : HostPort) : (s.putHost n x).notices = s.notices := rfl
@[simp] theorem putHost_vetch (n : Nat) (x : HostPort) : (s.putHost n x).vetch = s.vetch := rfl
@[simp] theorem putHost_errlog (n : Nat) (x : HostPort) : (s.putHost n x).errlog = s.errlog := rfl
@[simp] theorem putHost_errSaved (n : Nat) (x : HostPort) : (s.putHost n x).errSaved = s.errSaved := rfl
@[simp] theorem putHost_events (n : Nat) (x : HostPort) : (s.putHost n x).events = s.events := rfl
@[simp] theorem putHost_sites (n : Nat) (x : HostPort) : (s.putHost n x).sites = s.sites := rfl
@[simp] theorem putHost_reserves (n : Nat) (x : HostPort) : (s.putHost n x).reserves = s.reserves := rfl
@[simp] theorem putHost_phase (n : Nat) (x : HostPort) : (s.putHost n x).phase = s.phase := rfl
@[simp] theorem putHost_pins (n : Nat) (x : HostPort) : (s.putHost n x).pins = s.pins := rfl
@[simp] theorem putHost_trips (n : Nat) (x : HostPort) : (s.putHost n x).trips = s.trips := rfl
@[simp] theorem putHost_rlog (n : Nat) (x : HostPort) : (s.putHost n x).rlog = s.rlog := rfl
@[simp] theorem putHost_syncs (n : Nat) (x : HostPort) : (s.putHost n x).syncs = s.syncs := rfl
@[simp] theorem putHost_mesh (n : Nat) (x : HostPort) : (s.putHost n x).mesh = s.mesh := rfl
@[simp] theorem putHost_power (n : Nat) (x : HostPort) : (s.putHost n x).power = s.power := rfl
@[simp] theorem putHost_commit (n : Nat) (x : HostPort) : (s.putHost n x).commit = s.commit := rfl
@[simp] theorem putHost_repairs (n : Nat) (x : HostPort) : (s.putHost n x).repairs = s.repairs := rfl
@[simp] theorem putHost_stagedMesh (n : Nat) (x : HostPort) : (s.putHost n x).stagedMesh = s.stagedMesh := rfl
@[simp] theorem putHost_stagedLink (n : Nat) (x : HostPort) : (s.putHost n x).stagedLink = s.stagedLink := rfl
@[simp] theorem putHost_dieState (n : Nat) (x : HostPort) : (s.putHost n x).dieState = s.dieState := rfl
@[simp] theorem putHost_dieGen (n : Nat) (x : HostPort) : (s.putHost n x).dieGen = s.dieGen := rfl
@[simp] theorem putHost_clusters (n : Nat) (x : HostPort) : (s.putHost n x).clusters = s.clusters := rfl
@[simp] theorem putHost_windows (n : Nat) (x : HostPort) : (s.putHost n x).windows = s.windows := rfl
@[simp] theorem putHost_mgr (n : Nat) (x : HostPort) : (s.putHost n x).mgr = s.mgr := rfl
@[simp] theorem putHost_sec (n : Nat) (x : HostPort) : (s.putHost n x).sec = s.sec := rfl
@[simp] theorem putHost_i3c (n : Nat) (x : HostPort) : (s.putHost n x).i3c = s.i3c := rfl

/-! Fields after `putCluster`. -/

@[simp] theorem putCluster_pending (n : Nat) (x : Cluster) : (s.putCluster n x).pending = s.pending := rfl
@[simp] theorem putCluster_time (n : Nat) (x : Cluster) : (s.putCluster n x).time = s.time := rfl
@[simp] theorem putCluster_bootTime (n : Nat) (x : Cluster) : (s.putCluster n x).bootTime = s.bootTime := rfl
@[simp] theorem putCluster_free (n : Nat) (x : Cluster) : (s.putCluster n x).free = s.free := rfl
@[simp] theorem putCluster_ids (n : Nat) (x : Cluster) : (s.putCluster n x).ids = s.ids := rfl
@[simp] theorem putCluster_regs (n : Nat) (x : Cluster) : (s.putCluster n x).regs = s.regs := rfl
@[simp] theorem putCluster_staged (n : Nat) (x : Cluster) : (s.putCluster n x).staged = s.staged := rfl
@[simp] theorem putCluster_swin (n : Nat) (x : Cluster) : (s.putCluster n x).swin = s.swin := rfl
@[simp] theorem putCluster_mem (n : Nat) (x : Cluster) : (s.putCluster n x).mem = s.mem := rfl
@[simp] theorem putCluster_poison (n : Nat) (x : Cluster) : (s.putCluster n x).poison = s.poison := rfl
@[simp] theorem putCluster_cores (n : Nat) (x : Cluster) : (s.putCluster n x).cores = s.cores := rfl
@[simp] theorem putCluster_slices (n : Nat) (x : Cluster) : (s.putCluster n x).slices = s.slices := rfl
@[simp] theorem putCluster_halves (n : Nat) (x : Cluster) : (s.putCluster n x).halves = s.halves := rfl
@[simp] theorem putCluster_nodes (n : Nat) (x : Cluster) : (s.putCluster n x).nodes = s.nodes := rfl
@[simp] theorem putCluster_flight (n : Nat) (x : Cluster) : (s.putCluster n x).flight = s.flight := rfl
@[simp] theorem putCluster_out (n : Nat) (x : Cluster) : (s.putCluster n x).out = s.out := rfl
@[simp] theorem putCluster_unacked (n : Nat) (x : Cluster) : (s.putCluster n x).unacked = s.unacked := rfl
@[simp] theorem putCluster_cycBase (n : Nat) (x : Cluster) : (s.putCluster n x).cycBase = s.cycBase := rfl
@[simp] theorem putCluster_hostReads (n : Nat) (x : Cluster) : (s.putCluster n x).hostReads = s.hostReads := rfl
@[simp] theorem putCluster_tags (n : Nat) (x : Cluster) : (s.putCluster n x).tags = s.tags := rfl
@[simp] theorem putCluster_queues (n : Nat) (x : Cluster) : (s.putCluster n x).queues = s.queues := rfl
@[simp] theorem putCluster_qfcIn (n : Nat) (x : Cluster) : (s.putCluster n x).qfcIn = s.qfcIn := rfl
@[simp] theorem putCluster_remotes (n : Nat) (x : Cluster) : (s.putCluster n x).remotes = s.remotes := rfl
@[simp] theorem putCluster_ports (n : Nat) (x : Cluster) : (s.putCluster n x).ports = s.ports := rfl
@[simp] theorem putCluster_opids (n : Nat) (x : Cluster) : (s.putCluster n x).opids = s.opids := rfl
@[simp] theorem putCluster_routes (n : Nat) (x : Cluster) : (s.putCluster n x).routes = s.routes := rfl
@[simp] theorem putCluster_engines (n : Nat) (x : Cluster) : (s.putCluster n x).engines = s.engines := rfl
@[simp] theorem putCluster_seen (n : Nat) (x : Cluster) : (s.putCluster n x).seen = s.seen := rfl
@[simp] theorem putCluster_notices (n : Nat) (x : Cluster) : (s.putCluster n x).notices = s.notices := rfl
@[simp] theorem putCluster_vetch (n : Nat) (x : Cluster) : (s.putCluster n x).vetch = s.vetch := rfl
@[simp] theorem putCluster_errlog (n : Nat) (x : Cluster) : (s.putCluster n x).errlog = s.errlog := rfl
@[simp] theorem putCluster_errSaved (n : Nat) (x : Cluster) : (s.putCluster n x).errSaved = s.errSaved := rfl
@[simp] theorem putCluster_events (n : Nat) (x : Cluster) : (s.putCluster n x).events = s.events := rfl
@[simp] theorem putCluster_sites (n : Nat) (x : Cluster) : (s.putCluster n x).sites = s.sites := rfl
@[simp] theorem putCluster_reserves (n : Nat) (x : Cluster) : (s.putCluster n x).reserves = s.reserves := rfl
@[simp] theorem putCluster_phase (n : Nat) (x : Cluster) : (s.putCluster n x).phase = s.phase := rfl
@[simp] theorem putCluster_pins (n : Nat) (x : Cluster) : (s.putCluster n x).pins = s.pins := rfl
@[simp] theorem putCluster_trips (n : Nat) (x : Cluster) : (s.putCluster n x).trips = s.trips := rfl
@[simp] theorem putCluster_rlog (n : Nat) (x : Cluster) : (s.putCluster n x).rlog = s.rlog := rfl
@[simp] theorem putCluster_syncs (n : Nat) (x : Cluster) : (s.putCluster n x).syncs = s.syncs := rfl
@[simp] theorem putCluster_mesh (n : Nat) (x : Cluster) : (s.putCluster n x).mesh = s.mesh := rfl
@[simp] theorem putCluster_power (n : Nat) (x : Cluster) : (s.putCluster n x).power = s.power := rfl
@[simp] theorem putCluster_commit (n : Nat) (x : Cluster) : (s.putCluster n x).commit = s.commit := rfl
@[simp] theorem putCluster_repairs (n : Nat) (x : Cluster) : (s.putCluster n x).repairs = s.repairs := rfl
@[simp] theorem putCluster_stagedMesh (n : Nat) (x : Cluster) : (s.putCluster n x).stagedMesh = s.stagedMesh := rfl
@[simp] theorem putCluster_stagedLink (n : Nat) (x : Cluster) : (s.putCluster n x).stagedLink = s.stagedLink := rfl
@[simp] theorem putCluster_dieState (n : Nat) (x : Cluster) : (s.putCluster n x).dieState = s.dieState := rfl
@[simp] theorem putCluster_dieGen (n : Nat) (x : Cluster) : (s.putCluster n x).dieGen = s.dieGen := rfl
@[simp] theorem putCluster_windows (n : Nat) (x : Cluster) : (s.putCluster n x).windows = s.windows := rfl
@[simp] theorem putCluster_hosts (n : Nat) (x : Cluster) : (s.putCluster n x).hosts = s.hosts := rfl
@[simp] theorem putCluster_mgr (n : Nat) (x : Cluster) : (s.putCluster n x).mgr = s.mgr := rfl
@[simp] theorem putCluster_sec (n : Nat) (x : Cluster) : (s.putCluster n x).sec = s.sec := rfl
@[simp] theorem putCluster_i3c (n : Nat) (x : Cluster) : (s.putCluster n x).i3c = s.i3c := rfl

/-! Fields after `emit`. -/

@[simp] theorem emit_pending (o : Out) : (s.emit o).pending = s.pending := rfl
@[simp] theorem emit_time (o : Out) : (s.emit o).time = s.time := rfl
@[simp] theorem emit_bootTime (o : Out) : (s.emit o).bootTime = s.bootTime := rfl
@[simp] theorem emit_free (o : Out) : (s.emit o).free = s.free := rfl
@[simp] theorem emit_ids (o : Out) : (s.emit o).ids = s.ids := rfl
@[simp] theorem emit_regs (o : Out) : (s.emit o).regs = s.regs := rfl
@[simp] theorem emit_staged (o : Out) : (s.emit o).staged = s.staged := rfl
@[simp] theorem emit_swin (o : Out) : (s.emit o).swin = s.swin := rfl
@[simp] theorem emit_mem (o : Out) : (s.emit o).mem = s.mem := rfl
@[simp] theorem emit_poison (o : Out) : (s.emit o).poison = s.poison := rfl
@[simp] theorem emit_cores (o : Out) : (s.emit o).cores = s.cores := rfl
@[simp] theorem emit_slices (o : Out) : (s.emit o).slices = s.slices := rfl
@[simp] theorem emit_halves (o : Out) : (s.emit o).halves = s.halves := rfl
@[simp] theorem emit_nodes (o : Out) : (s.emit o).nodes = s.nodes := rfl
@[simp] theorem emit_flight (o : Out) : (s.emit o).flight = s.flight := rfl
@[simp] theorem emit_unacked (o : Out) : (s.emit o).unacked = s.unacked := rfl
@[simp] theorem emit_cycBase (o : Out) : (s.emit o).cycBase = s.cycBase := rfl
@[simp] theorem emit_hostReads (o : Out) : (s.emit o).hostReads = s.hostReads := rfl
@[simp] theorem emit_tags (o : Out) : (s.emit o).tags = s.tags := rfl
@[simp] theorem emit_queues (o : Out) : (s.emit o).queues = s.queues := rfl
@[simp] theorem emit_qfcIn (o : Out) : (s.emit o).qfcIn = s.qfcIn := rfl
@[simp] theorem emit_remotes (o : Out) : (s.emit o).remotes = s.remotes := rfl
@[simp] theorem emit_ports (o : Out) : (s.emit o).ports = s.ports := rfl
@[simp] theorem emit_opids (o : Out) : (s.emit o).opids = s.opids := rfl
@[simp] theorem emit_routes (o : Out) : (s.emit o).routes = s.routes := rfl
@[simp] theorem emit_engines (o : Out) : (s.emit o).engines = s.engines := rfl
@[simp] theorem emit_seen (o : Out) : (s.emit o).seen = s.seen := rfl
@[simp] theorem emit_notices (o : Out) : (s.emit o).notices = s.notices := rfl
@[simp] theorem emit_vetch (o : Out) : (s.emit o).vetch = s.vetch := rfl
@[simp] theorem emit_errlog (o : Out) : (s.emit o).errlog = s.errlog := rfl
@[simp] theorem emit_errSaved (o : Out) : (s.emit o).errSaved = s.errSaved := rfl
@[simp] theorem emit_events (o : Out) : (s.emit o).events = s.events := rfl
@[simp] theorem emit_sites (o : Out) : (s.emit o).sites = s.sites := rfl
@[simp] theorem emit_reserves (o : Out) : (s.emit o).reserves = s.reserves := rfl
@[simp] theorem emit_phase (o : Out) : (s.emit o).phase = s.phase := rfl
@[simp] theorem emit_pins (o : Out) : (s.emit o).pins = s.pins := rfl
@[simp] theorem emit_trips (o : Out) : (s.emit o).trips = s.trips := rfl
@[simp] theorem emit_rlog (o : Out) : (s.emit o).rlog = s.rlog := rfl
@[simp] theorem emit_syncs (o : Out) : (s.emit o).syncs = s.syncs := rfl
@[simp] theorem emit_mesh (o : Out) : (s.emit o).mesh = s.mesh := rfl
@[simp] theorem emit_power (o : Out) : (s.emit o).power = s.power := rfl
@[simp] theorem emit_commit (o : Out) : (s.emit o).commit = s.commit := rfl
@[simp] theorem emit_repairs (o : Out) : (s.emit o).repairs = s.repairs := rfl
@[simp] theorem emit_stagedMesh (o : Out) : (s.emit o).stagedMesh = s.stagedMesh := rfl
@[simp] theorem emit_stagedLink (o : Out) : (s.emit o).stagedLink = s.stagedLink := rfl
@[simp] theorem emit_dieState (o : Out) : (s.emit o).dieState = s.dieState := rfl
@[simp] theorem emit_dieGen (o : Out) : (s.emit o).dieGen = s.dieGen := rfl
@[simp] theorem emit_clusters (o : Out) : (s.emit o).clusters = s.clusters := rfl
@[simp] theorem emit_windows (o : Out) : (s.emit o).windows = s.windows := rfl
@[simp] theorem emit_hosts (o : Out) : (s.emit o).hosts = s.hosts := rfl
@[simp] theorem emit_mgr (o : Out) : (s.emit o).mgr = s.mgr := rfl
@[simp] theorem emit_sec (o : Out) : (s.emit o).sec = s.sec := rfl
@[simp] theorem emit_i3c (o : Out) : (s.emit o).i3c = s.i3c := rfl

/-! Fields after `take`. -/

@[simp] theorem take_pending (i : Instr) : (s.take i).pending = s.pending := rfl
@[simp] theorem take_time (i : Instr) : (s.take i).time = s.time := rfl
@[simp] theorem take_bootTime (i : Instr) : (s.take i).bootTime = s.bootTime := rfl
@[simp] theorem take_free (i : Instr) : (s.take i).free = s.free := rfl
@[simp] theorem take_ids (i : Instr) : (s.take i).ids = s.ids := rfl
@[simp] theorem take_regs (i : Instr) : (s.take i).regs = s.regs := rfl
@[simp] theorem take_staged (i : Instr) : (s.take i).staged = s.staged := rfl
@[simp] theorem take_swin (i : Instr) : (s.take i).swin = s.swin := rfl
@[simp] theorem take_mem (i : Instr) : (s.take i).mem = s.mem := rfl
@[simp] theorem take_poison (i : Instr) : (s.take i).poison = s.poison := rfl
@[simp] theorem take_cores (i : Instr) : (s.take i).cores = s.cores := rfl
@[simp] theorem take_slices (i : Instr) : (s.take i).slices = s.slices := rfl
@[simp] theorem take_halves (i : Instr) : (s.take i).halves = s.halves := rfl
@[simp] theorem take_nodes (i : Instr) : (s.take i).nodes = s.nodes := rfl
@[simp] theorem take_out (i : Instr) : (s.take i).out = s.out := rfl
@[simp] theorem take_unacked (i : Instr) : (s.take i).unacked = s.unacked := rfl
@[simp] theorem take_cycBase (i : Instr) : (s.take i).cycBase = s.cycBase := rfl
@[simp] theorem take_hostReads (i : Instr) : (s.take i).hostReads = s.hostReads := rfl
@[simp] theorem take_tags (i : Instr) : (s.take i).tags = s.tags := rfl
@[simp] theorem take_queues (i : Instr) : (s.take i).queues = s.queues := rfl
@[simp] theorem take_qfcIn (i : Instr) : (s.take i).qfcIn = s.qfcIn := rfl
@[simp] theorem take_remotes (i : Instr) : (s.take i).remotes = s.remotes := rfl
@[simp] theorem take_ports (i : Instr) : (s.take i).ports = s.ports := rfl
@[simp] theorem take_opids (i : Instr) : (s.take i).opids = s.opids := rfl
@[simp] theorem take_routes (i : Instr) : (s.take i).routes = s.routes := rfl
@[simp] theorem take_engines (i : Instr) : (s.take i).engines = s.engines := rfl
@[simp] theorem take_seen (i : Instr) : (s.take i).seen = s.seen := rfl
@[simp] theorem take_notices (i : Instr) : (s.take i).notices = s.notices := rfl
@[simp] theorem take_vetch (i : Instr) : (s.take i).vetch = s.vetch := rfl
@[simp] theorem take_errlog (i : Instr) : (s.take i).errlog = s.errlog := rfl
@[simp] theorem take_errSaved (i : Instr) : (s.take i).errSaved = s.errSaved := rfl
@[simp] theorem take_events (i : Instr) : (s.take i).events = s.events := rfl
@[simp] theorem take_sites (i : Instr) : (s.take i).sites = s.sites := rfl
@[simp] theorem take_reserves (i : Instr) : (s.take i).reserves = s.reserves := rfl
@[simp] theorem take_phase (i : Instr) : (s.take i).phase = s.phase := rfl
@[simp] theorem take_pins (i : Instr) : (s.take i).pins = s.pins := rfl
@[simp] theorem take_trips (i : Instr) : (s.take i).trips = s.trips := rfl
@[simp] theorem take_rlog (i : Instr) : (s.take i).rlog = s.rlog := rfl
@[simp] theorem take_syncs (i : Instr) : (s.take i).syncs = s.syncs := rfl
@[simp] theorem take_mesh (i : Instr) : (s.take i).mesh = s.mesh := rfl
@[simp] theorem take_power (i : Instr) : (s.take i).power = s.power := rfl
@[simp] theorem take_commit (i : Instr) : (s.take i).commit = s.commit := rfl
@[simp] theorem take_repairs (i : Instr) : (s.take i).repairs = s.repairs := rfl
@[simp] theorem take_stagedMesh (i : Instr) : (s.take i).stagedMesh = s.stagedMesh := rfl
@[simp] theorem take_stagedLink (i : Instr) : (s.take i).stagedLink = s.stagedLink := rfl
@[simp] theorem take_dieState (i : Instr) : (s.take i).dieState = s.dieState := rfl
@[simp] theorem take_dieGen (i : Instr) : (s.take i).dieGen = s.dieGen := rfl
@[simp] theorem take_clusters (i : Instr) : (s.take i).clusters = s.clusters := rfl
@[simp] theorem take_windows (i : Instr) : (s.take i).windows = s.windows := rfl
@[simp] theorem take_hosts (i : Instr) : (s.take i).hosts = s.hosts := rfl
@[simp] theorem take_mgr (i : Instr) : (s.take i).mgr = s.mgr := rfl
@[simp] theorem take_sec (i : Instr) : (s.take i).sec = s.sec := rfl
@[simp] theorem take_i3c (i : Instr) : (s.take i).i3c = s.i3c := rfl

/-! Fields after `putHalfPower`. -/

@[simp] theorem putHalfPower_pending (n : Nat) (x : HalfPower) : (s.putHalfPower n x).pending = s.pending := rfl
@[simp] theorem putHalfPower_time (n : Nat) (x : HalfPower) : (s.putHalfPower n x).time = s.time := rfl
@[simp] theorem putHalfPower_bootTime (n : Nat) (x : HalfPower) : (s.putHalfPower n x).bootTime = s.bootTime := rfl
@[simp] theorem putHalfPower_free (n : Nat) (x : HalfPower) : (s.putHalfPower n x).free = s.free := rfl
@[simp] theorem putHalfPower_ids (n : Nat) (x : HalfPower) : (s.putHalfPower n x).ids = s.ids := rfl
@[simp] theorem putHalfPower_regs (n : Nat) (x : HalfPower) : (s.putHalfPower n x).regs = s.regs := rfl
@[simp] theorem putHalfPower_staged (n : Nat) (x : HalfPower) : (s.putHalfPower n x).staged = s.staged := rfl
@[simp] theorem putHalfPower_swin (n : Nat) (x : HalfPower) : (s.putHalfPower n x).swin = s.swin := rfl
@[simp] theorem putHalfPower_mem (n : Nat) (x : HalfPower) : (s.putHalfPower n x).mem = s.mem := rfl
@[simp] theorem putHalfPower_poison (n : Nat) (x : HalfPower) : (s.putHalfPower n x).poison = s.poison := rfl
@[simp] theorem putHalfPower_cores (n : Nat) (x : HalfPower) : (s.putHalfPower n x).cores = s.cores := rfl
@[simp] theorem putHalfPower_slices (n : Nat) (x : HalfPower) : (s.putHalfPower n x).slices = s.slices := rfl
@[simp] theorem putHalfPower_halves (n : Nat) (x : HalfPower) : (s.putHalfPower n x).halves = s.halves := rfl
@[simp] theorem putHalfPower_nodes (n : Nat) (x : HalfPower) : (s.putHalfPower n x).nodes = s.nodes := rfl
@[simp] theorem putHalfPower_flight (n : Nat) (x : HalfPower) : (s.putHalfPower n x).flight = s.flight := rfl
@[simp] theorem putHalfPower_out (n : Nat) (x : HalfPower) : (s.putHalfPower n x).out = s.out := rfl
@[simp] theorem putHalfPower_unacked (n : Nat) (x : HalfPower) : (s.putHalfPower n x).unacked = s.unacked := rfl
@[simp] theorem putHalfPower_cycBase (n : Nat) (x : HalfPower) : (s.putHalfPower n x).cycBase = s.cycBase := rfl
@[simp] theorem putHalfPower_hostReads (n : Nat) (x : HalfPower) : (s.putHalfPower n x).hostReads = s.hostReads := rfl
@[simp] theorem putHalfPower_tags (n : Nat) (x : HalfPower) : (s.putHalfPower n x).tags = s.tags := rfl
@[simp] theorem putHalfPower_queues (n : Nat) (x : HalfPower) : (s.putHalfPower n x).queues = s.queues := rfl
@[simp] theorem putHalfPower_qfcIn (n : Nat) (x : HalfPower) : (s.putHalfPower n x).qfcIn = s.qfcIn := rfl
@[simp] theorem putHalfPower_remotes (n : Nat) (x : HalfPower) : (s.putHalfPower n x).remotes = s.remotes := rfl
@[simp] theorem putHalfPower_ports (n : Nat) (x : HalfPower) : (s.putHalfPower n x).ports = s.ports := rfl
@[simp] theorem putHalfPower_opids (n : Nat) (x : HalfPower) : (s.putHalfPower n x).opids = s.opids := rfl
@[simp] theorem putHalfPower_routes (n : Nat) (x : HalfPower) : (s.putHalfPower n x).routes = s.routes := rfl
@[simp] theorem putHalfPower_engines (n : Nat) (x : HalfPower) : (s.putHalfPower n x).engines = s.engines := rfl
@[simp] theorem putHalfPower_seen (n : Nat) (x : HalfPower) : (s.putHalfPower n x).seen = s.seen := rfl
@[simp] theorem putHalfPower_notices (n : Nat) (x : HalfPower) : (s.putHalfPower n x).notices = s.notices := rfl
@[simp] theorem putHalfPower_vetch (n : Nat) (x : HalfPower) : (s.putHalfPower n x).vetch = s.vetch := rfl
@[simp] theorem putHalfPower_errlog (n : Nat) (x : HalfPower) : (s.putHalfPower n x).errlog = s.errlog := rfl
@[simp] theorem putHalfPower_errSaved (n : Nat) (x : HalfPower) : (s.putHalfPower n x).errSaved = s.errSaved := rfl
@[simp] theorem putHalfPower_events (n : Nat) (x : HalfPower) : (s.putHalfPower n x).events = s.events := rfl
@[simp] theorem putHalfPower_sites (n : Nat) (x : HalfPower) : (s.putHalfPower n x).sites = s.sites := rfl
@[simp] theorem putHalfPower_reserves (n : Nat) (x : HalfPower) : (s.putHalfPower n x).reserves = s.reserves := rfl
@[simp] theorem putHalfPower_phase (n : Nat) (x : HalfPower) : (s.putHalfPower n x).phase = s.phase := rfl
@[simp] theorem putHalfPower_pins (n : Nat) (x : HalfPower) : (s.putHalfPower n x).pins = s.pins := rfl
@[simp] theorem putHalfPower_trips (n : Nat) (x : HalfPower) : (s.putHalfPower n x).trips = s.trips := rfl
@[simp] theorem putHalfPower_rlog (n : Nat) (x : HalfPower) : (s.putHalfPower n x).rlog = s.rlog := rfl
@[simp] theorem putHalfPower_syncs (n : Nat) (x : HalfPower) : (s.putHalfPower n x).syncs = s.syncs := rfl
@[simp] theorem putHalfPower_mesh (n : Nat) (x : HalfPower) : (s.putHalfPower n x).mesh = s.mesh := rfl
@[simp] theorem putHalfPower_commit (n : Nat) (x : HalfPower) : (s.putHalfPower n x).commit = s.commit := rfl
@[simp] theorem putHalfPower_repairs (n : Nat) (x : HalfPower) : (s.putHalfPower n x).repairs = s.repairs := rfl
@[simp] theorem putHalfPower_stagedMesh (n : Nat) (x : HalfPower) : (s.putHalfPower n x).stagedMesh = s.stagedMesh := rfl
@[simp] theorem putHalfPower_stagedLink (n : Nat) (x : HalfPower) : (s.putHalfPower n x).stagedLink = s.stagedLink := rfl
@[simp] theorem putHalfPower_dieState (n : Nat) (x : HalfPower) : (s.putHalfPower n x).dieState = s.dieState := rfl
@[simp] theorem putHalfPower_dieGen (n : Nat) (x : HalfPower) : (s.putHalfPower n x).dieGen = s.dieGen := rfl
@[simp] theorem putHalfPower_clusters (n : Nat) (x : HalfPower) : (s.putHalfPower n x).clusters = s.clusters := rfl
@[simp] theorem putHalfPower_windows (n : Nat) (x : HalfPower) : (s.putHalfPower n x).windows = s.windows := rfl
@[simp] theorem putHalfPower_hosts (n : Nat) (x : HalfPower) : (s.putHalfPower n x).hosts = s.hosts := rfl
@[simp] theorem putHalfPower_mgr (n : Nat) (x : HalfPower) : (s.putHalfPower n x).mgr = s.mgr := rfl
@[simp] theorem putHalfPower_sec (n : Nat) (x : HalfPower) : (s.putHalfPower n x).sec = s.sec := rfl
@[simp] theorem putHalfPower_i3c (n : Nat) (x : HalfPower) : (s.putHalfPower n x).i3c = s.i3c := rfl

/-! Fields after `putDiePower`. -/

@[simp] theorem putDiePower_pending (n : Nat) (x : DiePower) : (s.putDiePower n x).pending = s.pending := rfl
@[simp] theorem putDiePower_time (n : Nat) (x : DiePower) : (s.putDiePower n x).time = s.time := rfl
@[simp] theorem putDiePower_bootTime (n : Nat) (x : DiePower) : (s.putDiePower n x).bootTime = s.bootTime := rfl
@[simp] theorem putDiePower_free (n : Nat) (x : DiePower) : (s.putDiePower n x).free = s.free := rfl
@[simp] theorem putDiePower_ids (n : Nat) (x : DiePower) : (s.putDiePower n x).ids = s.ids := rfl
@[simp] theorem putDiePower_regs (n : Nat) (x : DiePower) : (s.putDiePower n x).regs = s.regs := rfl
@[simp] theorem putDiePower_staged (n : Nat) (x : DiePower) : (s.putDiePower n x).staged = s.staged := rfl
@[simp] theorem putDiePower_swin (n : Nat) (x : DiePower) : (s.putDiePower n x).swin = s.swin := rfl
@[simp] theorem putDiePower_mem (n : Nat) (x : DiePower) : (s.putDiePower n x).mem = s.mem := rfl
@[simp] theorem putDiePower_poison (n : Nat) (x : DiePower) : (s.putDiePower n x).poison = s.poison := rfl
@[simp] theorem putDiePower_cores (n : Nat) (x : DiePower) : (s.putDiePower n x).cores = s.cores := rfl
@[simp] theorem putDiePower_slices (n : Nat) (x : DiePower) : (s.putDiePower n x).slices = s.slices := rfl
@[simp] theorem putDiePower_halves (n : Nat) (x : DiePower) : (s.putDiePower n x).halves = s.halves := rfl
@[simp] theorem putDiePower_nodes (n : Nat) (x : DiePower) : (s.putDiePower n x).nodes = s.nodes := rfl
@[simp] theorem putDiePower_flight (n : Nat) (x : DiePower) : (s.putDiePower n x).flight = s.flight := rfl
@[simp] theorem putDiePower_out (n : Nat) (x : DiePower) : (s.putDiePower n x).out = s.out := rfl
@[simp] theorem putDiePower_unacked (n : Nat) (x : DiePower) : (s.putDiePower n x).unacked = s.unacked := rfl
@[simp] theorem putDiePower_cycBase (n : Nat) (x : DiePower) : (s.putDiePower n x).cycBase = s.cycBase := rfl
@[simp] theorem putDiePower_hostReads (n : Nat) (x : DiePower) : (s.putDiePower n x).hostReads = s.hostReads := rfl
@[simp] theorem putDiePower_tags (n : Nat) (x : DiePower) : (s.putDiePower n x).tags = s.tags := rfl
@[simp] theorem putDiePower_queues (n : Nat) (x : DiePower) : (s.putDiePower n x).queues = s.queues := rfl
@[simp] theorem putDiePower_qfcIn (n : Nat) (x : DiePower) : (s.putDiePower n x).qfcIn = s.qfcIn := rfl
@[simp] theorem putDiePower_remotes (n : Nat) (x : DiePower) : (s.putDiePower n x).remotes = s.remotes := rfl
@[simp] theorem putDiePower_ports (n : Nat) (x : DiePower) : (s.putDiePower n x).ports = s.ports := rfl
@[simp] theorem putDiePower_opids (n : Nat) (x : DiePower) : (s.putDiePower n x).opids = s.opids := rfl
@[simp] theorem putDiePower_routes (n : Nat) (x : DiePower) : (s.putDiePower n x).routes = s.routes := rfl
@[simp] theorem putDiePower_engines (n : Nat) (x : DiePower) : (s.putDiePower n x).engines = s.engines := rfl
@[simp] theorem putDiePower_seen (n : Nat) (x : DiePower) : (s.putDiePower n x).seen = s.seen := rfl
@[simp] theorem putDiePower_notices (n : Nat) (x : DiePower) : (s.putDiePower n x).notices = s.notices := rfl
@[simp] theorem putDiePower_vetch (n : Nat) (x : DiePower) : (s.putDiePower n x).vetch = s.vetch := rfl
@[simp] theorem putDiePower_errlog (n : Nat) (x : DiePower) : (s.putDiePower n x).errlog = s.errlog := rfl
@[simp] theorem putDiePower_errSaved (n : Nat) (x : DiePower) : (s.putDiePower n x).errSaved = s.errSaved := rfl
@[simp] theorem putDiePower_events (n : Nat) (x : DiePower) : (s.putDiePower n x).events = s.events := rfl
@[simp] theorem putDiePower_sites (n : Nat) (x : DiePower) : (s.putDiePower n x).sites = s.sites := rfl
@[simp] theorem putDiePower_reserves (n : Nat) (x : DiePower) : (s.putDiePower n x).reserves = s.reserves := rfl
@[simp] theorem putDiePower_phase (n : Nat) (x : DiePower) : (s.putDiePower n x).phase = s.phase := rfl
@[simp] theorem putDiePower_pins (n : Nat) (x : DiePower) : (s.putDiePower n x).pins = s.pins := rfl
@[simp] theorem putDiePower_trips (n : Nat) (x : DiePower) : (s.putDiePower n x).trips = s.trips := rfl
@[simp] theorem putDiePower_rlog (n : Nat) (x : DiePower) : (s.putDiePower n x).rlog = s.rlog := rfl
@[simp] theorem putDiePower_syncs (n : Nat) (x : DiePower) : (s.putDiePower n x).syncs = s.syncs := rfl
@[simp] theorem putDiePower_mesh (n : Nat) (x : DiePower) : (s.putDiePower n x).mesh = s.mesh := rfl
@[simp] theorem putDiePower_commit (n : Nat) (x : DiePower) : (s.putDiePower n x).commit = s.commit := rfl
@[simp] theorem putDiePower_repairs (n : Nat) (x : DiePower) : (s.putDiePower n x).repairs = s.repairs := rfl
@[simp] theorem putDiePower_stagedMesh (n : Nat) (x : DiePower) : (s.putDiePower n x).stagedMesh = s.stagedMesh := rfl
@[simp] theorem putDiePower_stagedLink (n : Nat) (x : DiePower) : (s.putDiePower n x).stagedLink = s.stagedLink := rfl
@[simp] theorem putDiePower_dieState (n : Nat) (x : DiePower) : (s.putDiePower n x).dieState = s.dieState := rfl
@[simp] theorem putDiePower_dieGen (n : Nat) (x : DiePower) : (s.putDiePower n x).dieGen = s.dieGen := rfl
@[simp] theorem putDiePower_clusters (n : Nat) (x : DiePower) : (s.putDiePower n x).clusters = s.clusters := rfl
@[simp] theorem putDiePower_windows (n : Nat) (x : DiePower) : (s.putDiePower n x).windows = s.windows := rfl
@[simp] theorem putDiePower_hosts (n : Nat) (x : DiePower) : (s.putDiePower n x).hosts = s.hosts := rfl
@[simp] theorem putDiePower_mgr (n : Nat) (x : DiePower) : (s.putDiePower n x).mgr = s.mgr := rfl
@[simp] theorem putDiePower_sec (n : Nat) (x : DiePower) : (s.putDiePower n x).sec = s.sec := rfl
@[simp] theorem putDiePower_i3c (n : Nat) (x : DiePower) : (s.putDiePower n x).i3c = s.i3c := rfl

/-! Fields after `syncCycles`. -/

@[simp] theorem syncCycles_pending (h : Nat) : (s.syncCycles h).pending = s.pending := rfl
@[simp] theorem syncCycles_time (h : Nat) : (s.syncCycles h).time = s.time := rfl
@[simp] theorem syncCycles_bootTime (h : Nat) : (s.syncCycles h).bootTime = s.bootTime := rfl
@[simp] theorem syncCycles_free (h : Nat) : (s.syncCycles h).free = s.free := rfl
@[simp] theorem syncCycles_ids (h : Nat) : (s.syncCycles h).ids = s.ids := rfl
@[simp] theorem syncCycles_regs (h : Nat) : (s.syncCycles h).regs = s.regs := rfl
@[simp] theorem syncCycles_staged (h : Nat) : (s.syncCycles h).staged = s.staged := rfl
@[simp] theorem syncCycles_swin (h : Nat) : (s.syncCycles h).swin = s.swin := rfl
@[simp] theorem syncCycles_mem (h : Nat) : (s.syncCycles h).mem = s.mem := rfl
@[simp] theorem syncCycles_poison (h : Nat) : (s.syncCycles h).poison = s.poison := rfl
@[simp] theorem syncCycles_cores (h : Nat) : (s.syncCycles h).cores = s.cores := rfl
@[simp] theorem syncCycles_slices (h : Nat) : (s.syncCycles h).slices = s.slices := rfl
@[simp] theorem syncCycles_halves (h : Nat) : (s.syncCycles h).halves = s.halves := rfl
@[simp] theorem syncCycles_nodes (h : Nat) : (s.syncCycles h).nodes = s.nodes := rfl
@[simp] theorem syncCycles_flight (h : Nat) : (s.syncCycles h).flight = s.flight := rfl
@[simp] theorem syncCycles_out (h : Nat) : (s.syncCycles h).out = s.out := rfl
@[simp] theorem syncCycles_unacked (h : Nat) : (s.syncCycles h).unacked = s.unacked := rfl
@[simp] theorem syncCycles_hostReads (h : Nat) : (s.syncCycles h).hostReads = s.hostReads := rfl
@[simp] theorem syncCycles_tags (h : Nat) : (s.syncCycles h).tags = s.tags := rfl
@[simp] theorem syncCycles_queues (h : Nat) : (s.syncCycles h).queues = s.queues := rfl
@[simp] theorem syncCycles_qfcIn (h : Nat) : (s.syncCycles h).qfcIn = s.qfcIn := rfl
@[simp] theorem syncCycles_remotes (h : Nat) : (s.syncCycles h).remotes = s.remotes := rfl
@[simp] theorem syncCycles_ports (h : Nat) : (s.syncCycles h).ports = s.ports := rfl
@[simp] theorem syncCycles_opids (h : Nat) : (s.syncCycles h).opids = s.opids := rfl
@[simp] theorem syncCycles_routes (h : Nat) : (s.syncCycles h).routes = s.routes := rfl
@[simp] theorem syncCycles_engines (h : Nat) : (s.syncCycles h).engines = s.engines := rfl
@[simp] theorem syncCycles_seen (h : Nat) : (s.syncCycles h).seen = s.seen := rfl
@[simp] theorem syncCycles_notices (h : Nat) : (s.syncCycles h).notices = s.notices := rfl
@[simp] theorem syncCycles_vetch (h : Nat) : (s.syncCycles h).vetch = s.vetch := rfl
@[simp] theorem syncCycles_errlog (h : Nat) : (s.syncCycles h).errlog = s.errlog := rfl
@[simp] theorem syncCycles_errSaved (h : Nat) : (s.syncCycles h).errSaved = s.errSaved := rfl
@[simp] theorem syncCycles_events (h : Nat) : (s.syncCycles h).events = s.events := rfl
@[simp] theorem syncCycles_sites (h : Nat) : (s.syncCycles h).sites = s.sites := rfl
@[simp] theorem syncCycles_reserves (h : Nat) : (s.syncCycles h).reserves = s.reserves := rfl
@[simp] theorem syncCycles_phase (h : Nat) : (s.syncCycles h).phase = s.phase := rfl
@[simp] theorem syncCycles_pins (h : Nat) : (s.syncCycles h).pins = s.pins := rfl
@[simp] theorem syncCycles_trips (h : Nat) : (s.syncCycles h).trips = s.trips := rfl
@[simp] theorem syncCycles_rlog (h : Nat) : (s.syncCycles h).rlog = s.rlog := rfl
@[simp] theorem syncCycles_syncs (h : Nat) : (s.syncCycles h).syncs = s.syncs := rfl
@[simp] theorem syncCycles_mesh (h : Nat) : (s.syncCycles h).mesh = s.mesh := rfl
@[simp] theorem syncCycles_power (h : Nat) : (s.syncCycles h).power = s.power := rfl
@[simp] theorem syncCycles_commit (h : Nat) : (s.syncCycles h).commit = s.commit := rfl
@[simp] theorem syncCycles_repairs (h : Nat) : (s.syncCycles h).repairs = s.repairs := rfl
@[simp] theorem syncCycles_stagedMesh (h : Nat) : (s.syncCycles h).stagedMesh = s.stagedMesh := rfl
@[simp] theorem syncCycles_stagedLink (h : Nat) : (s.syncCycles h).stagedLink = s.stagedLink := rfl
@[simp] theorem syncCycles_dieState (h : Nat) : (s.syncCycles h).dieState = s.dieState := rfl
@[simp] theorem syncCycles_dieGen (h : Nat) : (s.syncCycles h).dieGen = s.dieGen := rfl
@[simp] theorem syncCycles_clusters (h : Nat) : (s.syncCycles h).clusters = s.clusters := rfl
@[simp] theorem syncCycles_windows (h : Nat) : (s.syncCycles h).windows = s.windows := rfl
@[simp] theorem syncCycles_hosts (h : Nat) : (s.syncCycles h).hosts = s.hosts := rfl
@[simp] theorem syncCycles_mgr (h : Nat) : (s.syncCycles h).mgr = s.mgr := rfl
@[simp] theorem syncCycles_sec (h : Nat) : (s.syncCycles h).sec = s.sec := rfl
@[simp] theorem syncCycles_i3c (h : Nat) : (s.syncCycles h).i3c = s.i3c := rfl

/-! Fields after `setPoison`. -/

@[simp] theorem setPoison_pending (n : Nat) (b : Bool) : (s.setPoison n b).pending = s.pending := rfl
@[simp] theorem setPoison_time (n : Nat) (b : Bool) : (s.setPoison n b).time = s.time := rfl
@[simp] theorem setPoison_bootTime (n : Nat) (b : Bool) : (s.setPoison n b).bootTime = s.bootTime := rfl
@[simp] theorem setPoison_free (n : Nat) (b : Bool) : (s.setPoison n b).free = s.free := rfl
@[simp] theorem setPoison_ids (n : Nat) (b : Bool) : (s.setPoison n b).ids = s.ids := rfl
@[simp] theorem setPoison_regs (n : Nat) (b : Bool) : (s.setPoison n b).regs = s.regs := rfl
@[simp] theorem setPoison_staged (n : Nat) (b : Bool) : (s.setPoison n b).staged = s.staged := rfl
@[simp] theorem setPoison_swin (n : Nat) (b : Bool) : (s.setPoison n b).swin = s.swin := rfl
@[simp] theorem setPoison_mem (n : Nat) (b : Bool) : (s.setPoison n b).mem = s.mem := rfl
@[simp] theorem setPoison_cores (n : Nat) (b : Bool) : (s.setPoison n b).cores = s.cores := rfl
@[simp] theorem setPoison_slices (n : Nat) (b : Bool) : (s.setPoison n b).slices = s.slices := rfl
@[simp] theorem setPoison_halves (n : Nat) (b : Bool) : (s.setPoison n b).halves = s.halves := rfl
@[simp] theorem setPoison_nodes (n : Nat) (b : Bool) : (s.setPoison n b).nodes = s.nodes := rfl
@[simp] theorem setPoison_flight (n : Nat) (b : Bool) : (s.setPoison n b).flight = s.flight := rfl
@[simp] theorem setPoison_out (n : Nat) (b : Bool) : (s.setPoison n b).out = s.out := rfl
@[simp] theorem setPoison_unacked (n : Nat) (b : Bool) : (s.setPoison n b).unacked = s.unacked := rfl
@[simp] theorem setPoison_cycBase (n : Nat) (b : Bool) : (s.setPoison n b).cycBase = s.cycBase := rfl
@[simp] theorem setPoison_hostReads (n : Nat) (b : Bool) : (s.setPoison n b).hostReads = s.hostReads := rfl
@[simp] theorem setPoison_tags (n : Nat) (b : Bool) : (s.setPoison n b).tags = s.tags := rfl
@[simp] theorem setPoison_queues (n : Nat) (b : Bool) : (s.setPoison n b).queues = s.queues := rfl
@[simp] theorem setPoison_qfcIn (n : Nat) (b : Bool) : (s.setPoison n b).qfcIn = s.qfcIn := rfl
@[simp] theorem setPoison_remotes (n : Nat) (b : Bool) : (s.setPoison n b).remotes = s.remotes := rfl
@[simp] theorem setPoison_ports (n : Nat) (b : Bool) : (s.setPoison n b).ports = s.ports := rfl
@[simp] theorem setPoison_opids (n : Nat) (b : Bool) : (s.setPoison n b).opids = s.opids := rfl
@[simp] theorem setPoison_routes (n : Nat) (b : Bool) : (s.setPoison n b).routes = s.routes := rfl
@[simp] theorem setPoison_engines (n : Nat) (b : Bool) : (s.setPoison n b).engines = s.engines := rfl
@[simp] theorem setPoison_seen (n : Nat) (b : Bool) : (s.setPoison n b).seen = s.seen := rfl
@[simp] theorem setPoison_notices (n : Nat) (b : Bool) : (s.setPoison n b).notices = s.notices := rfl
@[simp] theorem setPoison_vetch (n : Nat) (b : Bool) : (s.setPoison n b).vetch = s.vetch := rfl
@[simp] theorem setPoison_errlog (n : Nat) (b : Bool) : (s.setPoison n b).errlog = s.errlog := rfl
@[simp] theorem setPoison_errSaved (n : Nat) (b : Bool) : (s.setPoison n b).errSaved = s.errSaved := rfl
@[simp] theorem setPoison_events (n : Nat) (b : Bool) : (s.setPoison n b).events = s.events := rfl
@[simp] theorem setPoison_sites (n : Nat) (b : Bool) : (s.setPoison n b).sites = s.sites := rfl
@[simp] theorem setPoison_reserves (n : Nat) (b : Bool) : (s.setPoison n b).reserves = s.reserves := rfl
@[simp] theorem setPoison_phase (n : Nat) (b : Bool) : (s.setPoison n b).phase = s.phase := rfl
@[simp] theorem setPoison_pins (n : Nat) (b : Bool) : (s.setPoison n b).pins = s.pins := rfl
@[simp] theorem setPoison_trips (n : Nat) (b : Bool) : (s.setPoison n b).trips = s.trips := rfl
@[simp] theorem setPoison_rlog (n : Nat) (b : Bool) : (s.setPoison n b).rlog = s.rlog := rfl
@[simp] theorem setPoison_syncs (n : Nat) (b : Bool) : (s.setPoison n b).syncs = s.syncs := rfl
@[simp] theorem setPoison_mesh (n : Nat) (b : Bool) : (s.setPoison n b).mesh = s.mesh := rfl
@[simp] theorem setPoison_power (n : Nat) (b : Bool) : (s.setPoison n b).power = s.power := rfl
@[simp] theorem setPoison_commit (n : Nat) (b : Bool) : (s.setPoison n b).commit = s.commit := rfl
@[simp] theorem setPoison_repairs (n : Nat) (b : Bool) : (s.setPoison n b).repairs = s.repairs := rfl
@[simp] theorem setPoison_stagedMesh (n : Nat) (b : Bool) : (s.setPoison n b).stagedMesh = s.stagedMesh := rfl
@[simp] theorem setPoison_stagedLink (n : Nat) (b : Bool) : (s.setPoison n b).stagedLink = s.stagedLink := rfl
@[simp] theorem setPoison_dieState (n : Nat) (b : Bool) : (s.setPoison n b).dieState = s.dieState := rfl
@[simp] theorem setPoison_dieGen (n : Nat) (b : Bool) : (s.setPoison n b).dieGen = s.dieGen := rfl
@[simp] theorem setPoison_clusters (n : Nat) (b : Bool) : (s.setPoison n b).clusters = s.clusters := rfl
@[simp] theorem setPoison_windows (n : Nat) (b : Bool) : (s.setPoison n b).windows = s.windows := rfl
@[simp] theorem setPoison_hosts (n : Nat) (b : Bool) : (s.setPoison n b).hosts = s.hosts := rfl
@[simp] theorem setPoison_mgr (n : Nat) (b : Bool) : (s.setPoison n b).mgr = s.mgr := rfl
@[simp] theorem setPoison_sec (n : Nat) (b : Bool) : (s.setPoison n b).sec = s.sec := rfl
@[simp] theorem setPoison_i3c (n : Nat) (b : Bool) : (s.setPoison n b).i3c = s.i3c := rfl

/-! Fields after `putSector`. -/

@[simp] theorem putSector_pending (n : Nat) (v : W256) : (s.putSector n v).pending = s.pending := rfl
@[simp] theorem putSector_time (n : Nat) (v : W256) : (s.putSector n v).time = s.time := rfl
@[simp] theorem putSector_bootTime (n : Nat) (v : W256) : (s.putSector n v).bootTime = s.bootTime := rfl
@[simp] theorem putSector_free (n : Nat) (v : W256) : (s.putSector n v).free = s.free := rfl
@[simp] theorem putSector_ids (n : Nat) (v : W256) : (s.putSector n v).ids = s.ids := rfl
@[simp] theorem putSector_regs (n : Nat) (v : W256) : (s.putSector n v).regs = s.regs := rfl
@[simp] theorem putSector_staged (n : Nat) (v : W256) : (s.putSector n v).staged = s.staged := rfl
@[simp] theorem putSector_swin (n : Nat) (v : W256) : (s.putSector n v).swin = s.swin := rfl
@[simp] theorem putSector_poison (n : Nat) (v : W256) : (s.putSector n v).poison = s.poison := rfl
@[simp] theorem putSector_cores (n : Nat) (v : W256) : (s.putSector n v).cores = s.cores := rfl
@[simp] theorem putSector_slices (n : Nat) (v : W256) : (s.putSector n v).slices = s.slices := rfl
@[simp] theorem putSector_halves (n : Nat) (v : W256) : (s.putSector n v).halves = s.halves := rfl
@[simp] theorem putSector_nodes (n : Nat) (v : W256) : (s.putSector n v).nodes = s.nodes := rfl
@[simp] theorem putSector_flight (n : Nat) (v : W256) : (s.putSector n v).flight = s.flight := rfl
@[simp] theorem putSector_out (n : Nat) (v : W256) : (s.putSector n v).out = s.out := rfl
@[simp] theorem putSector_unacked (n : Nat) (v : W256) : (s.putSector n v).unacked = s.unacked := rfl
@[simp] theorem putSector_cycBase (n : Nat) (v : W256) : (s.putSector n v).cycBase = s.cycBase := rfl
@[simp] theorem putSector_hostReads (n : Nat) (v : W256) : (s.putSector n v).hostReads = s.hostReads := rfl
@[simp] theorem putSector_tags (n : Nat) (v : W256) : (s.putSector n v).tags = s.tags := rfl
@[simp] theorem putSector_queues (n : Nat) (v : W256) : (s.putSector n v).queues = s.queues := rfl
@[simp] theorem putSector_qfcIn (n : Nat) (v : W256) : (s.putSector n v).qfcIn = s.qfcIn := rfl
@[simp] theorem putSector_remotes (n : Nat) (v : W256) : (s.putSector n v).remotes = s.remotes := rfl
@[simp] theorem putSector_ports (n : Nat) (v : W256) : (s.putSector n v).ports = s.ports := rfl
@[simp] theorem putSector_opids (n : Nat) (v : W256) : (s.putSector n v).opids = s.opids := rfl
@[simp] theorem putSector_routes (n : Nat) (v : W256) : (s.putSector n v).routes = s.routes := rfl
@[simp] theorem putSector_engines (n : Nat) (v : W256) : (s.putSector n v).engines = s.engines := rfl
@[simp] theorem putSector_seen (n : Nat) (v : W256) : (s.putSector n v).seen = s.seen := rfl
@[simp] theorem putSector_notices (n : Nat) (v : W256) : (s.putSector n v).notices = s.notices := rfl
@[simp] theorem putSector_vetch (n : Nat) (v : W256) : (s.putSector n v).vetch = s.vetch := rfl
@[simp] theorem putSector_errlog (n : Nat) (v : W256) : (s.putSector n v).errlog = s.errlog := rfl
@[simp] theorem putSector_errSaved (n : Nat) (v : W256) : (s.putSector n v).errSaved = s.errSaved := rfl
@[simp] theorem putSector_events (n : Nat) (v : W256) : (s.putSector n v).events = s.events := rfl
@[simp] theorem putSector_sites (n : Nat) (v : W256) : (s.putSector n v).sites = s.sites := rfl
@[simp] theorem putSector_reserves (n : Nat) (v : W256) : (s.putSector n v).reserves = s.reserves := rfl
@[simp] theorem putSector_phase (n : Nat) (v : W256) : (s.putSector n v).phase = s.phase := rfl
@[simp] theorem putSector_pins (n : Nat) (v : W256) : (s.putSector n v).pins = s.pins := rfl
@[simp] theorem putSector_trips (n : Nat) (v : W256) : (s.putSector n v).trips = s.trips := rfl
@[simp] theorem putSector_rlog (n : Nat) (v : W256) : (s.putSector n v).rlog = s.rlog := rfl
@[simp] theorem putSector_syncs (n : Nat) (v : W256) : (s.putSector n v).syncs = s.syncs := rfl
@[simp] theorem putSector_mesh (n : Nat) (v : W256) : (s.putSector n v).mesh = s.mesh := rfl
@[simp] theorem putSector_power (n : Nat) (v : W256) : (s.putSector n v).power = s.power := rfl
@[simp] theorem putSector_commit (n : Nat) (v : W256) : (s.putSector n v).commit = s.commit := rfl
@[simp] theorem putSector_repairs (n : Nat) (v : W256) : (s.putSector n v).repairs = s.repairs := rfl
@[simp] theorem putSector_stagedMesh (n : Nat) (v : W256) : (s.putSector n v).stagedMesh = s.stagedMesh := rfl
@[simp] theorem putSector_stagedLink (n : Nat) (v : W256) : (s.putSector n v).stagedLink = s.stagedLink := rfl
@[simp] theorem putSector_dieState (n : Nat) (v : W256) : (s.putSector n v).dieState = s.dieState := rfl
@[simp] theorem putSector_dieGen (n : Nat) (v : W256) : (s.putSector n v).dieGen = s.dieGen := rfl
@[simp] theorem putSector_clusters (n : Nat) (v : W256) : (s.putSector n v).clusters = s.clusters := rfl
@[simp] theorem putSector_windows (n : Nat) (v : W256) : (s.putSector n v).windows = s.windows := rfl
@[simp] theorem putSector_hosts (n : Nat) (v : W256) : (s.putSector n v).hosts = s.hosts := rfl
@[simp] theorem putSector_mgr (n : Nat) (v : W256) : (s.putSector n v).mgr = s.mgr := rfl
@[simp] theorem putSector_sec (n : Nat) (v : W256) : (s.putSector n v).sec = s.sec := rfl
@[simp] theorem putSector_i3c (n : Nat) (v : W256) : (s.putSector n v).i3c = s.i3c := rfl

/-! Fields after `setDie`. -/

@[simp] theorem setDie_pending (d n : Nat) : (s.setDie d n).pending = s.pending := rfl
@[simp] theorem setDie_time (d n : Nat) : (s.setDie d n).time = s.time := rfl
@[simp] theorem setDie_bootTime (d n : Nat) : (s.setDie d n).bootTime = s.bootTime := rfl
@[simp] theorem setDie_free (d n : Nat) : (s.setDie d n).free = s.free := rfl
@[simp] theorem setDie_ids (d n : Nat) : (s.setDie d n).ids = s.ids := rfl
@[simp] theorem setDie_regs (d n : Nat) : (s.setDie d n).regs = s.regs := rfl
@[simp] theorem setDie_staged (d n : Nat) : (s.setDie d n).staged = s.staged := rfl
@[simp] theorem setDie_swin (d n : Nat) : (s.setDie d n).swin = s.swin := rfl
@[simp] theorem setDie_mem (d n : Nat) : (s.setDie d n).mem = s.mem := rfl
@[simp] theorem setDie_poison (d n : Nat) : (s.setDie d n).poison = s.poison := rfl
@[simp] theorem setDie_cores (d n : Nat) : (s.setDie d n).cores = s.cores := rfl
@[simp] theorem setDie_slices (d n : Nat) : (s.setDie d n).slices = s.slices := rfl
@[simp] theorem setDie_halves (d n : Nat) : (s.setDie d n).halves = s.halves := rfl
@[simp] theorem setDie_nodes (d n : Nat) : (s.setDie d n).nodes = s.nodes := rfl
@[simp] theorem setDie_flight (d n : Nat) : (s.setDie d n).flight = s.flight := rfl
@[simp] theorem setDie_out (d n : Nat) : (s.setDie d n).out = s.out := rfl
@[simp] theorem setDie_unacked (d n : Nat) : (s.setDie d n).unacked = s.unacked := rfl
@[simp] theorem setDie_cycBase (d n : Nat) : (s.setDie d n).cycBase = s.cycBase := rfl
@[simp] theorem setDie_hostReads (d n : Nat) : (s.setDie d n).hostReads = s.hostReads := rfl
@[simp] theorem setDie_tags (d n : Nat) : (s.setDie d n).tags = s.tags := rfl
@[simp] theorem setDie_queues (d n : Nat) : (s.setDie d n).queues = s.queues := rfl
@[simp] theorem setDie_qfcIn (d n : Nat) : (s.setDie d n).qfcIn = s.qfcIn := rfl
@[simp] theorem setDie_remotes (d n : Nat) : (s.setDie d n).remotes = s.remotes := rfl
@[simp] theorem setDie_ports (d n : Nat) : (s.setDie d n).ports = s.ports := rfl
@[simp] theorem setDie_opids (d n : Nat) : (s.setDie d n).opids = s.opids := rfl
@[simp] theorem setDie_routes (d n : Nat) : (s.setDie d n).routes = s.routes := rfl
@[simp] theorem setDie_engines (d n : Nat) : (s.setDie d n).engines = s.engines := rfl
@[simp] theorem setDie_seen (d n : Nat) : (s.setDie d n).seen = s.seen := rfl
@[simp] theorem setDie_notices (d n : Nat) : (s.setDie d n).notices = s.notices := rfl
@[simp] theorem setDie_vetch (d n : Nat) : (s.setDie d n).vetch = s.vetch := rfl
@[simp] theorem setDie_errlog (d n : Nat) : (s.setDie d n).errlog = s.errlog := rfl
@[simp] theorem setDie_errSaved (d n : Nat) : (s.setDie d n).errSaved = s.errSaved := rfl
@[simp] theorem setDie_events (d n : Nat) : (s.setDie d n).events = s.events := rfl
@[simp] theorem setDie_sites (d n : Nat) : (s.setDie d n).sites = s.sites := rfl
@[simp] theorem setDie_reserves (d n : Nat) : (s.setDie d n).reserves = s.reserves := rfl
@[simp] theorem setDie_phase (d n : Nat) : (s.setDie d n).phase = s.phase := rfl
@[simp] theorem setDie_pins (d n : Nat) : (s.setDie d n).pins = s.pins := rfl
@[simp] theorem setDie_trips (d n : Nat) : (s.setDie d n).trips = s.trips := rfl
@[simp] theorem setDie_rlog (d n : Nat) : (s.setDie d n).rlog = s.rlog := rfl
@[simp] theorem setDie_syncs (d n : Nat) : (s.setDie d n).syncs = s.syncs := rfl
@[simp] theorem setDie_mesh (d n : Nat) : (s.setDie d n).mesh = s.mesh := rfl
@[simp] theorem setDie_power (d n : Nat) : (s.setDie d n).power = s.power := rfl
@[simp] theorem setDie_commit (d n : Nat) : (s.setDie d n).commit = s.commit := rfl
@[simp] theorem setDie_repairs (d n : Nat) : (s.setDie d n).repairs = s.repairs := rfl
@[simp] theorem setDie_stagedMesh (d n : Nat) : (s.setDie d n).stagedMesh = s.stagedMesh := rfl
@[simp] theorem setDie_stagedLink (d n : Nat) : (s.setDie d n).stagedLink = s.stagedLink := rfl
@[simp] theorem setDie_dieGen (d n : Nat) : (s.setDie d n).dieGen = s.dieGen := rfl
@[simp] theorem setDie_clusters (d n : Nat) : (s.setDie d n).clusters = s.clusters := rfl
@[simp] theorem setDie_windows (d n : Nat) : (s.setDie d n).windows = s.windows := rfl
@[simp] theorem setDie_hosts (d n : Nat) : (s.setDie d n).hosts = s.hosts := rfl
@[simp] theorem setDie_mgr (d n : Nat) : (s.setDie d n).mgr = s.mgr := rfl
@[simp] theorem setDie_sec (d n : Nat) : (s.setDie d n).sec = s.sec := rfl
@[simp] theorem setDie_i3c (d n : Nat) : (s.setDie d n).i3c = s.i3c := rfl

/-! Fields after `dieReset`. -/

@[simp] theorem dieReset_pending (d : Nat) : (s.dieReset d).pending = s.pending := rfl
@[simp] theorem dieReset_time (d : Nat) : (s.dieReset d).time = s.time := rfl
@[simp] theorem dieReset_bootTime (d : Nat) : (s.dieReset d).bootTime = s.bootTime := rfl
@[simp] theorem dieReset_free (d : Nat) : (s.dieReset d).free = s.free := rfl
@[simp] theorem dieReset_ids (d : Nat) : (s.dieReset d).ids = s.ids := rfl
@[simp] theorem dieReset_regs (d : Nat) : (s.dieReset d).regs = s.regs := rfl
@[simp] theorem dieReset_staged (d : Nat) : (s.dieReset d).staged = s.staged := rfl
@[simp] theorem dieReset_swin (d : Nat) : (s.dieReset d).swin = s.swin := rfl
@[simp] theorem dieReset_mem (d : Nat) : (s.dieReset d).mem = s.mem := rfl
@[simp] theorem dieReset_poison (d : Nat) : (s.dieReset d).poison = s.poison := rfl
@[simp] theorem dieReset_cores (d : Nat) : (s.dieReset d).cores = s.cores := rfl
@[simp] theorem dieReset_slices (d : Nat) : (s.dieReset d).slices = s.slices := rfl
@[simp] theorem dieReset_halves (d : Nat) : (s.dieReset d).halves = s.halves := rfl
@[simp] theorem dieReset_nodes (d : Nat) : (s.dieReset d).nodes = s.nodes := rfl
@[simp] theorem dieReset_flight (d : Nat) : (s.dieReset d).flight = s.flight := rfl
@[simp] theorem dieReset_out (d : Nat) : (s.dieReset d).out = s.out := rfl
@[simp] theorem dieReset_unacked (d : Nat) : (s.dieReset d).unacked = s.unacked := rfl
@[simp] theorem dieReset_cycBase (d : Nat) : (s.dieReset d).cycBase = s.cycBase := rfl
@[simp] theorem dieReset_hostReads (d : Nat) : (s.dieReset d).hostReads = s.hostReads := rfl
@[simp] theorem dieReset_tags (d : Nat) : (s.dieReset d).tags = s.tags := rfl
@[simp] theorem dieReset_queues (d : Nat) : (s.dieReset d).queues = s.queues := rfl
@[simp] theorem dieReset_qfcIn (d : Nat) : (s.dieReset d).qfcIn = s.qfcIn := rfl
@[simp] theorem dieReset_remotes (d : Nat) : (s.dieReset d).remotes = s.remotes := rfl
@[simp] theorem dieReset_ports (d : Nat) : (s.dieReset d).ports = s.ports := rfl
@[simp] theorem dieReset_opids (d : Nat) : (s.dieReset d).opids = s.opids := rfl
@[simp] theorem dieReset_routes (d : Nat) : (s.dieReset d).routes = s.routes := rfl
@[simp] theorem dieReset_engines (d : Nat) : (s.dieReset d).engines = s.engines := rfl
@[simp] theorem dieReset_seen (d : Nat) : (s.dieReset d).seen = s.seen := rfl
@[simp] theorem dieReset_notices (d : Nat) : (s.dieReset d).notices = s.notices := rfl
@[simp] theorem dieReset_vetch (d : Nat) : (s.dieReset d).vetch = s.vetch := rfl
@[simp] theorem dieReset_errlog (d : Nat) : (s.dieReset d).errlog = s.errlog := rfl
@[simp] theorem dieReset_errSaved (d : Nat) : (s.dieReset d).errSaved = s.errSaved := rfl
@[simp] theorem dieReset_events (d : Nat) : (s.dieReset d).events = s.events := rfl
@[simp] theorem dieReset_sites (d : Nat) : (s.dieReset d).sites = s.sites := rfl
@[simp] theorem dieReset_reserves (d : Nat) : (s.dieReset d).reserves = s.reserves := rfl
@[simp] theorem dieReset_phase (d : Nat) : (s.dieReset d).phase = s.phase := rfl
@[simp] theorem dieReset_pins (d : Nat) : (s.dieReset d).pins = s.pins := rfl
@[simp] theorem dieReset_trips (d : Nat) : (s.dieReset d).trips = s.trips := rfl
@[simp] theorem dieReset_rlog (d : Nat) : (s.dieReset d).rlog = s.rlog := rfl
@[simp] theorem dieReset_syncs (d : Nat) : (s.dieReset d).syncs = s.syncs := rfl
@[simp] theorem dieReset_mesh (d : Nat) : (s.dieReset d).mesh = s.mesh := rfl
@[simp] theorem dieReset_power (d : Nat) : (s.dieReset d).power = s.power := rfl
@[simp] theorem dieReset_commit (d : Nat) : (s.dieReset d).commit = s.commit := rfl
@[simp] theorem dieReset_repairs (d : Nat) : (s.dieReset d).repairs = s.repairs := rfl
@[simp] theorem dieReset_stagedMesh (d : Nat) : (s.dieReset d).stagedMesh = s.stagedMesh := rfl
@[simp] theorem dieReset_stagedLink (d : Nat) : (s.dieReset d).stagedLink = s.stagedLink := rfl
@[simp] theorem dieReset_dieState (d : Nat) : (s.dieReset d).dieState = s.dieState := rfl
@[simp] theorem dieReset_clusters (d : Nat) : (s.dieReset d).clusters = s.clusters := rfl
@[simp] theorem dieReset_windows (d : Nat) : (s.dieReset d).windows = s.windows := rfl
@[simp] theorem dieReset_hosts (d : Nat) : (s.dieReset d).hosts = s.hosts := rfl
@[simp] theorem dieReset_mgr (d : Nat) : (s.dieReset d).mgr = s.mgr := rfl
@[simp] theorem dieReset_sec (d : Nat) : (s.dieReset d).sec = s.sec := rfl
@[simp] theorem dieReset_i3c (d : Nat) : (s.dieReset d).i3c = s.i3c := rfl

/-! Fields after `putGroup`. -/

@[simp] theorem putGroup_pending (core slot : Nat) (g : Group) : (s.putGroup core slot g).pending = s.pending := rfl
@[simp] theorem putGroup_time (core slot : Nat) (g : Group) : (s.putGroup core slot g).time = s.time := rfl
@[simp] theorem putGroup_bootTime (core slot : Nat) (g : Group) : (s.putGroup core slot g).bootTime = s.bootTime := rfl
@[simp] theorem putGroup_free (core slot : Nat) (g : Group) : (s.putGroup core slot g).free = s.free := rfl
@[simp] theorem putGroup_ids (core slot : Nat) (g : Group) : (s.putGroup core slot g).ids = s.ids := rfl
@[simp] theorem putGroup_regs (core slot : Nat) (g : Group) : (s.putGroup core slot g).regs = s.regs := rfl
@[simp] theorem putGroup_staged (core slot : Nat) (g : Group) : (s.putGroup core slot g).staged = s.staged := rfl
@[simp] theorem putGroup_swin (core slot : Nat) (g : Group) : (s.putGroup core slot g).swin = s.swin := rfl
@[simp] theorem putGroup_mem (core slot : Nat) (g : Group) : (s.putGroup core slot g).mem = s.mem := rfl
@[simp] theorem putGroup_poison (core slot : Nat) (g : Group) : (s.putGroup core slot g).poison = s.poison := rfl
@[simp] theorem putGroup_slices (core slot : Nat) (g : Group) : (s.putGroup core slot g).slices = s.slices := rfl
@[simp] theorem putGroup_halves (core slot : Nat) (g : Group) : (s.putGroup core slot g).halves = s.halves := rfl
@[simp] theorem putGroup_nodes (core slot : Nat) (g : Group) : (s.putGroup core slot g).nodes = s.nodes := rfl
@[simp] theorem putGroup_flight (core slot : Nat) (g : Group) : (s.putGroup core slot g).flight = s.flight := rfl
@[simp] theorem putGroup_out (core slot : Nat) (g : Group) : (s.putGroup core slot g).out = s.out := rfl
@[simp] theorem putGroup_unacked (core slot : Nat) (g : Group) : (s.putGroup core slot g).unacked = s.unacked := rfl
@[simp] theorem putGroup_cycBase (core slot : Nat) (g : Group) : (s.putGroup core slot g).cycBase = s.cycBase := rfl
@[simp] theorem putGroup_hostReads (core slot : Nat) (g : Group) : (s.putGroup core slot g).hostReads = s.hostReads := rfl
@[simp] theorem putGroup_tags (core slot : Nat) (g : Group) : (s.putGroup core slot g).tags = s.tags := rfl
@[simp] theorem putGroup_queues (core slot : Nat) (g : Group) : (s.putGroup core slot g).queues = s.queues := rfl
@[simp] theorem putGroup_qfcIn (core slot : Nat) (g : Group) : (s.putGroup core slot g).qfcIn = s.qfcIn := rfl
@[simp] theorem putGroup_remotes (core slot : Nat) (g : Group) : (s.putGroup core slot g).remotes = s.remotes := rfl
@[simp] theorem putGroup_ports (core slot : Nat) (g : Group) : (s.putGroup core slot g).ports = s.ports := rfl
@[simp] theorem putGroup_opids (core slot : Nat) (g : Group) : (s.putGroup core slot g).opids = s.opids := rfl
@[simp] theorem putGroup_routes (core slot : Nat) (g : Group) : (s.putGroup core slot g).routes = s.routes := rfl
@[simp] theorem putGroup_engines (core slot : Nat) (g : Group) : (s.putGroup core slot g).engines = s.engines := rfl
@[simp] theorem putGroup_seen (core slot : Nat) (g : Group) : (s.putGroup core slot g).seen = s.seen := rfl
@[simp] theorem putGroup_notices (core slot : Nat) (g : Group) : (s.putGroup core slot g).notices = s.notices := rfl
@[simp] theorem putGroup_vetch (core slot : Nat) (g : Group) : (s.putGroup core slot g).vetch = s.vetch := rfl
@[simp] theorem putGroup_errlog (core slot : Nat) (g : Group) : (s.putGroup core slot g).errlog = s.errlog := rfl
@[simp] theorem putGroup_errSaved (core slot : Nat) (g : Group) : (s.putGroup core slot g).errSaved = s.errSaved := rfl
@[simp] theorem putGroup_events (core slot : Nat) (g : Group) : (s.putGroup core slot g).events = s.events := rfl
@[simp] theorem putGroup_sites (core slot : Nat) (g : Group) : (s.putGroup core slot g).sites = s.sites := rfl
@[simp] theorem putGroup_reserves (core slot : Nat) (g : Group) : (s.putGroup core slot g).reserves = s.reserves := rfl
@[simp] theorem putGroup_phase (core slot : Nat) (g : Group) : (s.putGroup core slot g).phase = s.phase := rfl
@[simp] theorem putGroup_pins (core slot : Nat) (g : Group) : (s.putGroup core slot g).pins = s.pins := rfl
@[simp] theorem putGroup_trips (core slot : Nat) (g : Group) : (s.putGroup core slot g).trips = s.trips := rfl
@[simp] theorem putGroup_rlog (core slot : Nat) (g : Group) : (s.putGroup core slot g).rlog = s.rlog := rfl
@[simp] theorem putGroup_syncs (core slot : Nat) (g : Group) : (s.putGroup core slot g).syncs = s.syncs := rfl
@[simp] theorem putGroup_mesh (core slot : Nat) (g : Group) : (s.putGroup core slot g).mesh = s.mesh := rfl
@[simp] theorem putGroup_power (core slot : Nat) (g : Group) : (s.putGroup core slot g).power = s.power := rfl
@[simp] theorem putGroup_commit (core slot : Nat) (g : Group) : (s.putGroup core slot g).commit = s.commit := rfl
@[simp] theorem putGroup_repairs (core slot : Nat) (g : Group) : (s.putGroup core slot g).repairs = s.repairs := rfl
@[simp] theorem putGroup_stagedMesh (core slot : Nat) (g : Group) : (s.putGroup core slot g).stagedMesh = s.stagedMesh := rfl
@[simp] theorem putGroup_stagedLink (core slot : Nat) (g : Group) : (s.putGroup core slot g).stagedLink = s.stagedLink := rfl
@[simp] theorem putGroup_dieState (core slot : Nat) (g : Group) : (s.putGroup core slot g).dieState = s.dieState := rfl
@[simp] theorem putGroup_dieGen (core slot : Nat) (g : Group) : (s.putGroup core slot g).dieGen = s.dieGen := rfl
@[simp] theorem putGroup_clusters (core slot : Nat) (g : Group) : (s.putGroup core slot g).clusters = s.clusters := rfl
@[simp] theorem putGroup_windows (core slot : Nat) (g : Group) : (s.putGroup core slot g).windows = s.windows := rfl
@[simp] theorem putGroup_hosts (core slot : Nat) (g : Group) : (s.putGroup core slot g).hosts = s.hosts := rfl
@[simp] theorem putGroup_mgr (core slot : Nat) (g : Group) : (s.putGroup core slot g).mgr = s.mgr := rfl
@[simp] theorem putGroup_sec (core slot : Nat) (g : Group) : (s.putGroup core slot g).sec = s.sec := rfl
@[simp] theorem putGroup_i3c (core slot : Nat) (g : Group) : (s.putGroup core slot g).i3c = s.i3c := rfl

/-! Fields after `putBlock`. -/

@[simp] theorem putBlock_pending (core n : Nat) (b : Block) : (s.putBlock core n b).pending = s.pending := rfl
@[simp] theorem putBlock_time (core n : Nat) (b : Block) : (s.putBlock core n b).time = s.time := rfl
@[simp] theorem putBlock_bootTime (core n : Nat) (b : Block) : (s.putBlock core n b).bootTime = s.bootTime := rfl
@[simp] theorem putBlock_free (core n : Nat) (b : Block) : (s.putBlock core n b).free = s.free := rfl
@[simp] theorem putBlock_ids (core n : Nat) (b : Block) : (s.putBlock core n b).ids = s.ids := rfl
@[simp] theorem putBlock_regs (core n : Nat) (b : Block) : (s.putBlock core n b).regs = s.regs := rfl
@[simp] theorem putBlock_staged (core n : Nat) (b : Block) : (s.putBlock core n b).staged = s.staged := rfl
@[simp] theorem putBlock_swin (core n : Nat) (b : Block) : (s.putBlock core n b).swin = s.swin := rfl
@[simp] theorem putBlock_mem (core n : Nat) (b : Block) : (s.putBlock core n b).mem = s.mem := rfl
@[simp] theorem putBlock_poison (core n : Nat) (b : Block) : (s.putBlock core n b).poison = s.poison := rfl
@[simp] theorem putBlock_slices (core n : Nat) (b : Block) : (s.putBlock core n b).slices = s.slices := rfl
@[simp] theorem putBlock_halves (core n : Nat) (b : Block) : (s.putBlock core n b).halves = s.halves := rfl
@[simp] theorem putBlock_nodes (core n : Nat) (b : Block) : (s.putBlock core n b).nodes = s.nodes := rfl
@[simp] theorem putBlock_flight (core n : Nat) (b : Block) : (s.putBlock core n b).flight = s.flight := rfl
@[simp] theorem putBlock_out (core n : Nat) (b : Block) : (s.putBlock core n b).out = s.out := rfl
@[simp] theorem putBlock_unacked (core n : Nat) (b : Block) : (s.putBlock core n b).unacked = s.unacked := rfl
@[simp] theorem putBlock_cycBase (core n : Nat) (b : Block) : (s.putBlock core n b).cycBase = s.cycBase := rfl
@[simp] theorem putBlock_hostReads (core n : Nat) (b : Block) : (s.putBlock core n b).hostReads = s.hostReads := rfl
@[simp] theorem putBlock_tags (core n : Nat) (b : Block) : (s.putBlock core n b).tags = s.tags := rfl
@[simp] theorem putBlock_queues (core n : Nat) (b : Block) : (s.putBlock core n b).queues = s.queues := rfl
@[simp] theorem putBlock_qfcIn (core n : Nat) (b : Block) : (s.putBlock core n b).qfcIn = s.qfcIn := rfl
@[simp] theorem putBlock_remotes (core n : Nat) (b : Block) : (s.putBlock core n b).remotes = s.remotes := rfl
@[simp] theorem putBlock_ports (core n : Nat) (b : Block) : (s.putBlock core n b).ports = s.ports := rfl
@[simp] theorem putBlock_opids (core n : Nat) (b : Block) : (s.putBlock core n b).opids = s.opids := rfl
@[simp] theorem putBlock_routes (core n : Nat) (b : Block) : (s.putBlock core n b).routes = s.routes := rfl
@[simp] theorem putBlock_engines (core n : Nat) (b : Block) : (s.putBlock core n b).engines = s.engines := rfl
@[simp] theorem putBlock_seen (core n : Nat) (b : Block) : (s.putBlock core n b).seen = s.seen := rfl
@[simp] theorem putBlock_notices (core n : Nat) (b : Block) : (s.putBlock core n b).notices = s.notices := rfl
@[simp] theorem putBlock_vetch (core n : Nat) (b : Block) : (s.putBlock core n b).vetch = s.vetch := rfl
@[simp] theorem putBlock_errlog (core n : Nat) (b : Block) : (s.putBlock core n b).errlog = s.errlog := rfl
@[simp] theorem putBlock_errSaved (core n : Nat) (b : Block) : (s.putBlock core n b).errSaved = s.errSaved := rfl
@[simp] theorem putBlock_events (core n : Nat) (b : Block) : (s.putBlock core n b).events = s.events := rfl
@[simp] theorem putBlock_sites (core n : Nat) (b : Block) : (s.putBlock core n b).sites = s.sites := rfl
@[simp] theorem putBlock_reserves (core n : Nat) (b : Block) : (s.putBlock core n b).reserves = s.reserves := rfl
@[simp] theorem putBlock_phase (core n : Nat) (b : Block) : (s.putBlock core n b).phase = s.phase := rfl
@[simp] theorem putBlock_pins (core n : Nat) (b : Block) : (s.putBlock core n b).pins = s.pins := rfl
@[simp] theorem putBlock_trips (core n : Nat) (b : Block) : (s.putBlock core n b).trips = s.trips := rfl
@[simp] theorem putBlock_rlog (core n : Nat) (b : Block) : (s.putBlock core n b).rlog = s.rlog := rfl
@[simp] theorem putBlock_syncs (core n : Nat) (b : Block) : (s.putBlock core n b).syncs = s.syncs := rfl
@[simp] theorem putBlock_mesh (core n : Nat) (b : Block) : (s.putBlock core n b).mesh = s.mesh := rfl
@[simp] theorem putBlock_power (core n : Nat) (b : Block) : (s.putBlock core n b).power = s.power := rfl
@[simp] theorem putBlock_commit (core n : Nat) (b : Block) : (s.putBlock core n b).commit = s.commit := rfl
@[simp] theorem putBlock_repairs (core n : Nat) (b : Block) : (s.putBlock core n b).repairs = s.repairs := rfl
@[simp] theorem putBlock_stagedMesh (core n : Nat) (b : Block) : (s.putBlock core n b).stagedMesh = s.stagedMesh := rfl
@[simp] theorem putBlock_stagedLink (core n : Nat) (b : Block) : (s.putBlock core n b).stagedLink = s.stagedLink := rfl
@[simp] theorem putBlock_dieState (core n : Nat) (b : Block) : (s.putBlock core n b).dieState = s.dieState := rfl
@[simp] theorem putBlock_dieGen (core n : Nat) (b : Block) : (s.putBlock core n b).dieGen = s.dieGen := rfl
@[simp] theorem putBlock_clusters (core n : Nat) (b : Block) : (s.putBlock core n b).clusters = s.clusters := rfl
@[simp] theorem putBlock_windows (core n : Nat) (b : Block) : (s.putBlock core n b).windows = s.windows := rfl
@[simp] theorem putBlock_hosts (core n : Nat) (b : Block) : (s.putBlock core n b).hosts = s.hosts := rfl
@[simp] theorem putBlock_mgr (core n : Nat) (b : Block) : (s.putBlock core n b).mgr = s.mgr := rfl
@[simp] theorem putBlock_sec (core n : Nat) (b : Block) : (s.putBlock core n b).sec = s.sec := rfl
@[simp] theorem putBlock_i3c (core n : Nat) (b : Block) : (s.putBlock core n b).i3c = s.i3c := rfl

/-! Fields after `send`: a message enters the network, or is held at a quiesced interface. -/

@[simp] theorem send_pending (i : Instr) : (s.send i).pending = s.pending := by unfold State.send; split <;> rfl
@[simp] theorem send_time (i : Instr) : (s.send i).time = s.time := by unfold State.send; split <;> rfl
@[simp] theorem send_bootTime (i : Instr) : (s.send i).bootTime = s.bootTime := by unfold State.send; split <;> rfl
@[simp] theorem send_free (i : Instr) : (s.send i).free = s.free := by unfold State.send; split <;> rfl
@[simp] theorem send_ids (i : Instr) : (s.send i).ids = s.ids := by unfold State.send; split <;> rfl
@[simp] theorem send_regs (i : Instr) : (s.send i).regs = s.regs := by unfold State.send; split <;> rfl
@[simp] theorem send_staged (i : Instr) : (s.send i).staged = s.staged := by unfold State.send; split <;> rfl
@[simp] theorem send_swin (i : Instr) : (s.send i).swin = s.swin := by unfold State.send; split <;> rfl
@[simp] theorem send_mem (i : Instr) : (s.send i).mem = s.mem := by unfold State.send; split <;> rfl
@[simp] theorem send_poison (i : Instr) : (s.send i).poison = s.poison := by unfold State.send; split <;> rfl
@[simp] theorem send_cores (i : Instr) : (s.send i).cores = s.cores := by unfold State.send; split <;> rfl
@[simp] theorem send_slices (i : Instr) : (s.send i).slices = s.slices := by unfold State.send; split <;> rfl
@[simp] theorem send_halves (i : Instr) : (s.send i).halves = s.halves := by unfold State.send; split <;> rfl
@[simp] theorem send_nodes (i : Instr) : (s.send i).nodes = s.nodes := by unfold State.send; split <;> rfl
@[simp] theorem send_out (i : Instr) : (s.send i).out = s.out := by unfold State.send; split <;> rfl
@[simp] theorem send_unacked (i : Instr) : (s.send i).unacked = s.unacked := by unfold State.send; split <;> rfl
@[simp] theorem send_cycBase (i : Instr) : (s.send i).cycBase = s.cycBase := by unfold State.send; split <;> rfl
@[simp] theorem send_hostReads (i : Instr) : (s.send i).hostReads = s.hostReads := by unfold State.send; split <;> rfl
@[simp] theorem send_tags (i : Instr) : (s.send i).tags = s.tags := by unfold State.send; split <;> rfl
@[simp] theorem send_queues (i : Instr) : (s.send i).queues = s.queues := by unfold State.send; split <;> rfl
@[simp] theorem send_qfcIn (i : Instr) : (s.send i).qfcIn = s.qfcIn := by unfold State.send; split <;> rfl
@[simp] theorem send_remotes (i : Instr) : (s.send i).remotes = s.remotes := by unfold State.send; split <;> rfl
@[simp] theorem send_ports (i : Instr) : (s.send i).ports = s.ports := by unfold State.send; split <;> rfl
@[simp] theorem send_opids (i : Instr) : (s.send i).opids = s.opids := by unfold State.send; split <;> rfl
@[simp] theorem send_routes (i : Instr) : (s.send i).routes = s.routes := by unfold State.send; split <;> rfl
@[simp] theorem send_engines (i : Instr) : (s.send i).engines = s.engines := by unfold State.send; split <;> rfl
@[simp] theorem send_seen (i : Instr) : (s.send i).seen = s.seen := by unfold State.send; split <;> rfl
@[simp] theorem send_notices (i : Instr) : (s.send i).notices = s.notices := by unfold State.send; split <;> rfl
@[simp] theorem send_vetch (i : Instr) : (s.send i).vetch = s.vetch := by unfold State.send; split <;> rfl
@[simp] theorem send_errlog (i : Instr) : (s.send i).errlog = s.errlog := by unfold State.send; split <;> rfl
@[simp] theorem send_errSaved (i : Instr) : (s.send i).errSaved = s.errSaved := by unfold State.send; split <;> rfl
@[simp] theorem send_events (i : Instr) : (s.send i).events = s.events := by unfold State.send; split <;> rfl
@[simp] theorem send_sites (i : Instr) : (s.send i).sites = s.sites := by unfold State.send; split <;> rfl
@[simp] theorem send_reserves (i : Instr) : (s.send i).reserves = s.reserves := by unfold State.send; split <;> rfl
@[simp] theorem send_phase (i : Instr) : (s.send i).phase = s.phase := by unfold State.send; split <;> rfl
@[simp] theorem send_pins (i : Instr) : (s.send i).pins = s.pins := by unfold State.send; split <;> rfl
@[simp] theorem send_trips (i : Instr) : (s.send i).trips = s.trips := by unfold State.send; split <;> rfl
@[simp] theorem send_rlog (i : Instr) : (s.send i).rlog = s.rlog := by unfold State.send; split <;> rfl
@[simp] theorem send_syncs (i : Instr) : (s.send i).syncs = s.syncs := by unfold State.send; split <;> rfl
@[simp] theorem send_power (i : Instr) : (s.send i).power = s.power := by unfold State.send; split <;> rfl
@[simp] theorem send_commit (i : Instr) : (s.send i).commit = s.commit := by unfold State.send; split <;> rfl
@[simp] theorem send_repairs (i : Instr) : (s.send i).repairs = s.repairs := by unfold State.send; split <;> rfl
@[simp] theorem send_stagedMesh (i : Instr) : (s.send i).stagedMesh = s.stagedMesh := by unfold State.send; split <;> rfl
@[simp] theorem send_stagedLink (i : Instr) : (s.send i).stagedLink = s.stagedLink := by unfold State.send; split <;> rfl
@[simp] theorem send_dieState (i : Instr) : (s.send i).dieState = s.dieState := by unfold State.send; split <;> rfl
@[simp] theorem send_dieGen (i : Instr) : (s.send i).dieGen = s.dieGen := by unfold State.send; split <;> rfl
@[simp] theorem send_clusters (i : Instr) : (s.send i).clusters = s.clusters := by unfold State.send; split <;> rfl
@[simp] theorem send_windows (i : Instr) : (s.send i).windows = s.windows := by unfold State.send; split <;> rfl
@[simp] theorem send_hosts (i : Instr) : (s.send i).hosts = s.hosts := by unfold State.send; split <;> rfl
@[simp] theorem send_mgr (i : Instr) : (s.send i).mgr = s.mgr := by unfold State.send; split <;> rfl
@[simp] theorem send_sec (i : Instr) : (s.send i).sec = s.sec := by unfold State.send; split <;> rfl
@[simp] theorem send_i3c (i : Instr) : (s.send i).i3c = s.i3c := by unfold State.send; split <;> rfl

/-! What a table holds after an update at the same number and at another. -/

@[simp] theorem slice_putSlice_same (n : Nat) (x : Slice) : (s.putSlice n x).slice n = x := by simp [State.slice, State.putSlice]
theorem slice_putSlice_other {n m : Nat} (x : Slice) (h : m ≠ n) : (s.putSlice n x).slice m = s.slice m := by
  simp [State.slice, State.putSlice, NMap.find?_put_other _ _ h]
@[simp] theorem half_putHalf_same (n : Nat) (x : Half) : (s.putHalf n x).half n = x := by simp [State.half, State.putHalf]
theorem half_putHalf_other {n m : Nat} (x : Half) (h : m ≠ n) : (s.putHalf n x).half m = s.half m := by
  simp [State.half, State.putHalf, NMap.find?_put_other _ _ h]
@[simp] theorem node_putNode_same (n : Nat) (x : Node) : (s.putNode n x).node n = x := by simp [State.node, State.putNode]
theorem node_putNode_other {n m : Nat} (x : Node) (h : m ≠ n) : (s.putNode n x).node m = s.node m := by
  simp [State.node, State.putNode, NMap.find?_put_other _ _ h]
@[simp] theorem queue_putQueue_same (n : Nat) (x : Queue) : (s.putQueue n x).queue n = x := by simp [State.queue, State.putQueue]
theorem queue_putQueue_other {n m : Nat} (x : Queue) (h : m ≠ n) : (s.putQueue n x).queue m = s.queue m := by
  simp [State.queue, State.putQueue, NMap.find?_put_other _ _ h]
@[simp] theorem vetchOf_putVetch_same (n : Nat) (x : Vetch) : (s.putVetch n x).vetchOf n = x := by simp [State.vetchOf, State.putVetch]
theorem vetchOf_putVetch_other {n m : Nat} (x : Vetch) (h : m ≠ n) : (s.putVetch n x).vetchOf m = s.vetchOf m := by
  simp [State.vetchOf, State.putVetch, NMap.find?_put_other _ _ h]
@[simp] theorem engineOf_putEngine_same (n : Nat) (x : LinkEngine) : (s.putEngine n x).engineOf n = x := by simp [State.engineOf, State.putEngine]
theorem engineOf_putEngine_other {n m : Nat} (x : LinkEngine) (h : m ≠ n) : (s.putEngine n x).engineOf m = s.engineOf m := by
  simp [State.engineOf, State.putEngine, NMap.find?_put_other _ _ h]
@[simp] theorem portSt_putPort_same (n : Nat) (x : Port) : (s.putPort n x).portSt n = x := by simp [State.portSt, State.putPort]
theorem portSt_putPort_other {n m : Nat} (x : Port) (h : m ≠ n) : (s.putPort n x).portSt m = s.portSt m := by
  simp [State.portSt, State.putPort, NMap.find?_put_other _ _ h]
@[simp] theorem host_putHost_same (n : Nat) (x : HostPort) : (s.putHost n x).host n = x := by simp [State.host, State.putHost]
theorem host_putHost_other {n m : Nat} (x : HostPort) (h : m ≠ n) : (s.putHost n x).host m = s.host m := by
  simp [State.host, State.putHost, NMap.find?_put_other _ _ h]
@[simp] theorem halfPower_putHalfPower_same (n : Nat) (x : HalfPower) : (s.putHalfPower n x).halfPower n = x := by simp [State.halfPower, State.putHalfPower]
theorem halfPower_putHalfPower_other {n m : Nat} (x : HalfPower) (h : m ≠ n) : (s.putHalfPower n x).halfPower m = s.halfPower m := by
  simp [State.halfPower, State.putHalfPower, NMap.find?_put_other _ _ h]
@[simp] theorem diePower_putDiePower_same (n : Nat) (x : DiePower) : (s.putDiePower n x).diePower n = x := by simp [State.diePower, State.putDiePower]
theorem diePower_putDiePower_other {n m : Nat} (x : DiePower) (h : m ≠ n) : (s.putDiePower n x).diePower m = s.diePower m := by
  simp [State.diePower, State.putDiePower, NMap.find?_put_other _ _ h]
@[simp] theorem cluster_putCluster_same (n : Nat) (x : Cluster) : (s.putCluster n x).cluster n = x := by simp [State.cluster, State.putCluster]
theorem cluster_putCluster_other {n m : Nat} (x : Cluster) (h : m ≠ n) : (s.putCluster n x).cluster m = s.cluster m := by
  simp [State.cluster, State.putCluster, NMap.find?_put_other _ _ h]

/-! Registers: a register after a write of it, of another, and a field after a write of the same or of a disjoint field. -/

@[simp] theorem reg_setReg_same (a v : Nat) : (s.setReg a v).reg a = v % 2 ^ 64 := by simp [State.reg, State.setReg]
theorem reg_setReg_other {a b : Nat} (v : Nat) (h : b ≠ a) : (s.setReg a v).reg b = s.reg b := by
  simp [State.reg, State.setReg, NMap.find?_put_other _ _ h]
theorem reg_lt (a : Nat) : s.reg a < 2 ^ 64 := BitVec.isLt _
theorem reg_setFld_other {a b : Nat} (lo w x : Nat) (h : b ≠ a) : (s.setFld a lo w x).reg b = s.reg b := reg_setReg_other s _ h
theorem reg_setFld_same (a lo w x : Nat) (h : lo + w ≤ 64) : (s.setFld a lo w x).reg a = setBits (s.reg a) lo w x := by
  rw [State.setFld, reg_setReg_same, Nat.mod_eq_of_lt (setBits_lt _ _ _ _ _ (reg_lt s a) h)]
theorem fld_setFld_other {a b : Nat} (lo w x lo' w' : Nat) (h : b ≠ a) : (s.setFld a lo w x).fld b lo' w' = s.fld b lo' w' := by
  simp [State.fld, reg_setFld_other s _ _ _ h]
theorem fld_setFld_same (a lo w x : Nat) (h : lo + w ≤ 64) : (s.setFld a lo w x).fld a lo w = x % 2 ^ w := by
  simp [State.fld, reg_setFld_same s _ _ _ _ h]
theorem fld_setFld_above (a lo w x lo' w' : Nat) (h : lo + w ≤ 64) (h' : lo + w ≤ lo') : (s.setFld a lo w x).fld a lo' w' = s.fld a lo' w' := by
  simp [State.fld, reg_setFld_same s _ _ _ _ h, bits_setBits_above _ _ _ _ _ _ h']
theorem fld_setFld_below (a lo w x lo' w' : Nat) (h : lo + w ≤ 64) (h' : lo' + w' ≤ lo) : (s.setFld a lo w x).fld a lo' w' = s.fld a lo' w' := by
  simp [State.fld, reg_setFld_same s _ _ _ _ h, bits_setBits_below _ _ _ _ _ _ h']
theorem sreg_setSreg_same (sl o v : Nat) : (s.setSreg sl o v).sreg sl o = v % 2 ^ 64 := by simp [State.sreg, State.setSreg]
theorem sreg_setSreg_other {sl o sl' o' : Nat} (v : Nat) (h : sl' * 0x10000 + o' ≠ sl * 0x10000 + o) :
    (s.setSreg sl o v).sreg sl' o' = s.sreg sl' o' := by
  simp [State.sreg, State.setSreg, NMap.get_set_other _ _ _ h]

end Sys2Proof.Machine
end

