-- ==== Sys2Proof/Laws/Shared.lean ====
section
/-! SUPPORT. What the operations that several families share can do: the network, free values, reports, memory. -/

namespace Sys2Proof.Machine

variable (s : State)

/-- A message that has not arrived changes nothing; one that has leaves the network and acts. -/
theorem onNet_cases (i : Instr) (f : State → State) :
    (s.arrives i = false ∧ s.onNet i f = s) ∨ (s.arrives i = true ∧ s.onNet i f = f (s.take i)) := by
  unfold State.onNet
  split
  · next h => exact .inr ⟨h, rfl⟩
  · next h => exact .inl ⟨by simpa using h, rfl⟩

/-- A message that is not a request of a quiesced interface enters the network at its end. -/
theorem send_open (i : Instr) (h : isReq i = false ∨ s.fld 0x700000 0 2 = 0) :
    s.send i = { s with flight := { s.flight with net := s.flight.net ++ [i] } } := by
  unfold State.send
  rcases h with h | h <;> simp [h]

/-- Taking a free value advances the counter alone. -/
theorem freely_spec (k : Nat) : s.freely k = (Config.freeValue k s.free, { s with free := s.free + 1 }) := rfl

/-- A fresh number is one that was not given before. -/
theorem fresh_spec : s.fresh = (s.ids, { s with ids := s.ids + 1 }) := rfl

/-- A PF0 vector goes out at the owner's port, or at both ports; nothing else changes. -/
theorem pf0_cases (v : Nat) : ∃ o, s.pf0 v = { s with out := s.out ++ o } := by
  unfold State.pf0
  split
  · exact ⟨_, rfl⟩
  · exact ⟨[.msix 0 0 v 0, .msix 1 0 v 0], by simp [State.emit]⟩

/-- ALERT changes the error status register alone. -/
theorem alert_cases : ∃ r, s.alert = { s with regs := r } := ⟨_, rfl⟩

/-- An error record joins the log as its newest, of which 4,096 stay (R546); beside it only the log's copy in flash, what is sent, and
registers change. -/
theorem record_cases (r : Rec) : ∃ sv o g,
    s.record r = { s with errlog := (s.recWords r :: s.errlog).take 4096, errSaved := sv, out := o, regs := g } := by
  unfold State.record
  dsimp only
  generalize hz : (State.setReg _ (aErr 8) _) = z
  have h0 : ∃ g, z = { s with errlog := (s.recWords r :: s.errlog).take 4096, regs := g } := ⟨_, hz.symm⟩
  obtain ⟨g0, rfl⟩ := h0
  clear hz
  by_cases h1 : (decide (1 ≤ r.sev) && decide (r.sev ≤ 5)) = true
  · rw [if_pos h1]
    obtain ⟨o, ho⟩ := pf0_cases { s with errlog := (s.recWords r :: s.errlog).take 4096, regs := g0 } 2
    rw [ho]
    by_cases h4 : r.sev = 4
    · simp only [h4, if_true]; exact ⟨_, _, _, rfl⟩
    · rw [if_neg h4]
      split
      · exact ⟨_, _, _, rfl⟩
      · exact ⟨_, _, _, rfl⟩
  · rw [if_neg h1]
    by_cases h4 : r.sev = 4
    · simp only [h4, if_true]; exact ⟨_, _, _, rfl⟩
    · rw [if_neg h4]
      split
      · exact ⟨_, _, _, rfl⟩
      · exact ⟨_, _, _, rfl⟩

theorem record_mem (r : Rec) : (s.record r).mem = s.mem := by obtain ⟨_, _, _, h⟩ := record_cases s r; rw [h]
theorem record_pending (r : Rec) : (s.record r).pending = s.pending := by obtain ⟨_, _, _, h⟩ := record_cases s r; rw [h]
theorem record_time (r : Rec) : (s.record r).time = s.time := by obtain ⟨_, _, _, h⟩ := record_cases s r; rw [h]
theorem record_cores (r : Rec) : (s.record r).cores = s.cores := by obtain ⟨_, _, _, h⟩ := record_cases s r; rw [h]
theorem record_free (r : Rec) : (s.record r).free = s.free := by obtain ⟨_, _, _, h⟩ := record_cases s r; rw [h]

/-- An access to an address that no node backs is reported at one node's registers alone (R285). -/
theorem unbackedAt_frame (pa : Nat) : { s.unbackedAt pa with regs := s.regs } = s := rfl

/-- A completion event joins the events of its port, and vector 1 is sent (R544). -/
theorem mgtEvent_frame (p op st arg : Nat) : { s.mgtEvent p op st arg with events := s.events, out := s.out } = s := rfl

/-- What a core holds after blocks are dropped: no block, group or operation of those named. -/
theorem dropBlocks_blocks (c : Core) (p : Block → Bool) (n : Nat) (b : Block) (h : (n, b) ∈ (c.dropBlocks p).blocks) : p b = false := by
  simp only [Core.dropBlocks, List.mem_filter] at h
  obtain ⟨hb, hn⟩ := h
  cases hp : p b with
  | false => rfl
  | true =>
    exfalso
    have : n ∈ (List.filter (fun (b : Nat × Block) => p b.2) c.blocks).map (·.1) :=
      List.mem_map.mpr ⟨(n, b), List.mem_filter.mpr ⟨hb, hp⟩, rfl⟩
    simp [this] at hn

/-- Charging a block touches its charge, its slice's counters and its cluster's virtual times alone. -/
theorem chargeBlock_cases (core slot : Nat) (b : Block) : ∃ c sl w cl,
    s.chargeBlock core slot b = { s with cores := c, slices := sl, swin := w, clusters := cl } := by
  unfold State.chargeBlock
  dsimp only
  split
  · exact ⟨_, _, _, _, rfl⟩
  · split
    · exact ⟨_, _, _, _, rfl⟩
    · exact ⟨_, _, _, _, rfl⟩

theorem foldV_cases {α : Type} (P : State → Prop) (f : State → Nat → α → State) (hf : ∀ s k v, P s → P (f s k v)) (m : NMap α) (s : State)
    (h : P s) : P (NMap.foldV m s f) := by
  unfold NMap.foldV
  induction m generalizing s with
  | nil => exact h
  | cons x m ih => exact ih _ (hf _ _ _ h)

/-- Dropping blocks touches the cores, their charges and the waits of queues alone. -/
theorem dropBlocks_cases (p : Block → Bool) : ∃ c sl w cl q,
    s.dropBlocks p = { s with cores := c, slices := sl, swin := w, clusters := cl, queues := q } := by
  have h : ∃ c sl w cl, NMap.foldV s.cores s (fun s core c => NMap.foldV c.blocks s fun s slot b => if p b then s.chargeBlock core slot b else s) =
      { s with cores := c, slices := sl, swin := w, clusters := cl } := by
    refine foldV_cases (fun t : State => ∃ c sl w cl, t = { s with cores := c, slices := sl, swin := w, clusters := cl }) _ ?_ s.cores s ⟨_, _, _, _, rfl⟩
    intro t core v ht
    refine foldV_cases (fun t : State => ∃ c sl w cl, t = { s with cores := c, slices := sl, swin := w, clusters := cl }) _ ?_ v.blocks t ht
    rintro t k b ⟨c, sl, w, cl, rfl⟩
    split
    · obtain ⟨c', sl', w', cl', h'⟩ := chargeBlock_cases { s with cores := c, slices := sl, swin := w, clusters := cl } core k b
      exact ⟨c', sl', w', cl', h'⟩
    · exact ⟨c, sl, w, cl, rfl⟩
  obtain ⟨c, sl, w, cl, hc⟩ := h
  unfold State.dropBlocks
  rw [hc]
  exact ⟨_, _, _, _, _, rfl⟩

/-! Every write of memory keeps its canonical form. -/

theorem putSector_wf (n : Nat) (v : W256) (h : s.mem.wf = true) : (s.putSector n v).mem.wf = true := Mem.wf_writeLE _ _ _ _ h

theorem updLine_mem (h line : Nat) (f : Line → Line) : (s.updLine h line f).mem = s.mem := by
  unfold State.updLine
  dsimp only
  split <;> rfl

theorem lineWrite_wf (h line ofs n v : Nat) (hw : s.mem.wf = true) : (s.lineWrite h line ofs n v).mem.wf = true := by
  unfold State.lineWrite
  split
  · exact Mem.wf_writeLE _ _ _ _ hw
  · rw [updLine_mem]; exact hw

/-- A cached line of another address or half is as before. -/
theorem updLine_half_other {h k : Nat} (line : Nat) (f : Line → Line) (hk : k ≠ h) : (s.updLine h line f).half k = s.half k := by
  unfold State.updLine
  dsimp only
  split
  · exact half_putHalf_other s _ hk
  · rfl

end Sys2Proof.Machine
end

