-- ==== Sys2Proof/Safety.lean ====
section
/-! DEFINITION. What counts as a safe outcome: the machine went on. -/

namespace Sys2Proof.Machine

/-- A run is safe where every step answers a next state. -/
def Safe (o : Host.Outcome State Fault Refusal) : Prop := ∃ s, o = .next s

end Sys2Proof.Machine
end

