-- ==== Sys2Proof/Tests/Slice0.lean ====
section
/-! SUPPORT. Tests: terms that the well-formedness check refuses; words of the Lamiz encoding; for every statement and every clause of it
a state and operands that meet its hypotheses (test_meets_…). -/

namespace Sys2Proof.Tests

open Sys2Proof Sys2Proof.Machine

set_option maxRecDepth 8000
set_option Elab.async false

/-- A running path of some lanes. -/
def path (pc : Nat) (m : W32) (w : Wait) : Ent := .path { pc := pc, mask := m, wait := w, since := 0, point := none, fence := none }
/-- A group whose current path is in entry 0, with all lanes. -/
def grp : Group :=
  { block := 0, index := 0, u := [], q := [], d := [], k := [], v := [], ents := [(0, path 0x100 allLanes .run)], cur := 0, turn := 0, loop := false,
    clock := 1, exited := 0, ops := [] }
/-- A resident block of one group in slice 0 with 64 vector registers and 64 KiB of local storage. -/
def blk : Block :=
  { slice := 0, gen := 0, stream := 0, task := 0, taskNo := 0, index := 0, count := 1, g := 1, v := 64, l := 64, code := 0x100, args := 0, seed := 0,
    loc := [], acc := [], arrive := [], async := 0, saving := false, charged := 0 }
/-- A core with that block and group. -/
def cor : Core := { Core.init with blocks := [(0, blk)], groups := [(0, grp)] }
/-- A page of the slice's own memory at slice-virtual address 0. -/
def page : Page := { size := 0x40000000, tgt := .own 0, ro := false, policy := 0, cls := 0 }
/-- Slice 0 on port 0 with one page. -/
def sl0 : Slice := { Slice.init with pages := [(0, page)] }
/-- The module with slice 0 and a core 0. -/
def stCore (c : Core) : State := { State.reset with regs := [(0x200000, 1), (0x2100008, 1)], cores := [(0, c)], slices := [(0, sl0)] }
def stGrp (g : Group) : State := stCore { cor with groups := [(0, g)] }
def stBase : State := stGrp grp
def at0 : Site := ⟨0, 0⟩
/-- What an instruction at that place sees. -/
def ctxOf (c : Core) (g : Group) : Ctx :=
  { core := 0, slot := 0, c := c, b := blk, g := g, p := { pc := 0x100, mask := allLanes, wait := .run, since := 0, point := none, fence := none } }
def ctxG (g : Group) : Ctx := ctxOf { cor with groups := [(0, g)] } g
def ctx0 : Ctx := ctxG grp
def h0 : Hdr := { pg := false, pn := false, pq := 0, res := 0 }

def wVV (ty dst : Nat) : VV :=
  { h := h0, dst := BitVec.ofNat 8 dst, a := 0, b := 0, c := 0, ty := BitVec.ofNat 4 ty, rnd := 0, sat := false, na := false, nc := false, ub := false, aa := false }
def wVI (ty dst : Nat) : VI := { h := h0, dst := BitVec.ofNat 8 dst, a := 0, ty := BitVec.ofNat 4 ty, imm := 0x800000 }

theorem test_meets_IntegerVectorResults : ∀ row ∈ Claim.intRows,
    (Claim.Issues stBase at0 ctx0 ((wVV 13 62).regs row.uses true) (wVV 13 62).uregs ∧ (wVV 13 62).intOk row.uses true = true ∧
      (row.uses.c = true ∨ (wVV 13 62).c = 0)) ∧
    (Claim.Issues stBase at0 ctx0 ((wVV 0 63).regs row.uses true) (wVV 0 63).uregs ∧ (wVV 0 63).intOk row.uses true = true ∧
      (row.uses.c = true ∨ (wVV 0 63).c = 0)) := by
  unfold Claim.Issues; decide +kernel

def wUF (dst a b imm : Nat) : UF := { h := h0, dst := BitVec.ofNat 6 dst, a := BitVec.ofNat 6 a, b := BitVec.ofNat 6 b, imm := BitVec.ofNat 26 imm }

theorem test_meets_AbsSelSetpMovImmediate :
    (Claim.Issues stBase at0 ctx0 ((wVV 1 63).regs { b := false } true) (wVV 1 63).uregs ∧ (wVV 1 63).intOk { b := false } true = true ∧ (wVV 1 63).c = 0) ∧
    (let w : VV := { wVV 12 62 with c := 7 }
     Claim.Issues stBase at0 ctx0 (w.regs {} true) w.uregs ∧ w.intOk {} true = true ∧ w.c.toNat < 8) ∧
    (let w : VV := { wVV 1 7 with c := 5 }
     Claim.Issues stBase at0 ctx0 (w.regs {} false) w.uregs ∧ w.intOk {} false = true ∧ w.c.toNat < 6 ∧ w.dst.toNat < 8) ∧
    (let w := wVI 1 47
     Claim.Issues stBase at0 ctx0 (w.regs false) [] ∧ w.intOk { vi := true } false = true ∧ bits w.dst.toNat 3 3 < 6 ∧ w.dst.toNat < 64) ∧
    (let w : VK := { h := h0, dst := 63, res := 0, imm := 0xFFFFFFFF }
     Claim.Issues stBase at0 ctx0 [w.dst.toNat] [] ∧ w.h.ok = true ∧ w.res = 0) := by
  unfold Claim.Issues; decide +kernel

theorem test_meets_FloatVectorResults : ∀ row ∈ Claim.floatRows, ∀ ty ∈ [2, 3, 4],
    let w := wVV ty 63
    Claim.Issues stBase at0 ctx0 ([w.dst.toNat, w.a.toNat] ++ (if row.uses.b && !w.ub then [w.b.toNat] else []) ++ (if row.uses.c then [w.c.toNat] else [])) w.uregs ∧
    w.floatOk row.uses = true ∧ (row.uses.c = true ∨ w.c = 0) ∧ floatFmt w.ty.toNat = ((floatFmt w.ty.toNat).1, (floatFmt w.ty.toNat).2) := by
  unfold Claim.Issues; decide +kernel

theorem test_meets_ImmediateFormResults :
    (∀ row ∈ Claim.intRows, row.uses.vi = true → Claim.Issues stBase at0 ctx0 ((wVI 13 62).regs true) [] ∧ (wVI 13 62).intOk row.uses true = true) ∧
    (∃ row ∈ Claim.intRows, row.uses.vi = true) ∧
    (∀ row ∈ Claim.floatRows, row.uses.vi = true → Claim.Issues stBase at0 ctx0 [(wVI 2 63).dst.toNat, (wVI 2 63).a.toNat] [] ∧ (wVI 2 63).floatOk row.uses = true) ∧
    ∃ row ∈ Claim.floatRows, row.uses.vi = true := by
  unfold Claim.Issues; decide +kernel

theorem test_meets_FloatSetpAndConversions :
    (let w : VV := { wVV 4 7 with c := 7 }
     Claim.Issues stBase at0 ctx0 ([w.a.toNat] ++ (if w.ub then [] else [w.b.toNat])) w.uregs ∧ w.floatOk { sat := false, rnd := 0 } = true ∧
     w.c.toNat < 8 ∧ w.dst.toNat < 8 ∧ floatFmt w.ty.toNat = (.f16, 2)) ∧
    (let w := wVI 2 63
     Claim.Issues stBase at0 ctx0 [w.a.toNat] [] ∧ w.floatOk { vi := true } = true ∧ w.dst.toNat < 64) ∧
    (let w : VV := { wVV 13 62 with c := 9, rnd := 4 }
     tyElem w.c.toNat = some (.e2m1, 8) ∧ tyElem w.ty.toNat = some (.s64, 1) ∧
     Claim.Issues stBase at0 ctx0 (regsOf w.c.toNat w.a.toNat ++ regsOf w.ty.toNat w.dst.toNat) [] ∧
     w.h.ok = true ∧ w.rnd.toNat ≤ 4 ∧ w.na = false ∧ w.nc = false ∧ w.aa = false ∧ w.b = 0 ∧ w.ub = false ∧
     pairOk w.c.toNat w.a.toNat = true ∧ pairOk w.ty.toNat w.dst.toNat = true) ∧
    (let w : VV := { wVV 3 63 with b := 1 }
     tyElem w.ty.toNat = some (.bf16, 2) ∧ 2 ≤ 2 ∧ w.h.ok = true ∧ w.rnd = 0 ∧ w.sat = false ∧ w.na = false ∧ w.nc = false ∧ w.aa = false ∧ w.c = 0 ∧
     w.bOk {} = true ∧ Claim.Issues stBase at0 ctx0 ([w.dst.toNat, w.a.toNat] ++ (if w.ub then [] else [w.b.toNat])) w.uregs ∧
     w.ub = false ∧ w.b.toNat < (if 2 = 2 then 2 else 4) ∧ Claim.Issues stBase at0 ctx0 [w.dst.toNat, w.a.toNat] []) ∧
    (let w : VV := { wVV 10 63 with b := 3 }
     tyElem w.ty.toNat = some (.s8, 4) ∧ 2 ≤ 4 ∧ w.h.ok = true ∧ w.rnd = 0 ∧ w.sat = false ∧ w.na = false ∧ w.nc = false ∧ w.aa = false ∧ w.c = 0 ∧
     w.ub = false ∧ w.b.toNat < (if 4 = 2 then 2 else 4) ∧ Claim.Issues stBase at0 ctx0 [w.dst.toNat, w.a.toNat] []) := by
  unfold Claim.Issues; refine ⟨?_, ?_, ?_, ?_, ?_⟩ <;> decide +kernel

theorem test_meets_CrossLaneResults :
    (∀ row ∈ Claim.shuffleRows, let w := wVV 0 63
     row.src 31 31 = row.src 31 31 ∧ Claim.Issues stBase at0 ctx0 ([w.dst.toNat, w.a.toNat] ++ (if w.ub then [] else [w.b.toNat])) w.uregs ∧
     crossOk w = true ∧ w.c = 0 ∧ w.bOk {} = true) ∧
    (let w : VV := { wVV 0 63 with c := 7 }
     Claim.Issues stBase at0 ctx0 [w.dst.toNat] [] ∧ crossOk w = true ∧ w.a = 0 ∧ w.b = 0 ∧ w.ub = false ∧ w.c.toNat < 8) := by
  unfold Claim.Issues; decide +kernel

theorem test_meets_UniformRegisterResults :
    (let w := wUF 63 63 63 0
     Claim.Issues stBase at0 ctx0 [] [w.dst.toNat, w.a.toNat, w.b.toNat] ∧ w.h.unguarded = true ∧ w.imm = 0) ∧
    (let w := wUF 63 63 0 0x2000000
     w.h.unguarded = true ∧ Claim.Issues stBase at0 ctx0 [] [w.dst.toNat, w.a.toNat] ∧ w.b = 0) ∧
    (let w := wUF 63 0 0 0x3FFFFFF
     w.h.unguarded = true ∧ Claim.Issues stBase at0 ctx0 [] [w.dst.toNat] ∧ w.a = 0 ∧ w.b = 0) ∧
    (let w := wUF 63 0 0 63
     w.h.unguarded = true ∧ Claim.Issues stBase at0 ctx0 [w.imm.toNat] [w.dst.toNat] ∧ w.a = 0 ∧ w.b = 0 ∧ w.imm.toNat < 256) ∧
    (let w := wUF 7 63 0 0
     w.h.unguarded = true ∧ Claim.Issues stBase at0 ctx0 [] [w.a.toNat] ∧ w.dst.toNat < 8 ∧ w.b = 0 ∧ w.imm = 0) ∧
    (let w := wUF 7 63 63 5
     w.h.unguarded = true ∧ Claim.Issues stBase at0 ctx0 [] [w.a.toNat, w.b.toNat] ∧ w.dst.toNat < 8 ∧ w.imm.toNat < 6) := by
  unfold Claim.Issues; decide +kernel

def hPg (pn : Bool) (q : BitVec 3) : Hdr := { pg := true, pn := pn, pq := q, res := 0 }
def hRes : Hdr := { pg := false, pn := false, pq := 0, res := 4 }
/-- Predicate 7 holds in lanes 0 to 15. -/
def grpQ : Group := { grp with q := [(7, 0xFFFF)] }
/-- v0 of lane 31 holds 3, v1 of lane 0 holds 2. -/
def grpV : Group := { grp with v := [(31, 3), (32, 2)] }
def wBF (h : Hdr) (tgt : BitVec 26) (rcv : BitVec 18) : BF := { h := h, tgt := tgt, rcv := rcv }

theorem test_meets_BranchesMoveLanes_bra :
    (let w := wBF (hPg false 7) 0x2000000 0x1FFFF
     Claim.Issues (stGrp grpQ) at0 (ctxG grpQ) [] [] ∧ w.h.ok = true ∧ (w.h.pg = true ∨ w.rcv = 0) ∧
     Claim.RoomTwo (ctxG grpQ) (inMask ((ctxG grpQ).guarded w.h)) (target 0x100 w.tgt) (target 0x100 w.rcv)) ∧
    (let w := wBF h0 0x1FFFFFF 0
     Claim.Issues stBase at0 ctx0 [] [] ∧ w.h.ok = true ∧ (w.h.pg = true ∨ w.rcv = 0) ∧
     Claim.RoomTwo ctx0 (inMask (ctx0.guarded w.h)) (target 0x100 w.tgt) (target 0x100 w.rcv)) := by
  unfold Claim.Issues Claim.RoomTwo; decide +kernel

theorem test_meets_BranchesMoveLanes_braCc :
    let w : CF := { h := h0, a := 63, cc := 5, un := true, imm := 0xFF, tgt := 0x800, rcv := 0x7FF }
    let cond := fun l => if w.un then intCond w.cc.toNat (ctx0.g.vreg w.a.toNat l).toNat (w.imm.signExtend 32).toNat
      else intCond w.cc.toNat (ctx0.g.vreg w.a.toNat l).toInt w.imm.toInt
    Claim.Issues stBase at0 ctx0 [w.a.toNat] [] ∧ w.h.unguarded = true ∧ w.cc.toNat < 6 ∧ Claim.RoomTwo ctx0 cond (target 0x100 w.tgt) (target 0x100 w.rcv) := by
  unfold Claim.Issues Claim.RoomTwo; decide +kernel

theorem test_meets_BranchesMoveLanes_indirect :
    let c := ctxG grpV
    let w := wBF h0 0 0x20000
    Claim.Issues (stGrp grpV) at0 c [w.lnk.toNat] [] ∧ w.h.unguarded = true ∧ w.ctgt = 0 ∧ c.p.mask ≠ 0 ∧
    Claim.Room c (fun l => (c.b.code + 8 * (c.g.vreg w.lnk.toNat l).toNat) % 2 ^ 48) (target c.p.pc w.rcv) := by
  refine ⟨by unfold Claim.Issues; decide +kernel, by decide, by decide, by decide, by decide, .inr (by decide +kernel)⟩

theorem test_meets_BranchesMoveLanes_ret :
    let c := ctxG grpV
    let w := wBF h0 0 0
    Claim.Issues (stGrp grpV) at0 c [w.lnk.toNat, w.lnk.toNat + 1] [] ∧ w.h.unguarded = true ∧ w.ctgt = 0 ∧ w.rcv = 0 ∧ w.lnk.toNat % 2 = 0 ∧ c.p.mask ≠ 0 ∧
    Claim.Room c (fun l => (c.b.code + 8 * (c.g.vreg w.lnk.toNat l).toNat) % 2 ^ 48)
      ((c.b.code + 8 * (c.g.vreg (w.lnk.toNat + 1) (lowestLane c.p.mask)).toNat) % 2 ^ 48) := by
  refine ⟨by unfold Claim.Issues; decide +kernel, by decide, by decide, by decide, by decide, by decide, by decide, .inr (by decide +kernel)⟩

theorem test_meets_BranchesMoveLanes_call :
    let w := wBF h0 0x1FFFF3E 0x1FFFF
    Claim.Issues stBase at0 ctx0 [w.lnk.toNat, w.lnk.toNat + 1] [] ∧ w.h.unguarded = true ∧ w.lnk.toNat % 2 = 0 ∧ ctx0.p.point = none ∧
    ctx0.b.code ≤ ctx0.p.pc ∧ ctx0.p.pc + 8 < 2 ^ 48 ∧ (ctx0.p.pc + 8 - ctx0.b.code) / 8 = (1#32).toNat ∧
    (ctx0.b.code + 8 * (0x1FFFF#32).toNat) % 2 ^ 48 = target ctx0.p.pc w.rcv := by
  unfold Claim.Issues; decide +kernel

theorem test_meets_IllegalWords :
    stBase.ctx? at0 = some ctx0 ∧ (∀ vs us, ctx0.ready stBase vs us = true) ∧
    (stBase.translate ctx0.b.slice ctx0.p.pc).isSome = true ∧
    (match VForm.vv { wVV 0 0 with h := hRes } with | .vv v => v.h.res | .vi v => v.h.res) ≠ 0 ∧
    (match VForm.vi { wVI 0 0 with h := hRes } with | .vv v => v.h.res | .vi v => v.h.res) ≠ 0 ∧ hRes.res ≠ 0 ∧
    decodeLamiz at0 0xB = none ∧ decodeLamiz at0 0xFF0 = none :=
  ⟨by decide +kernel, fun _ _ => rfl, by decide +kernel, by decide, by decide, by decide, by decide +kernel, by decide +kernel⟩

/-- Every free entry of the path table but one is taken by a path without lanes. -/
def grpFull : Group := { grpQ with ents := (0, path 0x100 allLanes .run) :: (List.range 30).map fun e => (e + 1, path 0 0 .run) }

theorem test_meets_PathOverflow :
    let c := ctxG grpFull
    Claim.Issues (stGrp grpFull) at0 c [] [] ∧ (hPg false 7).ok = true ∧ (hPg false 7).pg = true ∧
    c.guarded (hPg false 7) ≠ 0 ∧ c.guarded (hPg false 7) ≠ c.p.mask ∧ c.p.point = none ∧ c.g.freeEnts.length < 2 := by
  unfold Claim.Issues; decide +kernel

def wSF (h : Hdr) (arg : BitVec 16) : SF := { h := h, arg := arg, res := 0 }
def grpK (t : Token) : Group := { grp with k := [(15, t)] }

theorem test_meets_SystemInstructionsComplete :
    (wSF h0 0).res = 0 ∧ ctx0.p.point = none ∧ Claim.Issues stBase at0 ctx0 [] [] ∧ (wSF h0 0).h.ok = true ∧ (wSF h0 0).arg = 0 ∧
    (wSF (hPg true 7) 127).h.ok = true ∧ (wSF (hPg true 7) 127).arg.toNat < 128 ∧
    ctx0.guarded (hPg true 7) = 0 ∧ ctx0.guarded (hPg false 7) ≠ 0 ∧ (wSF h0 3).h.unguarded = true ∧ (wSF h0 3).arg.toNat < 4 ∧
    (∀ k, k < 16 → (wSF h0 0xFFFF).arg.getLsbD k = true → ctx0.g.token k = .complete) ∧
    (∀ g ∈ [grpK .pending, grpK (.failed ⟨1, 2, 3, 4⟩)], Claim.Issues (stGrp g) at0 (ctxG g) [] []) ∧
    (∃ k, k < 16 ∧ (wSF h0 0x8000).arg.getLsbD k = true ∧ (grpK .pending).token k = .pending) ∧
    (let g := grpK (.failed ⟨1, 2, 3, 4⟩)
     15 < 16 ∧ (wSF h0 0xFFFF).arg.getLsbD 15 = true ∧ g.token 15 = .failed ⟨1, 2, 3, 4⟩ ∧
     (∀ j, j < 16 → (wSF h0 0xFFFF).arg.getLsbD j = true → g.token j ≠ .pending) ∧ ∀ j, j < 15 → (wSF h0 0xFFFF).arg.getLsbD j = true → g.token j = .complete) := by
  refine ⟨by decide, by decide, by unfold Claim.Issues; decide +kernel, by decide, by decide, by decide, by decide, by decide +kernel, by decide +kernel,
    by decide, by decide, by decide +kernel, by unfold Claim.Issues; decide +kernel, ⟨15, by decide +kernel⟩, by decide +kernel⟩

theorem test_meets_SystemInstructionsComplete_sreg :
    (Claim.Issues stBase at0 ctx0 [] [63] ∧ (wSF h0 0x713F).h.unguarded = true ∧ (wSF h0 0x713F).arg.toNat = 63 + 256 + 4096 * 7 ∧ 63 < 64 ∧ 1 ≤ 7 ∧ 7 < 8) ∧
    ((wSF h0 0x603E).h.ok = true ∧ (wSF h0 0x603E).arg.toNat = 62 + 4096 * 6 ∧ 62 < 256 ∧ 6 < 8 ∧ Claim.Issues stBase at0 ctx0 [62, 62 + 1] [] ∧ 62 % 2 = 0) ∧
    ((wSF h0 0x703F).h.ok = true ∧ (wSF h0 0x703F).arg.toNat = 63 + 4096 * 7 ∧ 63 < 256 ∧ 7 < 8 ∧ Claim.Issues stBase at0 ctx0 [63] []) := by
  unfold Claim.Issues; decide +kernel

/-- A second group of the block, index 1. -/
def corTwo : Core := { cor with groups := [(0, grp), (1, { grp with index := 1 })] }

theorem test_meets_ExitAndBarriers :
    (Claim.Issues stBase at0 ctx0 [] [] ∧ (wSF h0 0).h.unguarded = true ∧ (wSF h0 0).res = 0 ∧ (wSF h0 0).arg = 0) ∧
    (let s := stCore corTwo
     let c := ctxOf corTwo grp
     let g2 : Group := { grp with index := 1 }
     Claim.Issues s at0 c [] [] ∧ c.g.ops = [] ∧ (wSF h0 15).arg.toNat < 16 ∧ 1 ≠ at0.slot ∧ NMap.find? (s.core 0).groups 1 = some g2 ∧ g2.block = c.g.block ∧ g2.index ≠ c.g.index ∧
     g2.index < 32 ∧ c.g.index < 32 ∧ 31 < 32 ∧ inMask (NMap.get 0 c.b.arrive (32 * (wSF h0 15).arg.toNat + g2.index)) 31 = false ∧ inMask g2.exited 31 = false) ∧
    (ctx0.g.ops = [] ∧ (wSF h0 15).arg.toNat < 16 ∧ ctx0.g.cur < 32 ∧ ((stBase.core 0).groups.map (·.1)).Nodup ∧
     ∀ k g2, (k, g2) ∈ (stBase.core 0).groups → g2.block = ctx0.g.block →
       (if k = at0.slot then ctx0.p.mask else 0) ||| NMap.get 0 ctx0.b.arrive (32 * (wSF h0 15).arg.toNat + g2.index) ||| g2.exited = allLanes) := by
  refine ⟨by unfold Claim.Issues; decide +kernel, by unfold Claim.Issues; decide +kernel, by decide, by decide, by decide, by decide +kernel, ?_⟩
  intro k g2 h _
  have h : (k, g2) ∈ [(0, grp)] := h
  simp only [List.mem_singleton, Prod.mk.injEq] at h
  obtain ⟨rfl, rfl⟩ := h
  decide +kernel

/-- The turn is over and two paths wait for theirs. -/
def grpTwo : Group :=
  { grp with ents := [(0, path 0x100 1 .run), (1, .path ⟨0x200, 2, .run, 5, none, none⟩), (31, .path ⟨0x300, 4, .run, 4, none, none⟩)], turn := 64, loop := true }

theorem test_meets_PathSwitchTakesOldest :
    grpTwo.others ≠ [] ∧ NMap.find? ((stGrp grpTwo).core 0).groups 0 = some grpTwo ∧ grpTwo.loop = true ∧ 64 ≤ grpTwo.turn ∧
    (∃ p, grpTwo.path? grpTwo.cur = some p ∧ p.wait = .run) ∧ grpTwo.cur < 32 := by
  refine ⟨by decide +kernel, by decide +kernel, by decide, by decide, ⟨_, rfl, by decide⟩, by decide⟩

def wMF (data size space : Nat) (ua : Bool) : MF :=
  { h := h0, data := BitVec.ofNat 8 data, addr := 0, base := 0, space := BitVec.ofNat 2 space, size := BitVec.ofNat 3 size, hint := 0, sem := 0, scope := 0, ua := ua, ofs := 0 }
/-- v0 of lane l holds 2048 l, so that the last lane's 16 bytes end local storage with the base in u0. -/
def grpA : Group := { grp with v := (List.range 31).map fun l => (l + 1, BitVec.ofNat 32 (2048 * (l + 1))), u := [(0, 2032)] }
/-- The same, with a guard that leaves lane 31. -/
def grpA1 : Group := { grpA with q := (7, 0x80000000) :: grpA.q }
def h1 : Hdr := hPg false 7

theorem test_meets_LocalLoads :
    (let c := ctxG grpA
     let w := wMF 60 4 0 false
     Claim.Issues (stGrp grpA) at0 c (Claim.mRegs w) [w.base.toNat] ∧ w.h.ok = true ∧ MFok w true = true ∧ w.space = 0 ∧
     w.data.toNat % max 1 (sizeBytes w.size.toNat / 4) = 0 ∧
     ∀ l, l < 32 → inMask (c.guarded w.h) l = true → Claim.LocalOk c (sizeBytes w.size.toNat) (Claim.mAddr c w l)) ∧
    (let w : MF := { wMF 63 3 0 true with ofs := 511 }
     Claim.Issues stBase at0 ctx0 [] [w.data.toNat, w.base.toNat] ∧ w.h.unguarded = true ∧ MFok w true = true ∧ w.space = 0 ∧
     w.ua = true ∧ (w.size = 2 ∨ w.size = 3) ∧ w.data.toNat < 64 ∧ Claim.LocalOk ctx0 (sizeBytes w.size.toNat) (Claim.mAddr ctx0 w 0)) := by
  unfold Claim.Issues Claim.LocalOk; refine ⟨?_, ?_⟩ <;> decide +kernel

def atOf (s : State) (c : Ctx) (w : MF) : List (Nat × Place × Nat) :=
  (lanes.filter (inMask (c.guarded w.h))).map fun l => (l, c.locate s w.space.toNat (sizeBytes w.size.toNat) (Claim.mAddr c w l) false, Claim.mAddr c w l)

def readable (n : Nat) : Place → Bool
  | .mem pa _ | .scr pa => decide (pa % n = 0 ∧ pa < 2 ^ 60)
  | .host _ a _ => decide (a % n = 0 ∧ a < 2 ^ 60)
  | _ => false
theorem readable_spec (n : Nat) (p : Place) (h : readable n p = true) : Claim.Readable n p := by
  cases p <;> simp_all [readable, Claim.Readable]

/-- The page of slice 0 in host memory, and a slice whose scratch chunk 0 is unit 0 of half 0. -/
def stHost (g : Group) : State := { stGrp g with slices := [(0, { Slice.init with pages := [(0, { page with tgt := .host 1 0xFFFFFF0000000 })] })] }
def stScr (g : Group) : State := { stGrp g with regs := [(0x200000, 1), (0x200400, 0x8000), (0x2100008, 1)] }


theorem test_meets_LoadsIssueRequests :
    (∀ z ∈ [(stGrp grpA, ctxG grpA, wMF 60 4 1 false), (stHost grpA, ctxG grpA, wMF 60 4 1 false), (stScr grpA, ctxG grpA, wMF 60 4 2 false),
        (stGrp grpA, ctxG grpA, { wMF 60 4 1 false with hint := 2 })],
      Claim.Issues z.1 at0 z.2.1 (Claim.mRegs z.2.2) [z.2.2.base.toNat] ∧ z.2.2.h.ok = true ∧ MFok z.2.2 true = true ∧ z.2.2.space ≠ 0 ∧
      z.2.2.data.toNat % max 1 (sizeBytes z.2.2.size.toNat / 4) = 0 ∧ z.2.1.guarded z.2.2.h ≠ 0 ∧ Claim.NoFine z.2.1 ∧
      (∀ y ∈ atOf z.1 z.2.1 z.2.2, Claim.Readable (sizeBytes z.2.2.size.toNat) y.2.1) ∧
      Claim.Untouched z.2.1 (atOf z.1 z.2.1 z.2.2) (sizeBytes z.2.2.size.toNat) ∧ z.2.2.sem = 0 ∧ z.2.1.c.near = [] ∧ z.2.1.c.nearOpen = []) ∧
    (let w := wMF 63 3 1 true
     let p := ctx0.locate stBase w.space.toNat (sizeBytes w.size.toNat) (Claim.mAddr ctx0 w 0) false
     Claim.Issues stBase at0 ctx0 [] [w.data.toNat, w.base.toNat] ∧ w.h.unguarded = true ∧ MFok w true = true ∧
     w.space ≠ 0 ∧ w.ua = true ∧ (w.size = 2 ∨ w.size = 3) ∧ w.data.toNat < 64 ∧ Claim.NoFine ctx0 ∧ Claim.Readable (sizeBytes w.size.toNat) p ∧
     Claim.Untouched ctx0 [(lowestLane ctx0.p.mask, p, Claim.mAddr ctx0 w 0)] (sizeBytes w.size.toNat)) := by
  constructor
  · have h : ∀ z ∈ [(stGrp grpA, ctxG grpA, wMF 60 4 1 false), (stHost grpA, ctxG grpA, wMF 60 4 1 false), (stScr grpA, ctxG grpA, wMF 60 4 2 false),
        (stGrp grpA, ctxG grpA, { wMF 60 4 1 false with hint := 2 })], z.2.1 = ctxG grpA ∧ ∀ y ∈ atOf z.1 z.2.1 z.2.2, readable (sizeBytes z.2.2.size.toNat) y.2.1 = true := by
      decide +kernel
    intro z hz
    refine ⟨?_, ?_, ?_, ?_, ?_, ?_, ?_, fun y hy => readable_spec _ _ ((h z hz).2 y hy), ?_, ?_, ?_, ?_⟩
    rotate_left 7
    · obtain ⟨e, -⟩ := h z hz
      rw [e]; exact fun _ _ _ _ => ⟨rfl, fun _ _ => ⟨rfl, rfl⟩⟩
    all_goals (clear h; revert z; first | decide +kernel | (unfold Claim.Issues; decide +kernel) | (unfold Claim.NoFine; decide +kernel))
  · refine ⟨by unfold Claim.Issues; decide +kernel, by decide, by decide, by decide, by decide, by decide, by decide, by unfold Claim.NoFine; decide +kernel,
      readable_spec _ _ (by decide +kernel), fun _ _ _ _ => ⟨rfl, fun _ _ => ⟨rfl, rfl⟩⟩⟩

def loadOp (dst : OpDst) : LoadOp := ⟨5, dst, [(31, 0x100, 0x80)], [], [(0x100, 9)], [], [], [], [], [], 0x100, [], false⟩

theorem test_meets_LoadReturnWritesRegisters : ∀ dst ∈ [.vec 60 16 false, .uni 63 8, .old 62 8, .none],
    let o := loadOp dst
    let g : Group := { grp with ops := [o] }
    NMap.find? ((stGrp g).core at0.core).groups at0.slot = some g ∧ g.ops.find? (fun q => q.id == o.id) = some o ∧ o.wait = [] ∧ o.poison = [] ∧ o.refused = [] ∧
    (o.lanes.map (·.1)).Nodup ∧ (∀ y ∈ o.lanes, y.1 < 32) ∧ o.dst = dst ∧ o.lanes = [(31, 0x100, 0x80)] := by
  decide +kernel

def wXF (sub : BitVec 8) : XF := { h := h0, d := 15, d2 := 0, k := 0, dep := 0, ur := 63, x2 := false, xu := true, sub := sub }
def grpU : Group := { grp with u := [(63, 57376)] }

theorem test_meets_LocalStores :
    (let c := ctxG grpA
     let w := wMF 60 4 0 false
     Claim.Issues (stGrp grpA) at0 c (Claim.mRegs w) [w.base.toNat] ∧ w.h.ok = true ∧ MFok w false = true ∧ w.space = 0 ∧ (w.sem = 0 ∨ c.g.ops = []) ∧
     w.data.toNat % max 1 (sizeBytes w.size.toNat / 4) = 0 ∧
     ∀ l, l < 32 → inMask (c.guarded w.h) l = true → Claim.LocalOk c (sizeBytes w.size.toNat) (Claim.mAddr c w l)) ∧
    (let w : MF := { wMF 63 3 0 true with ofs := 511 }
     Claim.Issues stBase at0 ctx0 [] [w.data.toNat, w.base.toNat] ∧ w.h.unguarded = true ∧ MFok w false = true ∧ w.space = 0 ∧ (w.sem = 0 ∨ ctx0.g.ops = []) ∧
     w.ua = true ∧ (w.size = 2 ∨ w.size = 3) ∧ w.data.toNat < 64 ∧ Claim.LocalOk ctx0 (sizeBytes w.size.toNat) (Claim.mAddr ctx0 w 0)) ∧
    (let c := ctxG grpU
     let w := wXF 254
     Claim.Issues (stGrp grpU) at0 c [] [w.ur.toNat] ∧ w.h.unguarded = true ∧ w.xu = true ∧ w.x2 = false ∧ w.dep = 0 ∧ w.k = 0 ∧ w.d2 = 0 ∧
     ((c.g.ureg w.ur.toNat).toNat + 32 * w.sub.toNat) % 2 ^ 32 % 32 = 0 ∧ ((c.g.ureg w.ur.toNat).toNat + 32 * w.sub.toNat) % 2 ^ 32 + 32 ≤ c.b.l * 1024) := by
  unfold Claim.Issues Claim.LocalOk; refine ⟨?_, ?_, ?_⟩ <;> decide +kernel

theorem test_meets_GlobalStoresEnterBuffer :
    (let c := ctxG grpA
     let s := stGrp grpA
     let w := wMF 60 4 1 false
     let pa := fun l => 2048 * l + 2032
     Claim.Issues s at0 c (Claim.mRegs w) [w.base.toNat] ∧ w.h.ok = true ∧ MFok w false = true ∧
     w.space = 1 ∧ w.sem = 0 ∧ w.data.toNat % max 1 (sizeBytes w.size.toNat / 4) = 0 ∧ c.c.sb.length ≤ 32 ∧
     (∀ l, l < 32 → inMask (c.guarded w.h) l = true → page.ro = false ∧ Claim.GlobalAt c s (sizeBytes w.size.toNat) (Claim.mAddr c w l) (pa l) page) ∧
     ∀ l, l < 32 → inMask (c.guarded w.h) l = true → c.g.awaits (pa l / 32) = false) ∧
    (let w := wMF 63 3 1 true
     Claim.Issues stBase at0 ctx0 [] [w.data.toNat, w.base.toNat] ∧ w.h.unguarded = true ∧ MFok w false = true ∧
     w.space = 1 ∧ w.sem = 0 ∧ w.ua = true ∧ (w.size = 2 ∨ w.size = 3) ∧ w.data.toNat < 64 ∧ ctx0.c.sb.length < 64 ∧ page.ro = false ∧
     Claim.GlobalAt ctx0 stBase (sizeBytes w.size.toNat) (Claim.mAddr ctx0 w 0) 0 page ∧ ctx0.g.awaits (0 / 32) = false) := by
  unfold Claim.Issues Claim.GlobalAt; refine ⟨?_, ?_⟩ <;> decide +kernel

def wAF (dst aop aty space : Nat) (ret : Bool) : AF :=
  { h := h1, dst := BitVec.ofNat 8 dst, addr := 0, src := 60, base := 0, aop := BitVec.ofNat 4 aop, aty := BitVec.ofNat 3 aty, space := BitVec.ofNat 2 space,
    sem := 0, scope := 0, ret := ret }

/-- Every valid pair of an operation and a type, with and without a returned value. -/
def atomForms (space : Nat) : List AF :=
  (List.range 8).flatMap fun o => (List.range 7).flatMap fun t => if atomValid o t then [wAF 56 o t space true, wAF 0 o t space false] else []

def AtomMeets (s : State) (c : Ctx) (w : AF) (l : Nat) : Prop :=
  w.h.ok = true ∧ atomValid w.aop.toNat w.aty.toNat = true ∧
  Claim.Issues s at0 c ((if w.ret then dataRegs w.dst.toNat (atyBytes w.aty.toNat) else []) ++ dataRegs w.src.toNat (atyBytes w.aty.toNat) ++
    (if w.aop = 7 then dataRegs (w.src.toNat + max 1 (atyBytes w.aty.toNat / 4)) (atyBytes w.aty.toNat) else []) ++ [w.addr.toNat]) [w.base.toNat] ∧
  (w.ret = true ∨ w.dst = 0) ∧ (w.ret = true → w.dst.toNat % max 1 (atyBytes w.aty.toNat / 4) = 0) ∧
  w.src.toNat % (if w.aop = 7 then 2 * max 1 (atyBytes w.aty.toNat / 4) else max 1 (atyBytes w.aty.toNat / 4)) = 0 ∧
  l < 32 ∧ ∀ m, m < 32 → (inMask (c.guarded w.h) m = true ↔ m = l)

theorem test_meets_LocalAtomics : atomForms 0 ≠ [] ∧ ∀ w ∈ atomForms 0,
    AtomMeets (stGrp grpA1) (ctxG grpA1) w 31 ∧ w.space = 0 ∧ (w.sem.toNat < 2 ∨ (ctxG grpA1).g.ops = []) ∧ Claim.LocalOk (ctxG grpA1) (atyBytes w.aty.toNat) (Claim.aAddr (ctxG grpA1) w 31) := by
  unfold AtomMeets Claim.Issues Claim.LocalOk; decide +kernel

theorem test_meets_GlobalAtomicsIssue : atomForms 1 ≠ [] ∧ ∀ w ∈ atomForms 1,
    AtomMeets (stGrp grpA1) (ctxG grpA1) w 31 ∧ w.space = 1 ∧ w.sem = 0 ∧ page.ro = false ∧
    Claim.GlobalAt (ctxG grpA1) (stGrp grpA1) (atyBytes w.aty.toNat) (Claim.aAddr (ctxG grpA1) w 31) 65520 page ∧
    (ctxG grpA1).g.awaits (65520 / 32) = false ∧ (ctxG grpA1).c.redHeld (65520 / 128) = false ∧ ∀ q ∈ (ctxG grpA1).c.sb, q.sector ≠ 65520 / 32 := by
  unfold AtomMeets Claim.Issues Claim.GlobalAt; decide +kernel

theorem test_meets_ReductionsSendContributions : ∀ sp ∈ [1, 2], ∀ sem ∈ [0, 2], ∀ aty ∈ [1, 2, 5, 6],
    let c := ctxG grpA1
    let s := stScr grpA1
    let w := { wAF 0 0 aty sp false with sem := BitVec.ofNat 2 sem }
    let o := { wAF 63 0 aty sp false with sem := BitVec.ofNat 2 sem }
    (w.h.ok = true ∧ w.aop = 0 ∧ (w.aty = 1 ∨ w.aty = 2 ∨ w.aty = 5 ∨ w.aty = 6) ∧ (w.space = 1 ∨ w.space = 2) ∧ (w.sem = 0 ∨ w.sem = 2) ∧
     c.released s w.sem.toNat w.scope.toNat = true ∧ w.ret = false ∧ c.c.sb.length ≤ 32 ∧
     ∀ l, l < 32 → inMask (c.guarded w.h) l = true → c.locate s w.space.toNat (atyBytes w.aty.toNat) (Claim.aAddr c w l) true =
       if sp = 1 then .mem (2048 * l + 2032) page else .scr (0xF0000000000 + (2048 * l + 2032))) ∧
    (w.dst = 0 ∧ Claim.Issues s at0 c [w.src.toNat, w.addr.toNat] [w.base.toNat]) ∧
    (o.aty = w.aty ∧ o.dst.toNat < 64 ∧ Claim.Issues s at0 c [o.src.toNat, o.addr.toNat] [o.base.toNat, o.dst.toNat]) := by
  unfold Claim.Issues; decide +kernel

/-- A descriptor of fields: low bit and value. -/
def desc (fs : List (Nat × Nat)) : W256 := BitVec.ofNat 256 ((fs.map fun f => f.2 * 2 ^ f.1).sum)
/-- An INT8 product of 4 × 16 × 8, a write of it as 32-bit words, a copy of two rows of 32 bytes. -/
def dMxa : W256 := desc [(0, 1), (4, 8), (8, 8), (41, 0), (54, 4), (79, 1), (92, 1), (105, 2)]
def dMxw : W256 := desc [(0, 3), (4, 0), (38, 2), (50, 512), (63, 2)]
def dCopy : W256 := desc [(0, 4), (10, 8), (14, 8), (80, 0xFFC0), (128, 1), (144, 31), (160, 32), (192, 32)]
def grpD (d : W256) : Group := { grp with d := [(15, d)] }
def wAs (sub : BitVec 8) : XF := { h := h0, d := 15, d2 := 0, k := 15, dep := 0x7FFF, ur := 0, x2 := false, xu := false, sub := sub }

theorem test_meets_AsyncInstructionsIssue :
    (∀ g ∈ [grpD dMxa, grpD dMxw, grpD dCopy], ∀ w ∈ [wAs 0, wAs 2], Claim.Issues (stGrp g) at0 (ctxG g) [] (if w.xu then [w.ur.toNat] else []) ∧
      XFok w = true ∧ (∀ k, k < 16 → w.dep.getLsbD k = true → g.token k = .complete) ∧ g.token w.k.toNat ≠ .pending) ∧
    ((wAs 0).sub = 0 ∧ (wAs 0).x2 = false ∧ ctx0.c.mxq.length < 8 ∧
      (let c := ctxG (grpD dMxa); mxaFault c (Claim.copyD c (wAs 0)) (Claim.copyD2 c (wAs 0)) (wAs 0).x2 (Claim.copyU c (wAs 0) 0) = none) ∧
      (let c := ctxG (grpD dMxw); mxwFault c (Claim.copyD c (wAs 0)) (wAs 0).xu (Claim.copyU c (wAs 0) 0x3F800000) = none)) ∧
    ((wAs 2).sub.toNat < 3 ∧ ctx0.c.pickMover (wAs 2).sub.toNat = some 1 ∧
      (let c := ctxG (grpD dCopy); tmovFault c (Claim.copyD c (wAs 2)) (Claim.copyD2 c (wAs 2)) (wAs 2).x2 (wAs 2).xu (Claim.copyU c (wAs 2) 0) = none)) := by
  unfold Claim.Issues; decide +kernel

theorem test_meets_AsyncInstructionsIssue_descriptors :
    (let w : XF := { wXF 0 with dep := 192 + 256 * 64 }
     Claim.Issues stBase at0 ctx0 [] [w.ur.toNat] ∧ w.h.unguarded = true ∧ w.xu = true ∧ w.x2 = false ∧ w.k = 0 ∧ w.d2 = 0 ∧
     w.sub = 0 ∧ w.dep.toNat = 192 + 256 * 64 ∧ 192 < 256 ∧ 1 ≤ 64 ∧ 64 ≤ 64 ∧ 192 + 64 ≤ 256) ∧
    (let w : XF := { wXF 0 with d2 := 15, ur := 0, x2 := true, xu := false }
     Claim.Issues stBase at0 ctx0 [] [] ∧ w.h.unguarded = true ∧ w.x2 = true ∧ w.xu = false ∧ w.dep = 0 ∧ w.k = 0 ∧ w.ur = 0 ∧ w.sub = 0) := by
  unfold Claim.Issues; decide +kernel

def opA : MxOp := ⟨0, 0, 15, dMxa, 0, 0, true, 0, 0⟩
def opW : MxOp := ⟨0, 0, 14, dMxw, 0, 0x3F800000, false, 0, 0⟩
def corMx (q : List MxOp) : Core := { cor with mxq := q }

theorem no_failed : Claim.NoFailed grp := fun _ _ h => by cases h

theorem test_meets_MatrixOperationsRun_start :
    (let s := stCore (corMx [{ opW with d := desc [(0, 3), (26, 1024), (38, 2), (50, 512), (63, 2)] }, opA, opW])
     (s.core 0).mxq = [{ opW with d := desc [(0, 3), (26, 1024), (38, 2), (50, 512), (63, 2)] }] ++ opA :: [opW] ∧
     (∀ q ∈ [{ opW with d := desc [(0, 3), (26, 1024), (38, 2), (50, 512), (63, 2)] }], q.mxa ≠ opA.mxa ∧ opA.conflicts q = false) ∧ (s.core 0).mxaRun = [] ∧
     (∀ r ∈ (s.core 0).mxaRun ++ (s.core 0).mxwRun, opA.conflicts r.op = false) ∧ NMap.find? (s.core 0).blocks opA.block = some blk ∧ opA.mxa = true) ∧
    (let s := stCore (corMx [opW])
     (s.core 0).mxq = [] ++ opW :: [] ∧ (s.core 0).mxwRun = [] ∧ (∀ r ∈ (s.core 0).mxaRun ++ (s.core 0).mxwRun, opW.conflicts r.op = false) ∧
     NMap.find? (s.core 0).blocks opW.block = some blk ∧ opW.mxa = false) := by
  decide +kernel

def corRun : Core := { cor with mxaRun := [⟨opA, [], []⟩], mxwRun := [⟨opW, [], [(0, [1])]⟩] }

theorem test_meets_MatrixOperationsRun_complete :
    (∀ o ∈ [opA, opW], NMap.find? ((stCore corRun).core 0).groups o.slot = some grp ∧ grp.block = o.block ∧
      NMap.find? ((stCore corRun).core 0).blocks o.block = some blk) ∧ Claim.NoFailed grp ∧
    ((stCore corRun).core 0).mxaRun[0]? = some ⟨opA, [], []⟩ ∧ ((stCore corRun).core 0).mxwRun[0]? = some ⟨opW, [], [(0, [1])]⟩ ∧
    (let a := mxaD dMxa; codeInt a.fa = true ∧ codeInt a.fb = true ∧ a.fa ≠ 0xF ∧ a.fb ≠ 0xF ∧ a.spa = 0 ∧ a.bt = false) :=
  ⟨by decide +kernel, no_failed, rfl, rfl, by decide +kernel⟩

def opMv : MvOp := ⟨0, 0, 15, dCopy, 0, 0, 0, 0, 0, 0x100, 0, [], []⟩
def runMv (err : Option (Bool × Nat × Nat × Nat × Nat)) : MvRun := ⟨opMv, [(0xFFC0, [1])], [], err, [], [], [], true⟩
def corMv (q : List MvOp) (r : List MvRun) : Core := { cor with mv1 := ⟨q, r, []⟩ }

/-- Claim.MoverSettled as a test; a mover whose started operation is processed, awaits an answer, is stopped or is a hint. -/
def MvSettled (s : State) (core m : Nat) : Bool :=
  ((s.core core).mover m).run.all fun r => r.ready || !r.waits.isEmpty || r.err.isSome || dfld r.op.d 0 4 != 4
theorem mvSettled_spec (s : State) (core m : Nat) (h : MvSettled s core m = true) : Claim.MoverSettled s core m := by
  intro r hr
  have := List.all_eq_true.mp h r hr
  simpa [List.isEmpty_iff, or_assoc] using this

theorem test_meets_MoverCopiesLocalRows_start :
    let s := stCore (corMv [opMv] [runMv none])
    let x := xferOf opMv.d opMv.d2 opMv.u
    1 < 2 ∧ ((s.core 0).mover 1).queue = opMv :: [] ∧ (∀ r ∈ ((s.core 0).mover 1).run, r.issued = true) ∧ s.mvMayStart 0 opMv = true ∧ NMap.find? (s.core 0).blocks opMv.block = some blk ∧
    dfld opMv.d 0 4 = 4 ∧ x.op = 0 ∧ x.src.sp = 0 ∧ x.dst.sp = 0 ∧ x.src.fc = x.dst.fc ∧ codeBlock x.src.fc = false ∧ 0 < x.srcBytes ∧
    ∀ i, i < x.rows → x.src.base + i * x.src.stride + x.srcBytes ≤ blk.l * 1024 ∧ x.dst.base + i * x.dst.stride + x.srcBytes ≤ blk.l * 1024 := by
  decide +kernel

def noWaits (g : Group) : Bool :=
  (List.range 32).all fun e => match g.path? e with | some p => (match p.wait with | .tokens _ => false | _ => true) | none => true
theorem noWaits_spec (g : Group) (h : noWaits g = true) : Claim.NoTokenWaits g := by
  intro e p m he hp hw
  have := List.all_eq_true.mp h e (List.mem_range.mpr he)
  simp [hp, hw] at this

theorem test_meets_MoverCopiesLocalRows_end :
    (∀ e ∈ [none, some (false, 5, 2, 0x100, 65535)],
      let s := stCore (corMv [] [runMv e])
      1 < 2 ∧ ((s.core 0).mover 1).run[0]? = some (runMv e) ∧ MvSettled s 0 1 = true ∧ (runMv e).waits = [] ∧ (runMv e).tag = [] ∧ NMap.find? (s.core 0).groups (runMv e).op.slot = some grp ∧
      grp.block = (runMv e).op.block ∧ NMap.find? (s.core 0).blocks (runMv e).op.block = some blk) ∧
    (dfld (runMv none).op.d 0 4 = 4 ∧ (runMv none).finished = true ∧ (runMv none).err = none) ∧ Claim.NoFailed grp ∧
    (runMv (some (false, 5, 2, 0x100, 65535))).err = some (false, 5, 2, 0x100, 65535) ∧ Claim.NoTokenWaits grp :=
  ⟨by decide +kernel, by decide, no_failed, rfl, noWaits_spec _ (by decide +kernel)⟩

/-- Slice 0 has a job. -/
def running (s : State) : State := { s with regs := [(0x200000, 1), (0x200040, 0x10000), (0x2100008, 1)] }

theorem test_meets_ProgramFaultEndsJob :
    (Claim.Issues (running stBase) at0 ctx0 [] [] ∧ (wSF h0 0xFFFF).h.ok = true ∧ (wSF h0 0xFFFF).res = 0 ∧ ctx0.guarded (wSF h0 0xFFFF).h ≠ 0 ∧
      ctx0.b.slice < 64 ∧ (running stBase).jobOf ctx0.b.slice = 1) ∧
    (let e := some (true, 8, 65536, 0x100, 3)
     let s := running (stCore (corMv [] [runMv e]))
     1 < 2 ∧ ((s.core 0).mover 1).run[0]? = some (runMv e) ∧ (runMv e).err = some (true, 8, 65536, 0x100, 3) ∧ MvSettled s 0 1 = true ∧ (runMv e).waits = [] ∧ (runMv e).tag = [] ∧
     NMap.find? (s.core 0).groups (runMv e).op.slot = some grp ∧ grp.block = (runMv e).op.block ∧ NMap.find? (s.core 0).blocks (runMv e).op.block = some blk ∧
     blk.slice < 64 ∧ s.jobOf blk.slice = 1) := by
  unfold Claim.Issues; decide +kernel

def task (st : TaskState) (eff : Bool) : Task :=
  { hdr := 0, inputs := [], st := st, no := 0, started := 1, retired := [], begun := some 0, effect := eff, deferred := false, dies := [0], lost := none }
def kern (ts : List Task) : Kernel := { stream := 0, graph := 0, hdr := 0, tasks := ts, swapped := false }
def stKern (ts : List Task) : State := { running stBase with slices := [(0, { sl0 with kernels := [kern ts] })] }

theorem test_meets_HardwareErrorReplaysTask :
    (let s := stKern [task .running false]
     NMap.find? (s.core 0).blocks 0 = some blk ∧ ∀ k ∈ (s.slice blk.slice).kernels, ∀ t ∈ k.tasks, t.no = blk.taskNo → t.st = .running → t.effect = false) ∧
    (let s := stKern [task .running true]
     NMap.find? (s.core 0).blocks 0 = some blk ∧ (∃ k ∈ (s.slice blk.slice).kernels, ∃ t ∈ k.tasks, t.no = blk.taskNo ∧ t.st = .running ∧ t.effect = true) ∧
     blk.slice < 64 ∧ s.jobOf blk.slice = 1) :=
  ⟨by decide +kernel, by decide +kernel⟩

def wQF (data : BitVec 8) : QF :=
  { h := h0, data := data, qh := 1, qs := 63, pri := 0, mark := 0, two := false, nb := false, sem := 0, scope := 0, res := 0 }
/-- u1 names queue 511. -/
def grpH : Group := { grp with u := [(1, 511)] }
/-- Queue 511 of slice 0, enabled, with its contents; `a` are more bits of its first register. -/
def stQ (a st : Nat) (x : Queue) : State :=
  { stGrp grpH with regs := [(0x200000, 1), (0x507FC0, BitVec.ofNat 64 (1 + a)), (0x507FE0, BitVec.ofNat 64 st), (0x2100008, 1)], queues := [(511, x)] }
def ctxH : Ctx := ctxG grpH
def item (n pri : Nat) (p : QLoc) : QItem := ⟨BitVec.ofNat 512 (n + 7), pri, n, none, p, false⟩
def qOf (its : List QItem) : Queue := { Queue.init with items := its, pushes := its.length }
def tails (n : Nat) : List QItem := (List.range n).map fun i => item i 0 .tail
def full : List QItem := (List.range 32).map fun i => item i 0 (if i < 16 then .head else .tail)

theorem test_meets_QueuePush :
    (∀ z ∈ [(tails 15, false, false), (tails 14, true, false), (full, false, true), (full, true, true), (full, false, false)],
      let s := stQ 0 0 (qOf z.1)
      let w : QF := { wQF 63 with pri := 3, two := z.2.1, nb := z.2.2 }
      Claim.Issues s at0 ctxH [w.data.toNat] [w.qh.toNat, w.qs.toNat] ∧ QFok w 0 = true ∧ w.sem = 0 ∧
      ((ctxH.g.ureg w.qh.toNat).toNat = 511 ∧ 511 < 512 ∧ s.qAllowed 511 ctxH.b.slice true = true ∧ s.qEn 511 = true ∧ s.qFailed 511 = false) ∧ (s.queue 511).waits = [] ∧ s.qZeroing 511 = false) ∧
    (Claim.TailRoom (qOf (tails 15)) 1 ∧ (qOf (tails 15)).items.length + 1 ≤ (stQ 0 0 (qOf (tails 15))).qCap 511) ∧
    (Claim.TailRoom (qOf (tails 14)) 2 ∧ (qOf (tails 14)).items.length + 2 ≤ (stQ 0 0 (qOf (tails 14))).qCap 511) ∧
    (stQ 0 0 (qOf full)).qCap 511 < (qOf full).items.length + 1 := by
  unfold Claim.Issues Claim.TailRoom; refine ⟨?_, ?_, ?_, ?_⟩ <;> decide +kernel

/-- Queue 511 spills to scratch chunk 0 of its slice, which is still being zeroed. -/
def stZero : State :=
  { stQ 0 0 (qOf (tails 1)) with
    regs := [(0x200000, 1), (0x200400, 0x8000), (0x507FC0, 1), (0x507FD0, 1), (0x2100008, 1)], halves := [(0, { Half.init with zeroing := [0] })] }

theorem test_meets_QueuesWaitForZeroedScratch : ∀ nb ∈ [false, true],
    let s := stZero
    let w : QF := { wQF 63 with nb := nb }
    Claim.Issues s at0 ctxH [w.data.toNat] [w.qh.toNat, w.qs.toNat] ∧ QFok w 0 = true ∧ QFok w 1 = true ∧ w.sem = 0 ∧
    ((ctxH.g.ureg w.qh.toNat).toNat = 511 ∧ 511 < 512 ∧ (∀ p ∈ [false, true], s.qAllowed 511 ctxH.b.slice p = true) ∧ s.qEn 511 = true ∧ s.qFailed 511 = false) ∧
    (s.queue 511).waits = [] ∧ s.qZeroing 511 = true := by
  unfold Claim.Issues; decide +kernel

/-- Item 1 is next, then item 2. -/
def three : Queue := qOf [item 0 0 .head, item 1 3 .tail, item 2 2 .tail]

theorem test_meets_QueuePop :
    (∀ z ∈ [(three, false, false), (three, true, false), (qOf [], false, true), (qOf (tails 1), true, false)],
      let s := stQ 0x4000 0 z.1
      let w : QF := { wQF 63 with two := z.2.1, nb := z.2.2 }
      Claim.Issues s at0 ctxH [w.data.toNat] [w.qh.toNat, w.qs.toNat] ∧ QFok w 1 = true ∧ w.sem = 0 ∧
      ((ctxH.g.ureg w.qh.toNat).toNat = 511 ∧ 511 < 512 ∧ s.qAllowed 511 ctxH.b.slice false = true ∧ s.qEn 511 = true ∧ s.qFailed 511 = false) ∧
      (s.queue 511).waits = [] ∧ s.qZeroing 511 = false ∧ s.qHeld 511 = false) ∧
    Claim.Ordered three ∧ (Claim.IsNext three (item 1 3 .tail) ∧ (item 1 3 .tail).at_ = .tail ∧ (item 1 3 .tail).poison = false) ∧
    (Claim.IsNext { three with items := three.items.filter fun k => k.no != (item 1 3 .tail).no } (item 2 2 .tail) ∧ (item 2 2 .tail).poison = false) ∧
    (qOf []).unread < 1 ∧ (qOf (tails 1)).unread < 2 := by
  unfold Claim.Issues Claim.Ordered Claim.IsNext; refine ⟨?_, ?_, ?_, ?_, ?_, ?_⟩ <;> decide +kernel

theorem test_meets_QueueMarksAndStatus :
    (∀ s ∈ [stQ 0x4000 0 { three with pos := 9, marks := [some 5, none, none, some 9] }, stQ 0x4000 4 three, stQ 0 0 three, { stQ 0 0 three with regs := [(0x200000, 1), (0x2100008, 1)] }],
      Claim.Issues s at0 ctxH [] [1, 63] ∧ s.qAllowed 511 ctxH.b.slice false = true) ∧
    ((ctxH.g.ureg (wQF 0).qh.toNat).toNat = 511 ∧ 511 < 512 ∧ QFok (wQF 0) 5 = true ∧ QFok { wQF 0 with mark := 3 } 2 = true) ∧
    ({ stQ 0 0 three with regs := [(0x200000, 1), (0x2100008, 1)] }.qEn 511 = false ∧ (stQ 0x4000 4 three).qFailed 511 = true ∧ (stQ 0x4000 4 three).qEn 511 = true ∧
     (stQ 0 0 three).qEn 511 = true ∧ (stQ 0 0 three).qFailed 511 = false ∧ (stQ 0 0 three).qMarks 511 = false) ∧
    (let s := stQ 0x4000 0 { three with pos := 9, marks := [some 5, none, none, some 9] }
     s.qEn 511 = true ∧ s.qFailed 511 = false ∧ s.qMarks 511 = true ∧ (s.queue 511).waits = [] ∧ (s.queue 511).marks.length = 4 ∧
     (s.queue 511).marks[1]? = some none ∧ (s.queue 511).marks[3]? = some (some 9)) := by
  unfold Claim.Issues; refine ⟨?_, ?_, ?_, ?_⟩ <;> decide +kernel

theorem test_meets_QueueEngineEvents :
    (let s := stQ 0 0 three
     s.qEn 511 = true ∧ s.qFailed 511 = false ∧ s.qZeroing 511 = false ∧ (∀ i ∈ (s.queue 511).items, i.at_ = .head ∨ i.at_ = .tail) ∧ Claim.Ordered (s.queue 511)) ∧
    (let s := stQ 0 0 (qOf (tails 15))
     s.phase = .ready ∧ s.fld (aSec 0) 0 2 ≠ 2 ∧ s.pasidSlice 0 (some 0) = some 0 ∧ s.fld (aHpStatus 0) 10 2 ≠ 3 ∧ s.qOwner 511 = 0 ∧
     (List.replicate 64 (255 : Byte)).length = 64 ∧ s.qEn 511 = true ∧ s.qFailed 511 = false ∧ s.qZeroing 511 = false ∧ (s.queue 511).waits = [] ∧
     (s.queue 511).items.length < s.qCap 511 ∧ Claim.TailRoom (s.queue 511) 1) ∧
    (let s := stQ 2 0 three
     s.phase = .ready ∧ s.fld (aSec 0) 0 2 ≠ 2 ∧ s.pasidSlice 0 (some 0) = some 0 ∧ s.fld (aHpStatus 0) 10 2 ≠ 3 ∧ s.qOwner 511 ≠ 0) ∧
    (7 < 8 ∧ (stBase.queue (stBase.fld (aCqG (8 * 7)) 11 9)).waits = []) ∧
    (let s : State := { stBase with regs := [(0x508048, 0x8000)] }
     7 < 8 ∧ s.fld (aCqG 0x48) (8 + 7) 1 = 1) := by
  unfold Claim.Ordered Claim.TailRoom; refine ⟨?_, ?_, ?_, ?_, ?_⟩ <;> decide +kernel

/-- The module with registers, the cores that are not empty and the slices. -/
def stOf (regs : List (Nat × Nat)) (cores : NMap Core) (slices : NMap Slice) : State :=
  { State.reset with regs := regs.map fun r => (r.1, BitVec.ofNat 64 r.2), cores := cores, slices := slices }
/-- Slice 0 alone. -/
def stReg (regs : List (Nat × Nat)) : State := stOf regs [] [(0, sl0)]

theorem test_meets_JobsStartAndEnd :
    (∀ s ∈ [stReg [(0x200000, 1)], stReg [(0x200000, 1), (0x200040, 0x10000)]],
      Claim.ManagerMay s 0 (aSlc 0 0x48) ∧ s.exists? 0 = true ∧ Claim.TenantMay s 0 (some 0) 0) ∧
    (stReg [(0x200000, 1)]).jobOf 0 ≠ 1 ∧ (stReg [(0x200000, 1), (0x200040, 0x10000)]).jobOf 0 = 1 ∧
    (let s := stReg [(0x23F000, 3), (0x23F040, 0x10000)]
     63 < 64 ∧ Claim.ManagerMay s 0 (aSlc 63 0x48) ∧ s.exists? 63 = true ∧ Claim.TenantMay s 1 (some 0) 63 ∧ s.jobOf 63 = 1) := by
  unfold Claim.ManagerMay Claim.TenantMay; decide +kernel

theorem test_meets_SchedulingMessagesArrive :
    bugleOk 0x13 (bugleTo 0x13 32 54) = true ∧ (stReg [(0x200000, 1), (0x200040, 0x10000)]).jobOf 0 = 1 ∧ bugleOk 0x14 (bugleTo 0x14 54 0) = true ∧
    bugleOk 0x15 (bugleTo 0x15 0 54) = true ∧ bugleOk 0x16 (bugleTo 0x16 54 58) = true ∧ 65535 ≠ (stReg []).gen 0 ∧
    (∀ ty ∈ [0x13, 0x14, 0x16, 0x06], bugleOk ty ⟨0, 0, 3, 0⟩ = false) := by
  decide +kernel

def stLaunch (stream v : Nat) : State := stOf [(0x200000, 1), (0x200040, 0x10000)] [] [(0, { sl0 with launch := [(stream, BitVec.ofNat 64 v)] })]

theorem test_meets_KernelsStart_one : ∃ s1 s2 s3 bs ts h, let s := stLaunch 15 0x3FFFFF40
    s.jobOf 0 = 1 ∧ 15 ≤ 16 ∧ (∀ k ∈ (s.slice 0).kernels, k.stream ≠ 15 ∧ k.swapped = true) ∧ s.nextLaunch 0 15 = (s1, some 0x3FFFFF40) ∧ 0x3FFFFF40 % 64 = 0 ∧
    0x3FFFFF40 < 2 ^ 48 ∧ s1.readVa 0 [] 0x3FFFFF40 64 = (s2, some (bs, false)) ∧ h = BitVec.ofNat 512 (leNat bs) ∧ graphOk h = true ∧ hfld h 25 1 = 0 ∧
    s2.readTasks 0 [] 0x3FFFFF40 (hfld h 0 12 + 1) (hfld h 0 12 + 1) = (s3, .inl ts) := by
  let s := stLaunch 15 0x3FFFFF40
  let s1 := (s.nextLaunch 0 15).1
  let s2 := (s1.readVa 0 [] 0x3FFFFF40 64).1
  refine ⟨s1, s2, (s2.readTasks 0 [] 0x3FFFFF40 1 1).1, List.replicate 64 0, [Task.fresh 0 []], 0, by decide +kernel, by decide, by decide, by decide +kernel, by decide, by decide,
    by decide +kernel, by decide +kernel, by decide +kernel, by decide +kernel, by decide +kernel⟩

theorem test_meets_KernelsStart_two : ∀ v ∈ [0x3FFFFF41, 2 ^ 48, 2 ^ 64 - 64], let s := stLaunch 15 v
    0 < 64 ∧ s.jobOf 0 = 1 ∧ 15 < 16 ∧ (∀ k ∈ (s.slice 0).kernels, k.stream ≠ 15 ∧ k.swapped = true) ∧
    (s.slice 0).launch.find? (fun l => l.1 == 15) = some (15, BitVec.ofNat 64 v) ∧ v < 2 ^ 64 ∧ (v % 64 ≠ 0 ∨ 2 ^ 48 ≤ v) := by
  decide +kernel

theorem test_meets_KernelsStart_three :
    let k : Kernel := { kern [] with hdr := BitVec.ofNat 512 (0x1000 * 2 ^ 64 + 5000 * 2 ^ 128), swapped := false }
    let s := stOf [(0x200000, 1)] [] [(0, { sl0 with kernels := [k] })]
    (s.slice 0).kernels = [k] ∧ k.swapped = false ∧ s.sliceZeroing 0 = false ∧ (s.slice 0).model = none ∧ s.mapsRange 0 (some []) (hfld k.hdr 64 48) (hfld k.hdr 128 32) = true := by
  decide +kernel

def two : Kernel := { kern [task .done false, { task .waiting false with inputs := [0] }] with swapped := true }

theorem test_meets_TasksAndBlocksStart_ready :
    let s := stOf [(0x200000, 1), (0x200028, 2 ^ 63)] [] [(0, { sl0 with kernels := [two] })]
    let u : Task := { task .waiting false with inputs := [0] }
    (s.slice 0).kernels.find? (fun k => k.stream == 0) = some two ∧ two.tasks[1]? = some u ∧ two.swapped = true ∧ u.st = .waiting ∧
    (∀ j ∈ u.inputs, ∃ v, two.tasks[j]? = some v ∧ (v.st = .done ∨ v.st = .skipped)) ∧ hfld u.hdr 145 1 = 0 ∧
    31 < 32 ∧ s.present 31 = true ∧ (∃ j, j < 8 ∧ s.usesCluster 0 (8 * 31 + j) = true) := by
  refine ⟨by decide +kernel, rfl, rfl, rfl, ?_, by decide, by decide, by decide, 7, by decide +kernel⟩
  intro j hj
  obtain rfl : j = 0 := by simpa [task] using hj
  exact ⟨_, rfl, .inl rfl⟩

/-- Slice 0 names cluster 0 on the only die. -/
def stOneDie (k : List Kernel) (sv : List Saved) : State :=
  { stOf [(0x200000, 1), (0x200010, 1), (0x200040, 0x10000)] [] [(0, { sl0 with kernels := k, saved := sv })] with sites := [0] }

theorem test_meets_TasksAndBlocksStart_block :
    let u : Task := { task .running false with started := 0, begun := none }
    let s := stOneDie [kern [u]] []
    s.jobOf 0 = 1 ∧ s.readyTasks 0 = (0, 0, u) :: [] ∧
    s.pickCore ((List.range 2048).filter fun c => s.mayStart 0 c u ((s.readyTasks 0).any fun t => hfld t.2.2.hdr 144 1 == 1)) = some 0 ∧
    (s.core 0).blocks = [] ∧ (s.core 0).groups = [] := by
  decide +kernel

def hdrOf (fs : List (Nat × Nat)) : BitVec 512 := BitVec.ofNat 512 ((fs.map fun f => f.2 * 2 ^ f.1).sum)

theorem test_meets_BlocksRetireAndTasksOverrun :
    (let b : Block := { blk with count := 2 }
     let u : Task := { task .running false with hdr := hdrOf [(128, 1)], started := 2 }
     let s := stOf [(0x200000, 1)] [(0, { cor with blocks := [(15, b)], groups := [(0, { grp with block := 15, exited := allLanes })] })] [(0, { sl0 with kernels := [kern [u]] })]
     NMap.find? (s.core 0).blocks 15 = some b ∧ b.async = 0 ∧ (∀ e ∈ (s.core 0).sb, e.block ≠ 15) ∧ (∀ sg ∈ (s.core 0).groups, sg.2.block = 15 → sg.2.exited = allLanes ∧ sg.2.ops = []) ∧
     ∀ k ∈ (s.slice b.slice).kernels, ∀ u ∈ k.tasks, u.no = b.taskNo → u.st = .running → u.retired.length + 1 < hfld u.hdr 128 16 + 1 ∧ u.retired.length + 1 ≠ b.count) ∧
    (let u : Task := { task .running false with hdr := hdrOf [(144, 1), (160, 1)], no := BitVec.ofNat 64 (2 ^ 64 - 1) }
     let k := kern [u]
     let s := stOf [(0x200000, 1), (0x200040, 0x10000)] [] [(0, { sl0 with kernels := [k] })]
     2 ^ 64 - 1 < 2 ^ 64 ∧ s.jobOf 0 = 1 ∧ (s.slice 0).kernels = [k] ∧ k.tasks = [u] ∧ u.no = BitVec.ofNat 64 (2 ^ 64 - 1) ∧
     u.st = .running ∧ u.begun ≠ none ∧ hfld u.hdr 160 32 ≠ 0 ∧ (hfld u.hdr 144 1 = 1 ∨ s.fld (aSlc 0 0) 38 8 ≠ 0)) := by
  constructor <;> decide +kernel

/-- Slices 0 and 1 name cluster 0; slice 1 has a task to start. -/
def stShare (c : Cluster) : State :=
  { stOf [(0x200000, 1), (0x200010, 1), (0x200030, 0x1000000), (0x201000, 1), (0x201010, 1)] [(7, cor)] [(0, sl0), (1, { sl0 with kernels := [kern [{ task .running false with started := 0 }]] })]
    with clusters := [(0, c)] }

/-- Window 63 of slice 0 covers cluster 255. -/
def stWin (opened : NMap Nat) : State :=
  { stReg [(0x200000, 1)] with windows := { table := List.replicate 63 (0, 0) ++ [(1, 2 ^ 31 + 2 ^ 39)], cycus := 1000, origin := 0, opened := opened } }

theorem test_meets_ClustersAndWindows :
    (let s := stShare { Cluster.init with cur := some 0 }
     (s.cluster 0).cur = some 0 ∧ 2 ≤ (s.namers 0).length ∧ 1 ∈ s.namers 0 ∧ 1 ≠ 0 ∧ s.hasReady 1 = true ∧
     (7 < 8 ∧ (0, blk) ∈ (s.core (8 * 0 + 7)).blocks ∧ blk.slice = 0 ∧ ((s.core (8 * 0 + 7)).blocks.map (·.1)).Nodup)) ∧
    (let s := stShare { Cluster.init with cur := some 0, stopped := true }
     (s.cluster 0).stopped = true ∧ (s.cluster 0).cur = some 0 ∧ s.queues = [] ∧ 7 < 8 ∧ NMap.find? (s.core (8 * 0 + 7)).blocks 0 = some blk ∧ blk.slice = 0 ∧
     s.fld (aSlc 0 0x30) 24 24 ≠ 0) ∧
    bits ((stReg []).reg 0x240000) 17 1 = 0 ∧
    (bits ((stReg [(0x240000, 0x20001)]).reg 0x240000) 17 1 = 1 ∧ bits ((stReg [(0x240000, 0x20001)]).reg 0x240000) 0 17 ≠ 0) ∧
    ((stWin []).winOn 63 = true ∧ 255 < 256 ∧ (stWin []).winHas 63 255 = true ∧ (stWin []).present (255 / 8) = true) ∧
    NMap.find? (stWin [(63, 5)]).windows.opened 63 ≠ none := by
  refine ⟨?_, ?_, ?_, ?_, ?_, ?_⟩ <;> decide +kernel

def savedBlk : Saved := { block := blk, groups := [grp], ofs := 0, size := 108032, movers := [] }
def pushOut : Remote :=
  { id := 3, kind := .push 0 0, slice := 0, gen := 0, dst := 1, opid := 0, since := 0, kept := false, answer := none
    pkt := ⟨3, 1, 0, 0, 0, 0, 0, 1, 0, 0, 0, 0, 0, 0, []⟩ }

theorem test_meets_SaveAndRestore :
    (let b : Block := { blk with saving := true }
     let s := stOf [(0x200000, 1), (0x200030, 27 * 2 ^ 24)] [(2047, { cor with blocks := [(15, b)], groups := [(47, { grp with block := 15 })] })] [(0, sl0)]
     NMap.find? (s.core 2047).blocks 15 = some b ∧ b.saving = true ∧ s.remotes = [] ∧ (∀ o ∈ (s.core 2047).mxq, o.block ≠ 15) ∧
     (∀ r ∈ (s.core 2047).mxaRun ++ (s.core 2047).mxwRun, r.op.block ≠ 15) ∧ (∀ sg ∈ (s.core 2047).groups, sg.2.block = 15 → sg.2.ops = []) ∧ (∀ e ∈ (s.core 2047).sb, e.block ≠ 15) ∧
     (s.core 2047).mv0 = ⟨[], [], []⟩ ∧ (s.core 2047).mv1 = ⟨[], [], []⟩ ∧ s.contextPlace b.slice b.contextBytes = some 0) ∧
    (let s := stOneDie [] [savedBlk]
     (s.slice 0).saved[0]? = some savedBlk ∧ savedBlk.movers = [] ∧ s.remotes = [] ∧ 7 < 2048 ∧ s.mayPlace 0 7 = true ∧
     (s.core 7).fits savedBlk.block.g savedBlk.block.v savedBlk.block.l = true ∧ (s.core 7).blocks = [] ∧ (s.core 7).groups = [] ∧ savedBlk.groups.length ≤ 32) ∧
    (let b : Block := { blk with saving := true }
     let s : State := { stOf [] [(0, { cor with blocks := [(0, b)] })] [] with remotes := [pushOut] }
     s.remotes = [pushOut] ∧ pushOut.kind = .push 0 0 ∧ NMap.find? (s.core 0).groups 0 = some grp ∧ NMap.find? (s.core 0).blocks grp.block = some b ∧ b.saving = true) := by
  refine ⟨?_, ?_, ?_⟩ <;> decide +kernel

def rdReq (line : Nat) : LlmReq := { half := 63, agent := .load 0 0 5, slice := 0, cls := 0, hint := 0, policy := 0, ro := false, line := line, body := .read 15 }
def wrReq (line : Nat) : LlmReq := { rdReq line with agent := .store 0 9, body := .write [(127, 1)] }
def line0 (st : LSt) : Line :=
  { way := 0, st := st, hold := false, heldAt := 0, sec := [some 1, some 2, some 3, some 4], dirty := 0, poison := 0, pf := false, slice := 0, ro := false, policy := 0,
    cls := 0, age := 0, tag := 0 }
def stHalf (h : Nat) (x : Half) (llm : List LlmReq) : State :=
  { stGrp { grp with ops := [⟨5, .uni 0 8, [(0, 128 * 0x1FFFFF, 0)], [4 * 0x1FFFFF], [], [], [], [], [], [], 0x100, [], false⟩] } with
    halves := [(h, x)], flight := { llm := llm, scr := [], contrib := [], net := [] } }

theorem test_meets_LlmRequestsServed :
    (let r := rdReq 0x1FFFFF
     let s := stHalf 63 Half.init [r]
     r ∈ s.flight.llm ∧ Claim.MayServe s r.agent ∧ r.body = .read 15 ∧ NMap.find? (s.half r.half).lines r.line = none ∧ (s.half r.half).miss = [] ∧ (s.half r.half).used = [] ∧
     s.allocates r = true ∧ s.homeNode r.line = some 2 ∧ s.fld 0x700000 0 2 = 0) ∧
    (let r := rdReq 0x1FFFFF
     let s := stHalf 63 { Half.init with lines := [(0x1FFFFF, line0 .s)] } [r]
     r ∈ s.flight.llm ∧ r.agent = .load 0 0 5 ∧ r.body = .read 15 ∧ r.hint = 0 ∧ NMap.find? (s.half r.half).lines r.line = some (line0 .s) ∧
     15 &&& ~~~(line0 .s).valid = 0 ∧ r.line ∉ (s.core 0).nearOpen ∧ Claim.Quiet s r.half r.line) ∧
    (let r := wrReq 0x1FFFFF
     let s := stHalf 63 { Half.init with lines := [(0x1FFFFF, line0 .e)] } [r]
     r ∈ s.flight.llm ∧ Claim.MayServe s r.agent ∧ r.body = .write [(127, 1)] ∧ 127 < 128 ∧ r.hint = 0 ∧
     NMap.find? (s.half r.half).lines r.line = some (line0 .e) ∧ (line0 .e).st ≠ .s ∧ (line0 .e).sec.length = 4 ∧ ((line0 .e).sec.getD (127 / 32) none).isSome = true ∧
     Claim.Quiet s r.half r.line) := by
  unfold Claim.MayServe Claim.Quiet; refine ⟨?_, ?_, ?_⟩ <;> decide +kernel

/-- The last line of unit 31 of half 63, which slice 0 owns. -/
def scrLine : Nat := (scratchAddr 63 31 0 + 2 ^ 22) / 128 - 1
def scrReq (sl : Nat) (a : Agent) (b : ReqBody) : ScrReq := { agent := a, slice := sl, line := scrLine, body := b }
def stUnit (scr : List ScrReq) (con : List (Nat × Contrib)) : State :=
  { stGrp grp with regs := [(0x200000, 1), (0x200400, 0x87FF), (0x2100008, 1)], flight := { llm := [], scr := scr, contrib := con, net := [] } }
def contrib (key : Option (BitVec 32)) : Contrib := { src := .store 0 9, slice := 0, line := scrLine, aty := 5, lanes := [(126, 1)], key := key, no := 0 }

theorem test_meets_ScratchAndContributions :
    (let r := scrReq 0 (.store 0 9) (.write [(127, 255)])
     let s := stUnit [r] []
     r ∈ s.flight.scr ∧ Claim.MayServe s r.agent ∧ r.body = .write [(127, 255)] ∧ isScratch r.line = true ∧ s.scratchOk r.agent r.slice r.line = true ∧
     scratchUnit (r.line * 128) ∉ (s.half (scratchHalf (r.line * 128))).zeroing ∧ Claim.Quiet s (scratchHalf (r.line * 128)) r.line) ∧
    (let r := scrReq 0 (.load 0 0 5) (.read 8)
     let s := stUnit [r] []
     r ∈ s.flight.scr ∧ r.agent = .load 0 0 5 ∧ r.body = .read 8 ∧ isScratch r.line = true ∧ s.scratchOk r.agent r.slice r.line = true ∧ r.line ∉ (s.core 0).nearOpen ∧
     scratchUnit (r.line * 128) ∉ (s.half (scratchHalf (r.line * 128))).zeroing ∧ Claim.Quiet s (scratchHalf (r.line * 128)) r.line) ∧
    (let r := scrReq 1 (.load 0 0 5) (.read 8)
     let s := stUnit [r] []
     r ∈ s.flight.scr ∧ r.agent = .load 0 0 5 ∧ r.body = .read 8 ∧ 63 = scratchHalf (r.line * 128) ∧ s.scratchOk r.agent r.slice r.line = false ∧ r.line ∉ (s.core 0).nearOpen) ∧
    (∀ c ∈ [contrib none, contrib (some 0xFFFFFFFF)],
      let s := stUnit [] [(63, c)]
      s.flight.contrib = [(63, c)] ∧ Claim.MayServe s c.src ∧ c.lanes = [(126, 1)] ∧ isScratch c.line = true ∧ 63 = scratchHalf (c.line * 128) ∧
      s.scratchOk c.src c.slice c.line = true ∧ scratchUnit (c.line * 128) ∉ (s.half 63).zeroing ∧ Claim.Quiet s 63 c.line ∧ (s.half 63).pend.length < 4096) ∧
    (contrib none).key = none ∧ (contrib (some 0xFFFFFFFF)).key ≠ none := by
  unfold Claim.MayServe Claim.Quiet; refine ⟨?_, ?_, ?_, ?_, ?_, ?_⟩ <;> decide +kernel

def stHalfR (regs : List (Nat × Nat)) (x : Half) : State := { stOf regs [] [(0, sl0)] with halves := [(63, x)] }
def pf0 : Prefetch :=
  { slice := 0, sid := 0, base := 0, stride := -128, count := 3, ahead := 2, cls := 0, next := 0, touched := none, trained := 0, inflight := [] }

theorem test_meets_LlmUpkeep_events :
    (let s := stHalfR [] { Half.init with lines := [(7, { line0 .m with hold := true })] }
     NMap.find? (s.half 63).lines 7 = some { line0 .m with hold := true } ∧ (∀ p ∈ (s.half 63).pend, p.c.line ≠ 7) ∧ s.fld 0x700000 0 2 = 0 ∧ (line0 .m).policy = 0) ∧
    63 < 64 ∧
    (let x : Thrash := { Thrash.init with acc := 1024, hit := 255 }
     let s := stHalfR [(aLlm 63 0x28, 1 + 1024 * 2 ^ 24), (aLlm 63 0x30, 0xFF * 2 ^ 56)] { Half.init with classes := [(7, x)] }
     7 < 8 ∧ s.fld (aLlm 63 0x28) 0 1 = 1 ∧ s.fld (aLlm 63 0x28) 1 5 ≤ s.punits 63 ∧ bit (s.fld (aLlm 63 0x28) 8 8) 7 = false ∧
     x = NMap.get Thrash.init (s.half 63).classes 7 ∧ x.na = false ∧ s.fld (aLlm 63 0x28) 24 16 ≤ x.acc ∧ 0 < x.acc ∧ 256 * x.hit / x.acc < s.fld (aLlm 63 0x30) (8 * 7) 8) ∧
    ((stHalfR [] { Half.init with zeroing := [31, 4] }).half 63).zeroing = 31 :: [4] ∧
    (∀ q ∈ (stHalfR [] { Half.init with zeroing := [31, 4] }).queues, q.2.waits = []) := by
  refine ⟨?_, ?_, ?_, ?_, ?_⟩ <;> decide +kernel

theorem test_meets_LlmUpkeep_power :
    (stHalfR [(aLlm 63 0x18, 1)] Half.init).fld (aLlm 63 0x18) 0 2 = 1 ∧ (stHalfR [(aLlm 63 0x18, 2)] Half.init).fld (aLlm 63 0x18) 0 2 = 2 ∧
    ((stHalfR [(aLlm 63 0x18, 3)] Half.init).fld (aLlm 63 0x18) 0 2 = 3 ∧ ((stHalfR [(aLlm 63 0x18, 3)] Half.init).half 63).miss = []) ∧
    ((stHalfR [(aLlm 63 0, 1), (aLlm 63 0x18, 0)] Half.init).fld (aLlm 63 0x18) 0 2 = 0 ∧ (stHalfR [(aLlm 63 0, 1), (aLlm 63 0x18, 0)] Half.init).fld (aLlm 63 0) 0 1 = 1) ∧
    (let p : Prefetch := { pf0 with base := 0x3FFFFF80 }
     let s := stHalfR [] { Half.init with pfs := [(31, p)] }
     NMap.find? (s.half 63).pfs 31 = some p ∧ s.switched 63 p.cls = false ∧ p.inflight = [] ∧ p.touched = none ∧ p.next < p.ahead ∧ p.next + 1 < p.count ∧
     s.translate p.slice (wrap 48 ((p.base : Int) + p.stride * (p.next : Nat))) = some (.mem 0x3FFFFF80 page) ∧ s.homeNode (0x3FFFFF80 / 128) = some 13 ∧
     page.policy = 0 ∧ isScratch (0x3FFFFF80 / 128) = false ∧ NMap.find? (s.half 63).lines (0x3FFFFF80 / 128) = none ∧ (s.half 63).miss = [] ∧ (s.half 63).used = [] ∧ s.fld 0x700000 0 2 = 0 ∧
     s.cacheDemand 63 (0x3FFFFF80 / 128) = false ∧ s.stopping 63 = false) := by
  refine ⟨?_, ?_, ?_, ?_, ?_⟩ <;> decide +kernel

/-- Messages on their way, the directory of node 17 and half 63. -/
def stNet (net : List Instr) (x : Node) (h : Half) : State :=
  { State.reset with flight := { llm := [], scr := [], contrib := [], net := net }, nodes := [(17, x)], halves := [(63, h)] }
def lineN : Nat := 0x7FFFFFFFF
def q63 : CohReq := ⟨17, .half 63, 65535, lineN⟩
def dirS : Node := { Node.init with dir := [(lineN, .s [0, 1, 2])] }
def dirX (hold : Bool) : Node := { Node.init with dir := [(lineN, .x 0 7 hold)] }
def dirOwn (hold : Bool) : Node := { Node.init with dir := [(lineN, .x 63 65535 hold)] }

theorem clean_all (s : State) (line : Nat) (h : ∀ i, i < 4 → s.poisoned (4 * line + i) = false) : Claim.Clean s line := h

/-- What every grant asks of the node's state. -/
theorem test_meets_HomeGrants_atHome : ∀ i ∈ [Instr.rds q63, .rdx q63 true, .rdxn q63, .rdna q63, .rdfine q63 3, .wrna q63 [(127, 1)], .putm q63 ⟨[none, none, none, some 9], 0, 8⟩,
      .dropm q63, .holdend q63, .atomRequest q63 ⟨0, 0, 128 * lineN + 124, [(31, 1, 0)]⟩],
    ∀ x ∈ [Node.init, dirS, dirX false, dirOwn true, dirOwn false],
    let s := stNet [i] x Half.init
    Claim.AtHome s i q63 ∧ (∀ j, j < 4 → s.poisoned (4 * q63.line + j) = false) ∧ s.missOf q63 = none ∧ q63.src = .half 63 := by
  unfold Claim.AtHome; decide +kernel

theorem test_meets_HomeGrants_cases :
    (∀ i ∈ [Instr.rds q63, .rdx q63 true, .rdxn q63, .rdna q63, .rdfine q63 3, .wrna q63 [(127, 1)], .dropm q63, .atomRequest q63 ⟨0, 0, 128 * lineN + 124, [(31, 1, 0)]⟩],
      let s := stNet [i] Node.init Half.init
      (s.node q63.node).dir = [] ∧ s.dirOf q63.node q63.line = none) ∧
    (let s := stNet [] dirS Half.init
     s.dirOf q63.node q63.line = some (.s [0, 1, 2]) ∧ 63 ∉ [0, 1, 2] ∧ [0, 1, 2].length < 4) ∧
    ((stNet [] (dirX false) Half.init).dirOf q63.node q63.line = some (.x 0 7 false) ∧ 0 ≠ 63) ∧
    ((stNet [] (dirOwn false) Half.init).dirOf q63.node q63.line = some (.x 63 q63.tag false) ∧
      (let d : LineData := ⟨[none, none, none, some 9], 0, 8⟩; 3 < 4 ∧ d.dirty = 1#4 <<< 3 ∧ d.sec.getD 3 none = some 9 ∧ d.poison = 0)) ∧
    (stNet [] (dirOwn true) Half.init).dirOf q63.node q63.line = some (.x 63 65535 true) ∧
    (let s : State := { stNet [.atomRequest q63 ⟨0, 0, 128 * lineN + 124, [(31, 1, 0)]⟩] Node.init Half.init with regs := [(aCoh 17 8, 2)] }
     Claim.AtHome s (.atomRequest q63 ⟨0, 0, 128 * lineN + 124, [(31, 1, 0)]⟩) q63 ∧ (s.node q63.node).dir = [] ∧ (s.node q63.node).far = [] ∧ s.fld (aCoh q63.node 8) 0 2 = 2) := by
  unfold Claim.AtHome; refine ⟨?_, ?_, ?_, ?_, ?_, ?_⟩ <;> decide +kernel

def fw : Fwd := ⟨17, 63, 5, lineN, .half 0, 9⟩
def lineT : Line := { line0 .m with tag := 5, dirty := 8, sec := [none, some 2, none, some 4] }

theorem test_meets_HalvesAndAnswers_forwards :
    (∀ i ∈ [Instr.fwds fw, .fwdx fw, .fwdrd fw, .recall fw, .fwdop fw (.body (.read 15))],
      let s := stNet [i] Node.init { Half.init with lines := [(lineN, lineT)] }
      Claim.Owned s fw lineT ∧ Claim.Alone s i) ∧
    (let s := stNet [.fwdx fw] Node.init Half.init
     s.lookup fw = .nothing ∧ (s.half fw.half).parked = [] ∧ Claim.Alone s (.fwdx fw)) ∧
    (let s := stNet [.fwdx fw] Node.init { Half.init with miss := [⟨0, 5, lineN, .rdx, [], [], false, 0, false, 0, 0, false, none, 0, none, false⟩] }
     s.lookup fw = .miss ∧ Claim.Alone s (.fwdx fw)) ∧
    (let s := stNet [] Node.init { Half.init with parked := [(lineN, fw, .fwdx)] }
     63 = fw.half ∧ (s.half 63).parked = [(fw.line, fw, .fwdx)] ∧ (s.half 63).miss = [] ∧ s.lookup fw = .nothing) := by
  unfold Claim.Owned Claim.Alone; refine ⟨?_, ?_, ?_, ?_⟩ <;> decide +kernel

def missOne (hold : Bool) : Miss := ⟨63, 5, 0x1FFFFF, .rdx, [], [], hold, 0, false, 0, 0, false, none, 0, none, false⟩

theorem test_meets_HalvesAndAnswers_half :
    (let i := Instr.inv 63 lineN 17 (some (.half 0))
     let s := stNet [i] Node.init { Half.init with lines := [(lineN, line0 .s)] }
     NMap.find? (s.half 63).lines lineN = some (line0 .s) ∧ (line0 .s).st = .s ∧ (s.half 63).windows = [] ∧ (s.half 63).miss = [] ∧ Claim.Alone s i) ∧
    (∀ g ∈ [Granted.s, .e, .m],
      let m := missOne true
      let i := Instr.dataMsg ⟨.half 63, 5, State.reset.homeOf 0x1FFFFF, 0x1FFFFF, g, 0, onesData, none⟩
      let s := stNet [i] Node.init { Half.init with miss := [m] }
      (s.half 63).miss = [m] ∧ m.line = 0x1FFFFF ∧ m.tag = 5 ∧ m.reqs = [] ∧ m.contribs = [] ∧ m.acks = 0 ∧ m.dropped = false ∧ (s.half 63).lines = [] ∧
      (s.half 63).zeroing = [] ∧ s.punits 63 = 0 ∧ s.stopping 63 = false ∧ g ≠ .none ∧ s.homeOf 0x1FFFFF = State.reset.homeOf 0x1FFFFF ∧ Claim.Alone s i) ∧
    (let s := stNet [.grant (.half 63) 5 (State.reset.homeOf 0x1FFFFF) 0x1FFFFF 0] Node.init { Half.init with miss := [missOne false] }
     s.homeOf 0x1FFFFF = State.reset.homeOf 0x1FFFFF ∧ Claim.Alone s (.grant (.half 63) 5 (State.reset.homeOf 0x1FFFFF) 0x1FFFFF 0)) ∧
    (let s := stNet [.ack 0 0x1FFFFF 17 (some (.half 63))] Node.init { Half.init with miss := [missOne false] }
     (s.half 63).miss = [missOne false] ∧ (missOne false).got = none ∧ Claim.Alone s (.ack 0 0x1FFFFF 17 (some (.half 63)))) := by
  unfold Claim.Alone; refine ⟨?_, ?_, ?_, ?_⟩ <;> decide +kernel

def atomReq : LlmReq := { rdReq 0x1FFFFF with body := .atom ⟨0, 0, 128 * 0x1FFFFF + 124, [(31, 1, 0)]⟩ }

theorem test_meets_HalvesAndAnswers_home :
    (let s := stNet [.ack 0 q63.line q63.node none] { Node.init with txns := [⟨q63.line, q63.src, q63.tag, none, 1, false, .write [(127, 1)], false⟩] } Half.init
     Claim.Alone s (.ack 0 q63.line q63.node none) ∧ s.cohMode q63.node = 0 ∧ (s.node q63.node).waits = [] ∧ (s.node q63.node).held = [] ∧
     (s.node q63.node).txns = [⟨q63.line, q63.src, q63.tag, none, 1, false, .write [(127, 1)], false⟩]) ∧
    (let s := stNet [.nodata fw .fwdrd] Node.init Half.init
     Claim.Alone s (.nodata fw .fwdrd) ∧ ∀ i, i < 4 → s.poisoned (4 * fw.line + i) = false) ∧
    (let d : LineData := ⟨[none, none, none, some 9], 0, 8⟩
     let t := { plainTxn ⟨fw.node, fw.src, fw.tag, fw.line⟩ none with data := true }
     let s := stNet [.wbdata fw .fwds d] { Node.init with txns := [t] } Half.init
     Claim.Alone s (.wbdata fw .fwds d) ∧ s.cohMode fw.node = 0 ∧ (s.node fw.node).waits = [] ∧ (s.node fw.node).held = [] ∧ (s.node fw.node).txns = [t] ∧
     3 < 4 ∧ d.dirty = 1#4 <<< 3 ∧ d.sec.getD 3 none = some 9 ∧ d.poison = 0) ∧
    (let s := stNet [.doneMsg (.half 63) 17 lineN] { Node.init with txns := [plainTxn q63 none] } Half.init
     Claim.Alone s (.doneMsg (.half 63) 17 lineN) ∧ s.cohMode 17 = 0 ∧ (s.node 17).waits = [] ∧ (s.node 17).held = [] ∧
     (s.node 17).txns = [plainTxn ⟨17, .half 63, 65535, lineN⟩ none]) ∧
    (let m : Miss := { missOne false with reqs := [atomReq] }
     let s := stNet [.atomret (.half 63) 5 17 0x1FFFFF [(31, 0)] true] Node.init { Half.init with miss := [m] }
     (s.half 63).miss = [m] ∧ m.line = 0x1FFFFF ∧ m.tag = 5 ∧ m.reqs = [atomReq] ∧ m.contribs = [] ∧ atomReq.body = .atom ⟨0, 0, 128 * 0x1FFFFF + 124, [(31, 1, 0)]⟩ ∧
     atomReq.agent = .load 0 0 5 ∧ Claim.Alone s (.atomret (.half 63) 5 17 0x1FFFFF [(31, 0)] true)) ∧
    (let b : WbBuf := ⟨lineN, 5, noData, false, false, false⟩
     let s := stNet [.cmp (.half 63) 5 17 lineN false] Node.init { Half.init with wb := [b] }
     (s.half 63).miss = [] ∧ (s.half 63).wb = [b] ∧ b.line = lineN ∧ b.tag = 5 ∧ Claim.Alone s (.cmp (.half 63) 5 17 lineN false)) := by
  unfold Claim.Alone; refine ⟨?_, ?_, ?_, ?_, ?_, ?_⟩ <;> decide +kernel

def stNode (regs : List (Nat × Nat)) (x : Node) : State := { stOf regs [] [] with nodes := [(17, x)] }

theorem test_meets_NodesSwitchScanAndScrub :
    (let s := stNode [(aCoh 17 0, 2)] { Node.init with next := 1 }
     s.cohMode 17 = 2 ∧ (s.node 17).txns = [] ∧ (s.node 17).waits = [] ∧ s.halves = [] ∧ (s.node 17).next < 2) ∧
    ((stNode [(aCoh 17 0, 2)] Node.init).cohMode 17 = 2 ∧ ((stNode [(aCoh 17 0, 2)] Node.init).node 17).lost = []) ∧
    (let s := stNode [] { dirX true with lost := [0] }
     (s.node 17).lost = [0] ∧ (s.node 17).dir = [(lineN, .x 0 7 true)] ∧ (s.node 17).waits = [] ∧ (s.node 17).held = []) ∧
    (State.reset.place (32 * 0xFFFFFF) = some (4, 7, 0) ∧ 4 < 18) ∧
    (let s := State.reset
     let t : State := { s with regs := [(aMem 4 0x100, 1)] }
     s.poisoned 0xFFFFFF = false ∧ s.detecting 0xFFFFFF = false ∧ t.poisoned 0xFFFFFF = false ∧ t.detecting 0xFFFFFF = true ∧ t.place (32 * 0xFFFFFF) = some (4, 7, 0) ∧
     (badPins ⟨0x100000001, 0, none⟩).length = 1 ∧ (badPins ⟨1, 0x80000000, some 0xFFFFFF⟩).length = 2 ∧ (badPins ⟨7, 0, none⟩).length = 3 ∧
     (let x : BurstRead := ⟨0, 0, some 0xFFFFFE⟩; x.written.getD 0xFFFFFF ≠ 0xFFFFFF) ∧
     ∀ x ∈ [⟨1, 0, none⟩, ⟨0, 0x10000, none⟩, (⟨0, 0, some 0xFFFFFE⟩ : BurstRead)],
       burstCrc (t.memSector (x.written.getD 0xFFFFFF) ^^^ x.data) ((t.sideBits (x.written.getD 0xFFFFFF) ^^^ x.side.toNat) / 2 ^ 16) 0xFFFFFF ≠
         (t.sideBits (x.written.getD 0xFFFFFF) ^^^ x.side.toNat) % 2 ^ 16) ∧
    (17 < 18 ∧ 99 < 100 ∧ thermState ((stNode [] Node.init).fld (aMem 17 8) 2 2) 95 = 2 ∧ (stNode [] Node.init).fld (aMem 17 8) 2 2 ≠ 2) ∧
    (stNode [(aMem 17 8, 2)] Node.init).fld (aMem 17 8) 0 2 = 2 ∧
    ((stNode [] { Node.init with rewriting := [(47, true)] }).node 17).rewriting = [(47, true)] := by
  refine ⟨?_, ?_, ?_, ?_, ?_, ?_, ?_, ?_⟩ <;> decide +kernel

def stLink (x : BLink) : State := State.reset.putLink 0 1 7 x

theorem test_meets_BridgeLinksAndRoutes_links :
    (Claim.IsLink State.reset 0 1 7 ∧ (State.reset.blink 0 1 7).mode ≠ 0 ∧ (State.reset.blink 0 1 7).mode ≠ 3 ∧ (State.reset.blink 0 1 7).replays = [] ∧
      State.reset.windowOf 0 = some 0 ∧ 67 < 68) ∧
    (Claim.IsLink State.reset 59 0 0 ∧ State.reset.windowOf 59 = some 55) ∧
    (let s := stLink ⟨3, 2, 0, BitVec.allOnes 72, []⟩
     Claim.IsLink s 0 1 7 ∧ (s.blink 0 1 7).mode = 3 ∧ (s.blink 0 1 7).was = 2) ∧
    (Claim.IsLink State.reset 0 1 7 ∧ (State.reset.blink 0 1 7).mode ≠ 0 ∧ 71 < 72 ∧ 3 < 8 ∧ 3 ≠ 7 ∧ (State.reset.blink 0 1 3).mode ≠ 0) ∧
    (let s := stLink ⟨2, 2, 0, BitVec.allOnes 72, List.replicate 1024 0⟩
     Claim.IsLink s 0 1 7 ∧ (s.blink 0 1 7).mode ≠ 0 ∧ (s.blink 0 1 7).mode ≠ 3 ∧ 1024 ≤ (s.blink 0 1 7).replays.countP (fun t => decide (s.time.toNat < t + 1000000))) ∧
    (let s := stLink ⟨3, 2, 0, BitVec.allOnes 72, []⟩
     linkMode (BitVec.allOnes 72) = (2, 0) ∧ 2 = (s.blink 0 1 7).was ∧ linkMode 0xF000000000FFFFFFFF = (1, 0) ∧ linkMode 0 = (0, 0) ∧ 1 ≠ (s.blink 0 1 7).was ∧
     0 ≠ (s.blink 0 1 7).was ∧ s.windowOf 0 = some 0 ∧ (s.blink 0 1 3).mode ≠ 0) ∧
    (55 < 56 ∧ 31 < 32 ∧ Claim.ManagerMay State.reset 0 (aDie 55 0x28)) ∧
    facing 0 1 = some (1, 3) ∧ State.reset.mesh.bugleDown = [] := by
  unfold Claim.IsLink Claim.ManagerMay; refine ⟨?_, ?_, ?_, ?_, ?_, ?_, ?_, ?_⟩ <;> decide +kernel

def cRoute : Commit := ⟨1, 0, true, some ⟨[], []⟩, [], none, false⟩

/-- The dies of a module where only two neighbours are left, and a removed die has an edge without links; Bugle routes still reach every
die. -/
def stTwo : State :=
  (List.range 8).foldl (fun s k => s.putLink 20 1 k ⟨0, 0, 0, 0, []⟩) { State.reset with dieState := (List.range 58).map fun d => (d + 2, 7) }

theorem test_meets_BridgeLinksAndRoutes_routes :
    (State.reset.fld (aNet 0) 0 2 = 0 ∧ State.reset.commit = none ∧ State.reset.fld aCommitStatus 0 2 ≠ 1 ∧ stTwo.fld (aNet 0) 0 2 = 0 ∧ stTwo.commit = none ∧
      stTwo.fld aCommitStatus 0 2 ≠ 1) ∧
    stTwo.routesBad ⟨[], []⟩ = none ∧ stTwo.edgeDown = true ∧ State.reset.edgeDown = false ∧
    (let s := { stOf [(aNet 0, 2)] [] [] with commit := some cRoute, mesh := { State.reset.mesh with drained := List.range 60 } }
     s.commit = some cRoute ∧ cRoute.sent = false ∧ s.fld (aNet 0) 0 2 ≠ 0 ∧ (∀ d, d < 60 → NMap.get 0 s.dieState d = 7 ∨ d ∈ s.mesh.drained) ∧ s.flight.net.any onMesh = false) ∧
    (let s := State.reset.putVetch 63 { Vetch.init with done := some (511, 7) }
     s.fld (aNet 0) 0 2 = 0 ∧ (s.vetchOf 63).done.isSome = true) ∧
    Instr.conversionNotice 3 9 ∈ (stNet [.conversionNotice 3 9] Node.init Half.init).flight.net := by
  refine ⟨?_, ?_, ?_, ?_, ?_, ?_, ?_⟩ <;> decide +kernel

theorem test_meets_BroadcastsAndCommitInstant_senders :
    (∀ ty ∈ [1, 2, 3, 4, 5, 6, 0x10, 0x11, 0x12, 0x17, 0x20, 0x21], bugleOk ty (bugleTo ty 58 63) = true ∨ bugleOk ty (bugleTo ty 58 0) = true) ∧
    (bugleOk 0x20 (bugleTo 0x20 0 58) = true ∧ bugleOk 0x21 (bugleTo 0x21 0 58) = true ∧ bugleOk 0x17 (bugleTo 0x17 54 58) = true ∧ 54 ≤ (bugleTo 0x17 54 58).src) := by
  decide +kernel

def cOwn : Commit := ⟨2 ^ 32 - 1, 20, false, none, [], none, true⟩
def cRep : Commit := ⟨2 ^ 32 - 1, 20, true, none, [], some (2 ^ 64 - 1), true⟩

theorem test_meets_BroadcastsAndCommitInstant_commit :
    (let s := { State.reset with time := 20 }
     s.time.toNat ≤ 20 ∧ 19 < s.time.toNat) ∧
    (let s := { State.reset with time := 20, commit := some cOwn, staged := [(0x240000, 1)] }
     s.commit = some cOwn ∧ cOwn.sent = true ∧ cOwn.instant ≤ s.time.toNat ∧ cOwn.repair = false ∧ cOwn.epoch < 2 ^ 32 ∧ s.staged = [(0x240000, 1)] ∧ s.stagedMesh = none ∧
     s.repairs = []) ∧
    (let s := { State.reset with time := 20, commit := some cRep }
     s.commit = some cRep ∧ cRep.sent = true ∧ cRep.instant ≤ s.time.toNat ∧ cRep.repair = true ∧ cRep.epoch < 2 ^ 32 ∧ cRep.moves = [] ∧ cRep.routes = none ∧
     cRep.mask = some (2 ^ 64 - 1) ∧ 2 ^ 64 - 1 < 2 ^ 64 ∧ s.repairs = [] ∧ s.commitState = 0) := by
  refine ⟨?_, ?_, ?_⟩ <;> decide +kernel

theorem test_meets_BroadcastsAndCommitInstant_rest :
    (59 < 60 ∧ State.reset.fld (aNet 0) 0 2 = 0 ∧ State.reset.commit = none) ∧
    (State.reset.present 31 = true ∧ 2 * ((State.reset.diePower 31).loans + 2047) ≤ (State.reset.diePower 31).watts) ∧
    (5 ≠ State.reset.fld (aPwr 0x20) 24 16) ∧ (State.reset.notices = [] ∧ 2 ^ 15 - 1 < 2 ^ 15 ∧ 0 < 2 ^ 11 - 1 ∧ 2 ^ 11 - 1 < 2 ^ 11) ∧
    (let r : ErrReport := ⟨4, 15, 2 ^ 16 - 1, 3, 1, some 63, none, 0, .nothing⟩
     r.sev < 8 ∧ r.block < 16 ∧ r.code < 2 ^ 16 ∧ r.found = .nothing ∧ ∀ x, r.slice = some x → x < 64) ∧
    (let s := stNet [] { Node.init with far := [7, 5] } Half.init
     5 ∈ (s.node 17).far ∧ 17 < 18) ∧
    (let s := { stOf [(aCq 511 0, 1)] [] [] with queues := [(511, { Queue.init with items := [⟨0, 3, 9, none, .tail, false⟩] })] }
     511 < 512 ∧ s.qEn 511 = true ∧ (∃ i ∈ (s.queue 511).items, i.no = 9 ∧ i.poison = false) ∧ 15 < 16) := by
  refine ⟨?_, ?_, ?_, ?_, ?_, ?_, ?_⟩
  case refine_5 => exact ⟨by decide, by decide, by decide, by decide, fun x h => by cases h; decide⟩
  all_goals decide +kernel

/-- An item from its fields: low bit and value. -/
def itm (fs : List (Nat × Nat)) : Item := BitVec.ofNat 512 ((fs.map fun f => f.2 * 2 ^ f.1).sum)
def itmQ (w : Item) : QItem := ⟨w, 3, 9, none, .tail, false⟩
/-- The Vetch engine of half 63 with queue 511 for slice 0, which holds unit 31 of that half. -/
def stV (its : List QItem) (v : Vetch) : State :=
  { stOf [(0x200000, 1), (0x200040, 0x10000), (0x200400, 0x87FF), (0x507FC0, 1), (aVetch 63 0, 0xFF81), (aVetch 63 8, 1), (0x2100008, 1)] [] [(0, sl0)] with
    queues := [(511, qOf its)], vetch := [(63, v)] }
def vRoute : Item := itm [(0, 1), (64, 1), (80, 511), (96, 7), (160, 1), (224, 1), (256, 4), (288, 16), (320, 1), (352, 1)]
def vBad : Item := itm [(0, 1), (80, 511), (96, 7)]
def vRes : Item := itm [(0, 9), (80, 511), (96, 7)]
def vComb : Item := itm [(0, 2), (32, 1), (64, 1), (80, 511), (160, 4), (192, 63), (256, 4)]
def vCombBad : Item := itm [(0, 2), (80, 511), (160, 4)]
def vStat (clr : Nat) : Item := itm [(0, 3), (8, clr), (80, 511), (96, 7)]

theorem test_meets_VetchCommandsEnd_has : ∀ x ∈ [(vRoute, 0), (vBad, 0), (vRes, 0), (vComb, 0), (vCombBad, 0), (vStat 0, 0), (vStat 1, 0)],
    Claim.VetchHas (stV [itmQ x.1] Vetch.init) 63 511 x.1 := by
  intro w hw
  refine ⟨?_, ?_, ?_, ?_, ?_, ?_, ?_, ?_, ?_, ⟨3, 9, ?_⟩, ?_, ?_, ?_⟩ <;> revert w <;> decide +kernel

theorem test_meets_VetchCommandsEnd_ops :
    (ifld vRoute 0 8 = 1 ∧ (stV [] Vetch.init).routeCheck 0 63 vRoute = 0 ∧ (((stV [] Vetch.init).routeRun 0 63 vRoute).2.2 = .status 0 0)) ∧
    (ifld vBad 0 8 = 1 ∧ (stV [] Vetch.init).routeCheck 0 63 vBad ≠ 0) ∧ (ifld vRes 0 8 ≠ 1 ∧ ifld vRes 0 8 ≠ 2 ∧ ifld vRes 0 8 ≠ 3) ∧
    (let s := stV [] { Vetch.init with lists := [(4, 1)] }
     ifld vComb 0 8 = 2 ∧ NMap.find? (s.vetchOf 63).lists (ifld vComb 160 32) = some 1 ∧ s.combineCheck 0 63 1 vComb = 0 ∧ (s.combineRun 0 63 1 vComb).2.2 = .status 0 0 ∧
     ifld vCombBad 0 8 = 2 ∧ NMap.find? (s.vetchOf 63).lists (ifld vCombBad 160 32) = some 1 ∧ s.combineCheck 0 63 1 vCombBad ≠ 0) ∧
    (∀ c ∈ [0, 1], ifld (vStat c) 0 8 = 3 ∧ ifld (vStat c) 9 71 = 0 ∧ ifld (vStat c) 89 7 = 0 ∧ ifld (vStat c) 128 384 = 0 ∧ ifld (vStat c) 8 1 = c) ∧
    (∀ l ∈ [tails 15, full], let s := stV l { Vetch.init with done := some (511, vRes) }
      (s.vetchOf 63).done = some (511, vRes) ∧ s.flight.net = [] ∧ s.qEn 511 = true ∧ s.qFailed 511 = false ∧ (s.queue 511).waits = []) ∧
    (let s := stV (tails 15) Vetch.init; (s.queue 511).items.length < s.qCap 511 ∧ s.qZeroing 511 = false ∧ Claim.TailRoom (s.queue 511) 1) ∧
    (let s := stV full Vetch.init; s.qCap 511 ≤ (s.queue 511).items.length) := by
  unfold Claim.TailRoom; refine ⟨?_, ?_, ?_, ?_, ?_, ?_, ?_, ?_⟩ <;> decide +kernel

/-- A ring of two modules in dimension 0 with port 0 up; slice 0 has job 5. -/
def stL (regs : List (Nat × Nat)) (q : Queue) : State :=
  { stOf ([(0x200000, 1), (0x200008, 0x1000005), (0x200400, 0x87FF), (0x507FC0, 1), (0x600000, 1)] ++ regs ++ [(0x600100, 1), (0x600108, 2), (0x2100008, 1)]) [] [(0, sl0)] with
    queues := [(511, q)] }
def pkt (ty addr key : Nat) (bs : List Byte) : Packet :=
  { ty := ty, vc := 0, kidx := 0, seq := 0, ack := 65535, xp := 0, src := 1, dst := 0, job := 5, gen := 0, opid := 8, addr := addr, key := key, hops := 0, payload := bs }
def pTwo (ty addr key : Nat) : Packet := pkt ty addr key [1, 2]

theorem test_meets_LinkPacketsArrive_slice :
    (∀ p ∈ [pTwo 1 (2 ^ 22 - 2) 0, pTwo 2 (2 ^ 22 - 256) 256, pTwo 4 126 7, pTwo 5 511 3], Claim.ForSlice (stL [] (qOf (tails 15))) 0 p 0 0) ∧
    (let s := stL [] (qOf (tails 15))
     s.scratchPa 0 (2 ^ 22 - 2) = some (scratchAddr 63 31 (2 ^ 22 - 2)) ∧ (2 ^ 22 - 2) % 2 ^ 22 + 2 ≤ 2 ^ 22 ∧ s.scratchPa 0 (2 ^ 22 - 256) = some (scratchAddr 63 31 (2 ^ 22 - 256)) ∧
     (2 ^ 22 - 256) % 2 ^ 22 + 256 ≤ 2 ^ 22 ∧ s.scratchPa 0 (126 % 2 ^ 46) = some (scratchAddr 63 31 126) ∧ 126 % 128 + 2 ≤ 128 ∧
     511 = 511 % 512 ∧ s.qAllowed 511 0 true = true ∧ s.qEn 511 = true ∧ s.qFailed 511 = false ∧ (s.queue 511).waits = [] ∧ s.qZeroing 511 = false ∧ (pTwo 5 511 3).payload.length ≤ 64 ∧
     Claim.TailRoom (s.queue 511) 1 ∧ (s.queue 511).items.length + 1 ≤ s.qCap 511) := by
  constructor
  · intro p hp
    refine ⟨⟨?_, ?_, ?_, ?_, ?_⟩, ?_, ?_, ?_, ⟨0, ?_⟩, ?_, ?_⟩ <;> revert p <;> decide +kernel
  · unfold Claim.TailRoom; decide +kernel

theorem test_meets_LinkPacketsArrive_order :
    (let s := stL [] Queue.init
     0 < 16 ∧ s.portUp 0 = true ∧ { pTwo 1 0 0 with seq := 65535 }.seq ≠ (s.portSt 0).rx ∧ s.keyOk 0 { pTwo 1 0 0 with kidx := 1 } = false) ∧
    (∀ o ∈ [(-2 : Int), 0, 2], ∀ n ∈ [0, 15], let s := { stL [(aLnk 0x28, 0)] Queue.init with syncs := n }
      Claim.LinkIn s 0 (pkt 9 0 0 []) ∧ s.parentPort = some 0 ∧ s.phase = .ready ∧ o.natAbs ≤ 2) := by
  unfold Claim.LinkIn; decide +kernel

def remPush : Remote := ⟨7, .push 0 0, 0, 0, 1, 8, 0, pkt 5 0 (8 * 63) [], false, none⟩
def remGet : Remote := ⟨7, .get 0 1 0 256, 0, 0, 1, 8, 0, pkt 2 0 256 [], false, none⟩
def grpR : Group := { grp with ents := [(0, path 0x100 allLanes (.queue 7))] }
def runGet : MvRun := { runMv none with waits := [7, 8] }

theorem test_meets_LinkPacketsArrive_answers :
    (let s : State := { stL [] Queue.init with cores := [(0, { cor with groups := [(0, grpR)] })], remotes := [remPush], time := 200000000 }
     (∀ p ∈ [pkt 6 0 1 [], pkt 7 0 0 []], Claim.LinkIn s 0 p ∧ Claim.Awaited s p remPush 0 0 0 grpR { pc := 0x100, mask := allLanes, wait := .queue 7, since := 0, point := none, fence := none } ∧
       bit p.addr 35 = false) ∧ s.time.toNat ≥ remPush.since + 1000000 * s.fld (aLnk 8) 0 7) ∧
    (let s : State := { stL [] Queue.init with cores := [(0, corMv [] [runGet])], remotes := [remGet] }
     let p := pTwo 3 0 0
     Claim.LinkIn s 0 p ∧ s.remotes = [remGet] ∧ remGet.dst = p.src ∧ remGet.opid = p.opid ∧ remGet.answer = none ∧ remGet.gen = s.gen remGet.slice ∧ p.gen = remGet.gen ∧
     remGet.kept = false ∧ remGet.kind = .get 0 1 0 256 ∧ s.awaiting 0 1 remGet.id = some 0 ∧ s.mvRun? 0 1 0 = some runGet ∧ runGet.waits = [remGet.id, 8]) := by
  refine ⟨⟨?_, by decide +kernel⟩, by unfold Claim.LinkIn; decide +kernel⟩
  intro p hp
  refine ⟨⟨?_, ?_, ?_, ?_, ?_⟩, ⟨?_, ?_, ?_, ?_, ?_, ?_, ?_, ?_, ?_, ?_, ?_, ?_, fun k _ h => absurd h (Nat.not_lt_zero k)⟩, ?_⟩ <;> revert p <;> decide +kernel

theorem test_meets_LinkPortsAndEngines_ports :
    (let s := { stL [] Queue.init with ports := [(0, { Port.init with fails := [0, 0, 0] })] }
     s.portUp 0 = true ∧ (s.portSt 0).replays = (0, 0) ∧ (s.portSt 0).fails.length < 4) ∧
    (let s := stOf [(aPort 15 0, 1), (0x2100008, 1)] [] []
     15 < 16 ∧ s.fld (aPort 15 0) 0 1 = 1 ∧ s.portUp 15 = false ∧ (s.portSt 15).sent = [] ∧ Claim.ManagerMay s 0 (aPort 15 0)) ∧
    (∀ x ∈ [(0, 1, 2), (15, 2 ^ 15 - 1, 15)], let s := stOf [(0x600000, 1), (aPort x.1 8, 1), (0x2100008, 1)] [] []
      x.1 < 16 ∧ s.fld (aPort x.1 8) 0 2 = 1 ∧ s.fld (aPort x.1 0) 1 2 = 0 ∧ s.cabled x.1 x.2.1 x.2.2 = true ∧ x.2.1 < 2 ^ 15 ∧ x.2.2 < 16) ∧
    (let s := stOf [(aPort 15 8, 1)] [] []
     15 < 16 ∧ s.fld (aPort 15 8) 0 2 = 1 ∧ ∀ m ∈ [Medium.other, .passive 21, .active 61, .optical 59], Medium.ok (PortTest.mk 255 m).medium = false) ∧
    (∀ m ∈ [Medium.passive 20, .active 60, .optical 1000], Medium.ok m = true) ∧
    (∀ x ∈ [0, 1], let s := stL [(aLnk 0x28, x * 2 ^ 9)] Queue.init
      s.parentPort = some 0 ∧ s.fld (aLnk 0x28) 9 1 = x) ∧
    (let s := { stOf [(aSec 0, 0x20), (aPort 15 8, 2), (0x2100008, 1)] [] [] with ports := [(15, { Port.init with trained := true })] }
     (s.portSt 15).trained = true ∧ s.fld (aSec 0) 5 1 = 1 ∧ s.fld (aSec 0) 0 2 ≠ 2 ∧ (s.portSt 15).session = none ∧ s.portUp 15 = true) := by
  unfold Claim.ManagerMay; refine ⟨?_, ?_, ?_, ?_, ?_, ?_, ?_⟩ <;> decide +kernel

theorem test_meets_LinkPortsAndEngines_notices :
    (∀ x ∈ [0, 1000], let s := stOf [(aLnk 0x18, 1), (aLnk 0x20, x), (0x2100008, 1)] [] []
      s.fld (aLnk 0x18) 0 1 = 1 ∧ s.heldLow = none ∧ s.fld (aLnk 0x20) 0 11 = x) ∧
    (let s := stOf [(aPwrHalf 63, 1799 + 2 ^ 13), (aLnk 0x18, 1 + 1800 * 2 ^ 13), (0x2100008, 1)] [] []
     s.fld (aLnk 0x18) 0 1 = 1 ∧ s.heldLow = some (1799, 4) ∧ 1799 < 2 ^ 11) ∧
    (let s := { State.reset with notices := [(5, 1000, 7)], time := 2000007 }
     s.notices = [(5, 1000, 7)] ∧ 7 + 2000000 ≤ s.time.toNat) := by
  refine ⟨?_, ?_, ?_⟩ <;> decide +kernel

/-- The link engine of slice 0 with queue 511. -/
def stE (own : Nat) (w : Item) : State :=
  { stOf [(0x200000, 1), (0x200008, 0x1000005), (0x200040, 0x10000), (0x200400, 0x87FF), (0x500040, 10), (0x507FC0, 1), (0x600000, own), (0x600108, 2), (aLnk 0x400, 511 * 8 + 1), (0x2100008, 1)]
      [] [(0, sl0)] with
    queues := [(511, qOf [itmQ w])] }
def eStat (clr : Nat) : Item := itm [(0, 3), (8, clr), (80, 1)]
def eAdd : Item := itm [(0, 1), (12, 1), (32, 9), (64, 1), (80, 1), (128, 128), (160, 2 ^ 15 - 1), (192, 4)]
def eColl (n : Nat) : Item := itm [(0, 2), (14, n), (80, 1), (128, 128), (160, 2 ^ 15 - 1), (192, 4), (320, 0xFFFFFFFF)]

theorem test_meets_LinkPortsAndEngines_has :
    (∀ x ∈ [(1, eStat 0), (1, eStat 1), (1, eAdd), (0, eColl 1)], Claim.EngineHas (stE x.1 x.2) 0 511 x.2) := by
  intro x hx
  refine ⟨?_, ?_, ?_, ?_, ?_, ?_, ⟨3, 9, ?_⟩, ?_, ?_⟩ <;> revert x <;> decide +kernel

theorem test_meets_LinkPortsAndEngines_ops :
    (∀ c ∈ [0, 1], ifld (eStat c) 0 8 = 3 ∧ ifld (eStat c) 8 1 = c ∧ (stE 1 (eStat c)).qAllowed (ifld (eStat c) 80 9) 0 true = false) ∧
    (let s := stE 1 eAdd
     ifld eAdd 0 8 = 1 ∧ cmdClean eAdd = true ∧ ifld eAdd 128 32 = 128 ∧ s.scratchPa 0 (128 * ifld eAdd 160 32) = some (scratchAddr 63 31 (2 ^ 22 - 128)) ∧
     ifld eAdd 64 16 < 2 ^ 15 ∧ s.wayOut (100 + s.engineDie 0) (ifld eAdd 64 16) = some (0, 0) ∧ s.halves = [] ∧ s.flight.net = []) ∧
    (let w := eColl 1
     let s := stE 0 w
     ifld w 0 8 = 2 ∧ cmdClean w = true ∧ ifld w 8 4 = 0 ∧ ifld w 14 3 = 1 ∧ s.ring 0 = 1 ∧ ifld w 128 32 = 128 ∧ ifld w 320 32 = 0xFFFFFFFF ∧
     ifld w 32 32 = (s.engineOf 0).seq ∧ s.scratchPa 0 (collIn w 0) = some (scratchAddr 63 31 (2 ^ 22 - 128)) ∧ s.scratchPa 0 (collRes w 0) = some (scratchAddr 63 31 512) ∧
     s.qAllowed (ifld w 80 9) 0 true = false ∧ s.halves = [] ∧ s.flight.net = []) ∧
    (let w := eColl 1
     let s := { stE 1 w with engines := [(0, { LinkEngine.init with cmd := some (w, 0), arrived := [(0, 128)] })] }
     (s.engineOf 0).cmd = some (w, 0) ∧ ifld w 0 8 = 2 ∧ ifld w 8 4 = 0 ∧ 0 = 4 * 0 + ifld w 32 32 % 4 ∧ (collDims w).length = 0 + 1 ∧ ifld w 320 32 = 0xFFFFFFFF ∧
     s.qAllowed (ifld w 80 9) 0 true = false ∧ s.sliceZeroing 0 = false ∧ (s.ring ((collDims w).getD 0 0) - 1) * ifld w 128 32 ≤ NMap.get 0 (s.engineOf 0).arrived 0) := by
  refine ⟨?_, ?_, ?_, ?_⟩ <;> decide +kernel

def stJob (bells : List (Nat × W64)) : State := stOf [(0x200000, 1), (0x200040, 0x10000)] [] [(0, { sl0 with bells := bells })]

theorem test_meets_HostPortsAct_doorbell :
    (let s := stJob (List.replicate 7 (15, 1))
     Claim.TenantMay s 0 (some 0) 0 ∧ 15 < 16 ∧ s.jobOf 0 = 1 ∧ (s.slice 0).bells.countP (fun b => b.1 == 15) < 8) ∧
    (let s := stReg [(0x200000, 1)]
     Claim.TenantMay s 0 (some 0) 0 ∧ s.jobOf 0 ≠ 1) := by
  unfold Claim.TenantMay; refine ⟨?_, ?_⟩ <;> decide +kernel

def readM (gen : Nat) : HostRead := ⟨7, .mover 0 1 7, 0, gen, 1, 4096, 64⟩

theorem test_meets_HostPortsAct_reads :
    (let s := { stCore (corMv [] [runGet]) with hostReads := [readM 0] }
     Claim.MoverReads s (readM 0) 0 1 0 8 runGet) ∧
    (let s := { stCore (corMv [] [runGet]) with hostReads := [readM 1] }
     s.hostReads = [readM 1] ∧ (readM 1).gen ≠ s.gen (readM 1).slice ∧ (s.host (readM 1).port).invals = []) ∧
    (({ State.reset with hosts := [(1, { HostPort.init with covered := [3], waiting := [4] })] } : State).host 1).covered ≠ [] ∧
    (let s := { State.reset with hostReads := [readM 0] }
     1 < 2 ∧ (s.host 1).invals = [] ∧ (∀ r ∈ s.hostReads, r.port ≠ 1 ∨ r.slice ≠ 0 ∨ 4096 ≤ r.addr ∨ r.addr + r.len ≤ 0) ∧
     s.hostReads = [readM 0] ∧ (readM 0).port = 1 ∧ (readM 0).slice = 0 ∧ (readM 0).addr < 4095 + 2 ∧ 4159 < (readM 0).addr + (readM 0).len) := by
  unfold Claim.MoverReads; refine ⟨?_, ?_, ?_, ?_⟩ <;> decide +kernel

theorem test_meets_HostPortsAct_links :
    (∀ p ∈ [0, 1], let s := stOf [(0x100, 0x180), (aHpStatus 0, 2), (aHpStatus 1, 2), (0x2100008, 1)] [] []
      p < 2 ∧ Claim.NoSlices s p ∧ s.fld (aHpStatus p) 0 2 ≠ 0 ∧ Claim.Clocked s p) ∧
    (2 < 3 ∧ 3 < 4) ∧
    (let s := { stOf [(aOwner, 4), (aHpStatus 1, 2), (0x2100008, 1)] [] [] with time := 1000000000 }
     0 < 2 ∧ s.fld aOwner 19 2 = 0 ∧ s.fld aOwner 2 1 = 1 ∧ s.fld (aHpStatus 0) 0 2 = 0 ∧ s.fld (aHpStatus (1 - 0)) 0 2 = 2 ∧ (s.host 0).down + 1000000000 ≤ s.time.toNat) ∧
    (∀ b ∈ [true, false], let s := { State.reset with hosts := [(1, { HostPort.init with streams := [(4, (1, b))] })] }
      1 < 2 ∧ 4 < 5 ∧ NMap.get (0, false) (s.host 1).streams 4 = (1, b)) ∧
    (∀ t ∈ [0, 1], (stOf [(aHpStatus 1, t * 2 ^ 10)] [] []).fld (aHpStatus 1) 10 2 = t) := by
  unfold Claim.NoSlices Claim.Clocked; refine ⟨?_, ?_, ?_, ?_, ?_⟩ <;> decide +kernel

def stSpdm (step : Nat) (l : List Session) : State := { State.reset with hosts := [(1, { HostPort.init with spdm := step, sessions := l })] }
def session (o : Bool) : Session := ⟨9, [1, 2], o, 0⟩

theorem test_meets_SpdmRequestsAnswered :
    (∀ k ∈ [0, 1, 2, 3], Claim.SpdmAt (stSpdm k []) 1 k) ∧ 1 < 2 ∧ Claim.Signs (stSpdm 3 []) ∧ (0 < 1 ∧ 1 ≤ 16) ∧ (0 < 16 ∧ 16 ≤ 16) ∧
    (let s := stSpdm 3 [session true, session true, session true]; Claim.SpdmAt s 1 3 ∧ Claim.Signs s ∧ (s.host 1).sessions.length < 4) ∧
    (∀ o ∈ [true, false], Claim.OneSession (stSpdm 3 [session o]) 1 (session o) ∧ (session o).open_ = o) ∧ 4 < 5 := by
  unfold Claim.OneSession Claim.SpdmAt Claim.Signs; refine ⟨?_, ?_, ?_, ?_, ?_, ?_, ?_, ?_⟩ <;> decide +kernel

theorem test_meets_RegistersReadAndWritten_reads :
    (∀ h ∈ [0, 1], ∀ a ∈ [aHpCnt 0, aHpCnt 1, 0x1000C0, 0x1010C0, aErr 0, aCoh 17 8, aLnk 8, aPwr 0x10], Claim.Reaches State.reset h a) ∧
    (State.reset.owns 0 = true ∧ State.reset.owns 1 = false) ∧ NMap.get [] { State.reset with events := [(1, [5, 6])] }.events 1 = 5 :: [6] ∧
    (17 < 18 ∧ 2 < 3) ∧
    (∀ x ∈ [(0x10, 4), (0x14, 8), (0x2100000, 1)], x.1 < 2 ^ 28 ∧ State.reset.responds x.1 = true ∧ State.reset.absentAt x.1 = false ∧ x.2 ≤ 8 ∧ (x.2 ≠ 8 ∨ x.1 % 8 ≠ 0)) ∧
    (0xFFFFFF8 < 2 ^ 28 ∧ State.reset.responds 0xFFFFFF8 = true ∧ State.reset.absentAt 0xFFFFFF8 = false ∧ 0xFFFFFF8 % 8 = 0 ∧ regFields 0xFFFFFF8 = []) ∧
    (∀ o ∈ [0x8000, 0xFFF8], Claim.TenantMay (stReg [(0x200000, 1)]) 0 (some 0) 0 ∧ 0x8000 ≤ o ∧ o < 0x10000 ∧ o % 8 = 0) := by
  unfold Claim.Reaches Claim.TenantMay; refine ⟨?_, ?_, ?_, ?_, ?_, ?_, ?_⟩ <;> decide +kernel

theorem test_meets_RegistersReadAndWritten_writes :
    (∀ v ∈ [1, 100, 2 ^ 64 - 28], v < 2 ^ 64 ∧ 1 ≤ v % 128 ∧ v % 128 ≤ 100) ∧ (∀ v ∈ [0, 101, 2 ^ 64 - 1], v < 2 ^ 64 ∧ (v % 128 = 0 ∨ 100 < v % 128)) ∧
    (State.reset.fld aCommitStatus 0 2 = 0 ∧ (let s := stOf [(aCommitStatus, 2)] [] []
      s.fld aCommitStatus 0 2 ≠ 0 ∧ Claim.Reaches s 0 (aPwr 0x10) ∧ s.owns 0 = true)) ∧
    (∀ a ∈ [0x101000, 0], Claim.Reaches State.reset 0 a ∧ (a < 0x100000 + 0x1000 * 1 ∨ 0x101000 + 0x1000 * 1 ≤ a) ∨ a = 0x101000) ∧
    (Claim.Reaches State.reset 1 (aPwr 0x10) ∧ State.reset.owns 1 = false ∧ 0x101000 + 0x1000 * 1 ≤ aPwr 0x10) ∧ (Claim.Reaches State.reset 1 0x10 ∧ 0x10 < 0x100000 + 0x1000 * 1) ∧
    (let s := stOf [(aHpStatus 1, 0x800), (0x2100008, 1)] [] []
     1 < 2 ∧ s.phase = .ready ∧ NMap.get 0 (s.host 1).cfg 8 ≠ BitVec.ofNat 64 (0x10000 % 2 ^ 64 / 2 ^ 16 * 2 ^ 16) ∧ s.fld (aHpStatus 1) 10 2 = 2) ∧
    Claim.TenantMay (stReg [(0x200000, 1)]) 0 (some 0) 0 := by
  unfold Claim.Reaches Claim.TenantMay; refine ⟨?_, ?_, ?_, ?_, ?_, ?_, ?_, ?_⟩ <;> decide +kernel

/-- Host port 0 owns the module and maps window 63 to module 1, which its port 0 reaches. -/
def stPod : State := stL [(aLnk 0x28, 0)] Queue.init
def stMap : State := { stPod with regs := NMap.put stPod.regs 0x105F8 0x8001 }
def tun (addr : Nat) (bs : List Byte) : Packet := { pkt 10 addr 0 bs with job := 0 }

theorem test_meets_RegistersReadAndWritten_bus :
    (∀ n ∈ [1, 7, 255], let s := { State.reset with i3c := ⟨some 8, n⟩ }
      Claim.OnBus s ∧ s.i3c.index = n) ∧
    (let s := stMap
     let o := 2 ^ 34 - 8
     0 < 2 ∧ o < 2 ^ 34 ∧ 8 ≤ 8 ∧ s.phase = .ready ∧ s.owns 0 = true ∧ bits (s.reg (0x10400 + 8 * (o / 2 ^ 28))) 0 15 = 1 ∧ bit (s.reg (0x10400 + 8 * (o / 2 ^ 28))) 15 = true ∧
     1 ≠ s.ownModule ∧ (s.host 0).tunnels = [] ∧ s.wayOut (46 + s.actDie) 1 = some (0, 0)) ∧
    (let s := { State.reset with hosts := [(1, { HostPort.init with tunnels := [(3, 1, 5, none)] })], time := 10000005 }
     1 < 2 ∧ (s.host 1).tunnels = [(3, 1, 5, none)] ∧ 5 + 10000000 ≤ s.time.toNat) := by
  unfold Claim.OnBus; refine ⟨?_, ?_, ?_⟩ <;> decide +kernel

theorem test_meets_RegistersReadAndWritten_tunnel :
    (let p := tun 0 []; Claim.LinkIn stPod 0 p ∧ bit p.addr 35 = false) ∧
    (let p := tun (tunnelAddr 0 8 2 1) [1]
     let s := { stPod with hosts := [(1, { HostPort.init with tunnels := [(8, 1, 5, none)] })] }
     Claim.LinkIn s 0 p ∧ bit p.addr 35 = true ∧ bits p.addr 32 2 = 2 ∧ (s.host (bits p.addr 34 1)).tunnels = [(p.opid, p.src, 5, none)]) ∧
    (∀ v ∈ [(1, 0), (100, 1)], let p := tun (tunnelAddr (aLnk 8) 8 1 v.2) (leBytes 8 v.1)
      let s := { stPod with regs := NMap.put stPod.regs aOwner (BitVec.ofNat 64 (2 * 2 ^ 19 + 1 * 2 ^ 3 + v.2 * 2 ^ 18)) }
      Claim.LinkIn s 0 p ∧ bit p.addr 35 = true ∧ bits p.addr 32 2 = 1 ∧ bits p.addr 28 4 = 8 ∧ bits p.addr 0 28 = aLnk 8 ∧ s.phase = .ready ∧ s.fld aOwner 19 2 = 2 ∧
      s.fld aOwner 3 15 = p.src ∧ s.fld aOwner 18 1 = bits p.addr 34 1 ∧ 1 ≤ leNat (p.payload.take 8) % 128 ∧ leNat (p.payload.take 8) % 128 ≤ 100) := by
  unfold Claim.LinkIn; refine ⟨?_, ?_, ?_⟩ <;> decide +kernel

/-- A module whose port 0 owner has written the words of a mailbox command; slice 0 exists. -/
def stMb (args : List Nat) (regs : List (Nat × Nat)) (m : Manager) : State :=
  { stOf (args.zipIdx.map (fun a => (0x100000 + 8 * a.2, a.1)) ++ regs ++ [(0x2100008, 1)]) [] [(0, sl0)] with mgr := m }
def mg0 : Manager := State.reset.mgr
def slice0 : List (Nat × Nat) := [(0x200000, 1)]
/-- Unit 11 of the south side of MN17. -/
def unit : Nat := 17 * 1024 + 512 + 11

theorem test_meets_MailboxCommands_may : (∀ a ∈ [[], [5], [53], [0], [31], [3, 1]], Claim.MailboxMay (stMb a [] mg0) 0 ∧ (stMb a [] mg0).fld aCommitStatus 0 2 = 0) := by
  unfold Claim.MailboxMay; decide +kernel

theorem test_meets_MailboxCommands_update :
    (∀ c ∈ [1, 3, 4, 5], (stMb [c] [] mg0).mgr.update = none ∧ (stMb [c] [] mg0).arg 0 0 ∈ [1, 3, 4, 5]) ∧
    (let s := stMb [5] [] { mg0 with update := some (5, 0) }; Claim.MailboxMay s 0 ∧ s.mgr.update.isSome = true ∧ s.mgr.update = some (5, 0)) ∧
    (let s := stMb [] [(aSec 0, 0x38)] mg0
     Claim.MailboxMay s 0 ∧ s.mgr.changes = [] ∧ NMap.get 0 s.dieState (59 - s.acting) = 0 ∧ s.fld (aSec 0) (4 - s.acting) 1 = 1) ∧
    (∀ l ∈ [[], [1]], let s := stMb [] [] { mg0 with changes := l }
      s.phase = .ready ∧ s.mgr.probation = none ∧ NMap.find? s.sec.spares (1 - s.acting) = some 1 ∧ s.mgr.changes = l ∧ NMap.get 0 s.dieState (59 - s.acting) = 0) ∧
    (let s := { stMb [] [] mg0 with dieState := [(59, 2)] }; NMap.find? s.sec.spares (1 - s.acting) = some 1 ∧ NMap.get 0 s.dieState (59 - s.acting) = 2) ∧
    (let s := { stMb [] [] { mg0 with probation := some 5 } with time := 60000000005 }; s.mgr.probation = some 5 ∧ 5 + 60000000000 ≤ s.time.toNat) := by
  unfold Claim.MailboxMay; refine ⟨?_, ?_, ?_, ?_, ?_, ?_⟩ <;> decide +kernel

theorem test_meets_MailboxCommands_dies :
    (∀ x ∈ [(0, 0), (31, 31), (53, 57)], let s := stMb [x.1] [] mg0
      s.arg 0 0 = x.1 ∧ x.1 < 54 ∧ x.2 = s.dieOfWindow x.1 ∧ x.2 < 58 ∧ NMap.get 0 s.dieState x.2 = 0 ∧ ∀ i, i < 58 → NMap.get 0 s.dieState i ≠ 6) ∧
    (∀ r ∈ [[], [33]], let s := { stMb [31] [] mg0 with reserves := r }
      Claim.MailboxMay s 0 ∧ s.arg 0 0 = 31 ∧ s.present 31 = true ∧ 31 = s.sites.getD 31 99 ∧ NMap.get 0 s.dieState 31 = 0 ∧ s.mgr.changes = [] ∧ s.reserves = r ∧ s.mgr.recal = []) ∧
    (∀ x ∈ [(0, 0), (0, 7), (1, 7)], let s := { stMb [3, x.1] [] mg0 with dieState := [(57, x.2)] }
      Claim.MailboxMay s 0 ∧ s.arg 0 0 = 3 ∧ NMap.get 0 s.dieState (54 + 3) ≠ 6 ∧ s.arg 0 1 = x.1 ∧ s.pdDown 3 = (x.2 == 7)) ∧
    Claim.PdFree (stMb [3] [(aPort 1 0, 0), (aPort 5 0, 0), (aPort 9 0, 0), (aPort 15 0, 0)] mg0) 3 := by
  unfold Claim.MailboxMay Claim.PdFree; refine ⟨?_, ?_, ?_, ?_⟩ <;> decide +kernel

theorem test_meets_MailboxCommands_security :
    (stMb [] [] mg0).sec.akey.isSome = true ∧
    (let s := stMb [] [] mg0; let s : State := { s with sec := { s.sec with akey := none } }; Claim.MailboxMay s 0 ∧ s.sec.akey = none) ∧
    (let s := stMb [] [(aSec 0, 1)] mg0; let s : State := { s with sec := { s.sec with challenge := some ([1], 5) }, time := 3600000000005 }
     Claim.MailboxMay s 0 ∧ s.sec.challenge = some ([1], 5) ∧ s.fld (aSec 0) 0 2 = 1 ∧ (∀ sl, sl < 64 → s.exists? sl = false) ∧ 5 + 3600000000000 ≤ s.time.toNat) ∧
    (1 < 2 ∧ State.reset.phase = .ready ∧ State.reset.owns 1 = false ∧ State.reset.fld (0x100048 + 0x1000 * 1) 0 1 = 0) := by
  unfold Claim.MailboxMay; refine ⟨?_, ?_, ?_, ?_⟩ <;> decide +kernel

theorem test_meets_SliceManagerCommands_units :
    (∀ g ∈ [[], [(unit, UnitUse.slice 0)]], let s := stMb [0, unit] slice0 { mg0 with grants := g }
      Claim.MailboxMay s 0 ∧ s.mgr.grant = none ∧ s.arg 0 0 = 0 ∧ s.arg 0 1 = unit ∧ s.exists? 0 = true ∧ s.unitOk unit = true ∧ s.mgr.grants = g) ∧
    (stMb [] [] { mg0 with grant := some (unit, .slice 0, 0) }).mgr.grant = some (unit, .slice 0, 0) ∧
    (∀ b ∈ [true, false], let s := { stMb [unit] slice0 { mg0 with grants := [(unit, .slice 0)] } with
        flight := { llm := if b then [rdReq ((unitBase unit + 2 ^ 30) / 128 - 1)] else [], scr := [], contrib := [], net := [] } }
      Claim.MailboxMay s 0 ∧ s.arg 0 0 = unit ∧ (NMap.find? s.mgr.grants unit).isSome = true ∧ s.mgr.freeing = none ∧ s.mgr.load = none ∧ s.mgr.move = none ∧ s.unitBusy unit = b) := by
  unfold Claim.MailboxMay; refine ⟨?_, ?_, ?_⟩ <;> decide +kernel

theorem test_meets_SliceManagerCommands_map :
    (∀ x ∈ [(0x10000, 2 ^ 48 - 0x10000, 0, UnitUse.slice 0), (0x200000, 0x40000000, 1, .object 65535), (0x40000000, 0x40000000, 0, .object 65535)],
      let s := stMb [0, x.2.1, x.1, unit, 2 ^ 30 - x.1, x.2.2.1, 2, 7] slice0 { mg0 with grants := [(unit, x.2.2.2)] }
      Claim.MailboxMay s 0 ∧ Claim.MapArgs s 0 0 x.2.1 x.1 x.2.2.1 2 7 ∧ s.arg 0 3 = unit ∧ s.arg 0 4 = 2 ^ 30 - x.1 ∧ unit < 2 ^ 16 ∧ (2 ^ 30 - x.1) % x.1 = 0 ∧
      2 ^ 30 - x.1 + x.1 ≤ 2 ^ 30 ∧ NMap.find? s.mgr.grants unit = some x.2.2.2) ∧
    (let s := stMb [0, 0x40000000, 0x10000, 2 ^ 63 + 0x70000, 0, 1, 0, 0] slice0 mg0
     Claim.MailboxMay s 0 ∧ Claim.MapArgs s 0 0 0x40000000 0x10000 1 0 0 ∧ s.arg 0 3 = 2 ^ 63 + 0x70000 ∧ s.arg 0 4 = 0 ∧ 0x70000 < 2 ^ 63 ∧ 0x70000 % 0x10000 = 0) ∧
    (∀ x ∈ [(0, some page), (0x10000, none)], let s := stMb [0, x.1] slice0 mg0
      Claim.MailboxMay s 0 ∧ s.arg 0 0 = 0 ∧ s.arg 0 1 = x.1 ∧ s.exists? 0 = true ∧ NMap.find? (s.slice 0).pages x.1 = x.2) := by
  unfold Claim.MailboxMay Claim.MapArgs; refine ⟨?_, ?_, ?_⟩ <;> decide +kernel

theorem test_meets_SliceManagerCommands_load :
    (∀ x ∈ [(1, [unit]), (2 ^ 30, [unit]), (1, [])], let s := stMb [9, 0x1000, x.1] [] { mg0 with objects := [(9, x.2)] }
      Claim.MailboxMay s 0 ∧ s.arg 0 0 = 9 ∧ s.arg 0 2 = x.1 ∧ s.mgr.load = none ∧ 0 < x.1 ∧ (x.2 ≠ [] → x.1 ≤ (NMap.get [] s.mgr.objects 9).length * 2 ^ 30) ∧ NMap.get [] s.mgr.objects 9 = x.2) ∧
    (let s := { stMb [] [] { mg0 with load := some (9, 0x1000, 2, 0), objects := [(9, [unit])] } with slices := [] }
     s.mgr.load = some (9, 0x1000, 2, 0) ∧ NMap.get [] s.mgr.objects 9 = [unit] ∧ [(1 : Byte), 2].length ≤ 2 ∧ [(1 : Byte), 2].length ≤ 2 ^ 30 ∧ s.halves = [] ∧ s.flight.net = []) ∧
    (∀ b ∈ [unit, unit - 1], let s := stMb [0, unit, b] slice0 { mg0 with grants := [(unit - 1, .slice 0), (unit, .slice 0)] }
      Claim.MailboxMay s 0 ∧ s.mgr.move = none ∧ s.arg 0 0 = 0 ∧ s.arg 0 1 = unit ∧ s.arg 0 2 = b ∧ s.exists? 0 = true ∧ NMap.find? s.mgr.grants unit = some (.slice 0) ∧
      NMap.find? s.mgr.grants b = some (.slice 0)) ∧
    (let s := stMb [] slice0 { mg0 with move := some (0, unit, unit - 1, 0) }
     s.mgr.move = some (0, unit, unit - 1, 0) ∧ s.cores = [] ∧ s.halves = [] ∧ s.unitBusy unit = false ∧ NMap.find? (s.slice 0).pages 0 = some page) := by
  unfold Claim.MailboxMay; refine ⟨?_, ?_, ?_, ?_⟩ <;> decide +kernel

/-- Slice 0 with command queue 511 and completion queue 510 of the security engine. -/
def stS (w : Item) (k : NMap (BitVec 288 × Nat)) : State :=
  { stOf [(0x200000, 1), (0x200040, 0x10000), (aSec 0x400, 1023), (0x507F80, 1), (0x507FC0, 1), (0x2100008, 1)] [] [(0, sl0)] with
    queues := [(511, qOf [itmQ w])], sec := { State.reset.sec with handles := k } }
def wS (op n : Nat) : Item := itm [(0, op), (8, 3), (10, 510), (32, 9), (64, 0x1000), (128, 0x2040), (192, n)]
def hand (n : Nat) : NMap (BitVec 288 × Nat) := [(3, (7, n))]

theorem test_meets_SecurityEngineCommands_has : ∀ x ∈ [(wS 1 0, []), (wS 2 0, []), (wS 2 0, hand 1), (wS 3 1, hand 1), (wS 3 1, []), (wS 4 1, hand 1), (wS 4 1, hand (2 ^ 48)),
      (wS 4 1, []), (wS 5 0, hand 1), (wS 5 0, [])], Claim.SecHas (stS x.1 x.2) 0 511 510 x.1 := by
  intro x hx
  refine ⟨?_, ?_, ?_, ?_, ?_, ?_, ?_, ?_, ⟨3, 9, ?_⟩, ?_, ?_, ?_, ?_, ?_, ?_, ?_, ?_, ?_, ?_, ?_, ?_⟩ <;> revert x <;> decide +kernel

theorem test_meets_SecurityEngineCommands_ops :
    (∀ o ∈ [1, 2, 3, 4, 5], ifld (wS o 1) 0 8 = o ∧ Claim.handleOf 0 (wS o 1) = 3 ∧ secLen (wS o 1) = 1 ∧ secOut (wS o 1) % 64 = 0) ∧
    (State.reset.sec.akey.isSome = true ∧ State.reset.fld (aSec 0) 0 2 ≠ 2) ∧
    (∀ x ∈ [(wS 2 0, [], 97), (wS 3 1, hand 1, 29), (wS 4 1, hand 1, 1), (wS 4 1, hand (2 ^ 48), 1)], let s := ((stS x.1 x.2.1).popCmd 511).1
      s.secMaps 0 (secIn x.1) x.2.2 false = true ∧ s.secMaps 0 (secOut x.1) 29 true = true ∧ (s.secRead 0 (secIn x.1) x.2.2 []).2.2 = false) ∧
    ((hand 1) = [(3, (7, 1))] ∧ 1 < 2 ^ 48) := by
  refine ⟨?_, ?_, ?_, ?_⟩ <;> decide +kernel

/-- What a read of a range gives is some state and bytes, here without poison. -/
theorem read_gives (s : State) (a n : Nat) (h : (s.secRead 0 a n []).2.2 = false) : ∃ r bs, s.secRead 0 a n [] = (r, bs, false) :=
  ⟨_, _, Prod.ext rfl (Prod.ext rfl h)⟩

def stAk (x : Security) (v : Nat) : State := { stOf [(aSec 0, v), (0x2100008, 1)] [] [] with sec := x }

theorem test_meets_SecurityEngineCommands_keys :
    (let s := stAk { State.reset.sec with akey := none, spares := [] } 0x18
     (∀ d ∈ [0, 1], d < 2 ∧ s.fld (aSec 0) (3 + d) 1 = 1) ∧ s.fld (aSec 0) 0 2 ≠ 2 ∧ 0 = s.acting ∧ s.sec.akey = none ∧ s.mgr.waiting = [] ∧ 1 ≠ s.acting ∧
     NMap.find? s.sec.spares 1 = none) ∧
    (let s := stAk { State.reset.sec with pend := [(6, 5)] } 0x40
     s.fld (aSec 0) 6 1 = 1 ∧ s.mgr.changes = [] ∧ s.mgr.recal = [] ∧ s.cores = [] ∧ s.sec.pend = [(6, 5)]) := by
  refine ⟨?_, ?_⟩ <;> decide +kernel

theorem test_meets_CommitsAndSubstitutions_commit :
    (∀ x ∈ [0, 1, 2, 3], let s := stOf [(aCommitStatus, x), (0x2100008, 1)] [] []
      Claim.ManagerMay s 0 0x10 ∧ s.fld aCommitStatus 0 2 = x ∧ s.commit = none ∧ s.repairs = []) ∧
    (let s := { State.reset with commit := some cRep }; s.phase = .ready ∧ s.commit.isSome = true) := by
  unfold Claim.ManagerMay; refine ⟨?_, ?_⟩ <;> decide +kernel

theorem test_meets_CommitsAndSubstitutions_dies :
    (∀ r ∈ [[], [35]], let s := { State.reset with reserves := r }
      31 < 32 ∧ s.present 31 = true ∧ 31 = s.sites.getD 31 99 ∧ 100 + 31 ∉ s.mgr.changes ∧ s.cores = [] ∧ (∀ sl, sl < 64 → s.jobOf sl ≠ 1) ∧ s.reserves = r) ∧
    (let s := { State.reset with mgr := { mg0 with changes := [131] } }
     s.mgr.changes = [100 + 31] ∧ s.commit = none ∧ s.repairs = [] ∧ s.fld aCommitStatus 0 2 ≠ 1 ∧ s.cores = [] ∧ s.reserveFor (s.sites.getD 31 99) = some 32 ∧ s.aroundOk (s.sites.getD 31 99) none = true) ∧
    (let s := { State.reset with mgr := { mg0 with changes := [100] }, dieState := ((List.range 60).filter fun d => d != 0 && d != 32).map fun d => (d, 7) }
     s.mgr.changes = [100 + 0] ∧ s.reserveFor (s.sites.getD 0 99) = some 32 ∧ s.aroundOk (s.sites.getD 0 99) (some ⟨[], []⟩) = true) := by
  refine ⟨?_, ?_, ?_⟩ <;> decide +kernel

theorem test_meets_CommitsAndSubstitutions_fails :
    ({ stOf [(aCommitStatus, 1), (0x2100008, 1)] [] [] with staged := [(aLlm 63 8, 31)] } : State).firstFailure = some (0x101, 63) := by
  decide +kernel

theorem test_meets_CommitsAndSubstitutions_passes : (stOf [(aCommitStatus, 1), (0x2100008, 1)] [] []).firstFailure = none := by
  decide +kernel

def stBoot (ph : Phase) (pins : Pins) (regs : List (Nat × Nat)) : State := { stOf (regs ++ [(0x2100008, 1)]) [] [] with phase := ph, pins := pins }
def pinsOf (pwr rst slow inp : Bool) : Pins := { pwrEn := pwr, resetN := rst, slow := slow, input := inp }

theorem test_meets_PowerOnAndPins_power :
    (let s := stBoot .off (pinsOf false false false true) []; s.pins.pwrEn = false ∧ 63 < 64 ∧ s.phase = .off ∧ s.pins.input = true) ∧
    (let s := stBoot .delayed (pinsOf true false false true) []; s.phase = .delayed ∧ s.pins.pwrEn = true ∧ s.pins.input = true) ∧
    (∀ b ∈ [true, false], let s := stBoot .off (pinsOf b false false false) []; s.pins.input = false ∧ s.pins.pwrEn = b) ∧
    (let s := stBoot .running (pinsOf true false false true) [(aCfgBoot, 0xB), (0x100, 0x40)]
     s.phase = .running ∧ s.holds = false ∧ s.fld aCfgBoot 8 4 = 0 ∧ 6 ≤ Claim.goodIbcs s ∧ s.fld aCfgBoot 4 1 = 0 ∧ 11 < 12) ∧
    (∀ i ∈ [(true, false), (false, true), (false, false)], let r : BootReport := ⟨i.1, i.2, [35], [], [], none, []⟩; r.failed = [] ∧ r.untrained = [] ∧ r.unread = [] ∧ (r.id0, r.id1) = i) := by
  refine ⟨?_, ?_, ?_, ?_, ?_⟩ <;> decide +kernel

theorem test_meets_PowerOnAndPins_pins :
    (∀ p ∈ [Phase.ready, .stopped, .off, .delayed, .held], let s := stBoot p (pinsOf true false false true) [(0x100, 0x40)]
      s.pins.resetN = false ∧ s.phase = p ∧ Claim.NoJobs s ∧ s.fld 0x100 6 1 = 1) ∧
    (stBoot .held (pinsOf true true false true) [(0x100, 0x40)]).pins.resetN = true ∧
    (∀ b ∈ [true, false], let s := stBoot .ready (pinsOf true false b true) []; s.phase = .ready ∧ s.pins.slow = b ∧ s.present 31 = true) ∧
    (let s := State.reset; s.phase ≠ .off ∧ s.phase ≠ .delayed ∧ s.pins.resetN = false) ∧
    (let s := stBoot .ready (pinsOf true true true true) [(aCqG 0x48, 0x8000)]
     s.phase = .ready ∧ s.pins.resetN = true ∧ s.pins.slow = true ∧ 7 < 8 ∧ s.fld (aCqG 0x48) (8 + 7) 1 = 1 ∧ (s.queue (s.fld (aCqG (8 * 7)) 11 9)).waits = []) ∧
    (∀ g ∈ [255, 127, 191], let s := stBoot .ready (pinsOf true false false true) [(aPwr 0x20, 12000 + g * 2 ^ 14)]
      0 < 8 ∧ s.fld (aPwr 0x20) (14 + 0) 1 = 1 ∧ 7 ≤ Claim.goodIbcs s) ∧
    (let s := stBoot .ready (pinsOf true false false true) [(aPwr 0x20, 9000 + 252 * 2 ^ 14)]; s.fld (aPwr 0x20) (14 + 7) 1 = 1 ∧ Claim.goodIbcs s ≤ 6) := by
  unfold Claim.NoJobs; refine ⟨?_, ?_, ?_, ?_, ?_, ?_, ?_⟩ <;> decide +kernel

theorem test_meets_PowerManagement_clocks :
    (∀ x ∈ [0, 1 + 2000 * 2], ∀ t ∈ [9999, 10000], let s := { stOf [(aPwr 0, x), (aPwrHalf 63, 1900 + 2000 * 2 ^ 14), (0x2100008, 1)] [] [] with time := BitVec.ofNat 64 t }
      63 < 64 ∧ s.present (63 / 2) = true ∧ s.gateSet 63 = false ∧ s.boost = (x != 0) ∧ s.gated 63 = false ∧ 1800 ≤ s.mhz 63 ∧ s.mhz 63 ≤ 2000 ∧
      (x ≠ 0 → ∀ l ∈ s.budgetLimit 63 ++ s.otherLimits 63, s.mhz 63 < l.2)) ∧
    (let s := stOf [(aPwr (0x100 + 8 * 63), 1), (0x2100008, 1)] [] []; s.gateSet 63 = true ∧ s.gated 63 = false ∧ s.resident 63 = false) ∧
    (Claim.ManagerMay State.reset 0 (aPwr 8) ∧ (4000 ≤ 4000 % 2 ^ 14 ∧ 12000 % 2 ^ 14 ≤ 12000) ∧ 3999 % 2 ^ 14 < 4000 ∧ 12000 < 12001 % 2 ^ 14) ∧
    (let s := State.reset; Claim.Runs s 63 ∧ (s.diePower (63 / 2)).missed < 3 ∧ (s.halfPower 63).stretch = none ∧ s.mhz 63 ≤ 2000 ∧ 2000 ≤ 2000 ∧ ∃ m ∈ [79], m < 80) ∧
    (let s := State.reset; let m : PowerReading := ⟨5, 0, 0, 1, 1⟩
     s.neighbours (63 / 2) 30 = true ∧ (s.diePower (63 / 2)).lent = none ∧ m.die + 10000 < 250 * (s.diePower (63 / 2)).watts ∧ 2 * 2047 * 250 ≤ 250 * (s.diePower (63 / 2)).watts - m.die) ∧
    (∀ n ∈ [0, 2], let s := { stOf [(aPwr 0x20, 5 * 2 ^ 24), (0x2100008, 1)] [] [] with power := { State.reset.power with dies := [(31, { DiePower.init with missed := n })] } }
      s.present 31 = true ∧ (s.diePower 31).period ≠ s.fld (aPwr 0x20) 24 16 ∧ (s.diePower 31).missed = n) := by
  unfold Claim.ManagerMay Claim.Runs; refine ⟨?_, ?_, ?_, ?_, ?_, ?_⟩ <;> decide +kernel

theorem test_meets_PowerManagement_heat :
    (∀ c ∈ [(0, 60), (1, 60), (2, 60), (3, 60)],
      let s := { stOf [(aPwr 0x18, 60), (0x2100008, 1)] [] [] with time := 100000, power := { State.reset.power with halves := [(63, { HalfPower.init with thermal := 1975 })] } }
      Claim.Runs s 63 ∧ s.fld (aPwr 0x18) 0 8 = c.2 ∧
      (c.1 = 0 → s.fld (aPwr 0x18) 0 8 ≤ 60) ∧ (c.1 = 1 → 59 < s.fld (aPwr 0x18) 0 8 ∧ s.fld (aPwr 0x18) 0 8 ≤ 59 + 2) ∧
      (c.1 = 2 → 58 < s.fld (aPwr 0x18) 0 8 ∧ s.fld (aPwr 0x18) 0 8 ≤ 58 + 2) ∧
      (c.1 = 3 → 57 + 2 < s.fld (aPwr 0x18) 0 8 ∧ (s.halfPower 63).thermal < 2000 ∧ (s.halfPower 63).raised + 100000 ≤ s.time.toNat)) ∧
    (({ State.reset with power := { State.reset.power with halves := [(63, { HalfPower.init with stretch := some 5 })] } } : State).halfPower 63).stretch = some 5 ∧
    59 < 60 ∧
    (∀ t ∈ [[], [58], [59]], let s := { State.reset with phase := .tripped, trips := t }
      s.phase = .tripped ∧ (s.trips.contains 58 = false ∨ s.trips.contains 59 = false)) ∧
    (let r : DieReading := ⟨59, 5, 255, 255⟩; 1023 < 1024 ∧ r.die < 60 ∧ r.temp < 256 ∧ r.eye < 256) ∧
    (∀ q ∈ [none, some 511], let s := stReg [(0x200000, 1)]; let x : EnergyShare := ⟨0, 3, 10, 1, 3, q⟩; s.exists? x.slice = true ∧ x.whole ≠ 0 ∧ x.counter < 4 ∧ x.queue = q) ∧
    ({ State.reset with power := { State.reset.power with samples := 2 } } : State).power.samples ≠ 0 ∧ (255 < 256 ∧ 40 < 41) := by
  unfold Claim.Runs; refine ⟨?_, ?_, ?_, ?_, ?_, ?_, ?_, ?_⟩ <;> decide +kernel

theorem test_meets_ResetAndIdle :
    (let s := State.reset; s.pending = [] ∧ s.phase = .ready ∧ s.mgr.freeing = none) ∧
    (∀ p ∈ [Phase.off, .delayed], (stBoot p State.reset.pins []).pending = [] ∧ (stBoot p State.reset.pins []).phase = p) ∧
    (let s := { stBoot .running State.reset.pins [(aCfgBoot, 2), (0x100, 0x40)] with bootTime := 149999999 }
     s.pending = [] ∧ s.phase = .running ∧ s.fld aCfgBoot 0 4 = 2 ∧ s.holds = false ∧ 150000000 ≤ s.bootTime + 1 ∧ s.bootTime + 1 < 300000000 ∧ s.mgr.freeing = none) ∧
    (let s := { stBoot .running State.reset.pins [(aCfgBoot, 5), (0x100, 0x40)] with bootTime := 6299999999 }
     s.pending = [] ∧ s.phase = .running ∧ s.fld aCfgBoot 0 4 = 5 ∧ 6300000000 ≤ s.bootTime + 1 ∧ s.bootTime + 1 < 7500000000 ∧ s.mgr.freeing = none) ∧
    (∀ k ∈ [6, 11], let s := stBoot .running State.reset.pins [(aCfgBoot, k), (0x100, 0x40)]
     s.pending = [] ∧ s.phase = .running ∧ 6 ≤ s.fld aCfgBoot 0 4 ∧ s.mgr.freeing = none) := by
  refine ⟨?_, ?_, ?_, ?_, ?_⟩ <;> decide +kernel

theorem test_meets_LamizRoundTrip :
    encodeLamiz (.exit at0 (wSF h0 0)) = some 0x1A ∧ decodeLamiz at0 0x1A = some (.exit at0 (wSF h0 0)) ∧ (11 ≤ ((0xB : W64).extractLsb' 0 4).toNat ∧ 11 ≤ ((0xF : W64).extractLsb' 0 4).toNat) := by
  refine ⟨?_, ?_, ?_⟩ <;> decide +kernel

/-- A store of a page of two bytes and the step that idles on it. -/
theorem test_meets_EveryStepKeepsMemoryCanonical :
    (let s := { State.reset with mem := [(0, 255), (128, 1)] }
     s.mem.wf = true) ∧ ∃ t, step { State.reset with mem := [(0, 255), (128, 1)] } = .next t :=
  ⟨by decide +kernel, _, rfl⟩

/-- A word from its fields: low bit and value. -/
def wordOf (fs : List (Nat × Nat)) : W64 := BitVec.ofNat 64 ((fs.map fun f => f.2 * 2 ^ f.1).sum)

/-- Words laid out from the tables of R66, R69 and R70, one of each format. -/
theorem test_decode_formats :
    decodeLamiz at0 (wordOf [(4, 0x0E), (20, 3), (28, 4), (36, 5), (52, 1)]) = some (.sra at0 (.vv ⟨h0, 3, 4, 5, 0, 1, 0, false, false, false, false, false⟩)) ∧
    decodeLamiz at0 (wordOf [(0, 1), (4, 0x02), (20, 3), (28, 4), (36, 1), (40, 0xFFFFFF)]) = some (.mulLo at0 (.vi ⟨h0, 3, 4, 1, 0xFFFFFF⟩)) ∧
    decodeLamiz at0 (wordOf [(0, 2), (20, 63), (32, 0x80000001)]) = some (.movVk at0 ⟨h0, 63, 0, 0x80000001⟩) ∧
    decodeLamiz at0 (wordOf [(0, 3), (4, 0x0B), (20, 1), (26, 2), (38, 0x3FFFFFF)]) = some (.addi at0 ⟨h0, 1, 2, 0, 0x3FFFFFF⟩) ∧
    decodeLamiz at0 (wordOf [(0, 4), (20, 9), (28, 8), (36, 7), (42, 1), (44, 6), (47, 3), (49, 1), (51, 2), (54, 0x3FF)]) = some (.ld at0 ⟨h0, 9, 8, 7, 1, 6, 3, 1, 2, false, 0x3FF⟩) ∧
    decodeLamiz at0 (wordOf [(0, 5), (20, 9), (28, 8), (36, 7), (44, 6), (50, 7), (54, 3), (57, 1), (59, 3), (61, 3), (63, 1)]) = some (.atom at0 ⟨h0, 9, 8, 7, 6, 7, 3, 1, 3, 3, true⟩) ∧
    decodeLamiz at0 (wordOf [(0, 6), (4, 4), (20, 1), (32, 0x4008), (48, 5), (55, 1)]) = some (.dset at0 ⟨h0, 1, 0, 0, 0x4008, 5, false, true, 0⟩) ∧
    decodeLamiz at0 (wordOf [(0, 7), (4, 2), (28, 1), (34, 2), (42, 3)]) = some (.qmark at0 ⟨h0, 0, 1, 2, 0, 3, false, false, 0, 0, 0⟩) ∧
    decodeLamiz at0 (wordOf [(0, 8), (4, 1), (20, 6), (28, 0x3FFFE)]) = some (.call at0 ⟨h0, 6 + 0x3FFFE * 256, 0⟩) ∧
    decodeLamiz at0 (wordOf [(0, 9), (20, 6), (28, 5), (31, 1), (32, 0xFF), (40, 0xFFE), (52, 2)]) = some (.braCc at0 ⟨h0, 6, 5, true, 0xFF, 0xFFE, 2⟩) ∧
    decodeLamiz at0 (wordOf [(0, 0xA), (4, 6), (12, 1), (13, 1), (14, 7), (20, 0xBEEF)]) = some (.trap at0 (.word ⟨⟨true, true, 7, 0⟩, 0xBEEF, 0⟩)) := by
  refine ⟨?_, ?_, ?_, ?_, ?_, ?_, ?_, ?_, ?_, ?_, ?_⟩ <;> decide +kernel

/-- Operations that no table lists have no command. -/
theorem test_decode_reserved : ∀ f ∈ [(0, 0x15), (0, 0x2B), (2, 1), (3, 0x0E), (4, 5), (5, 3), (6, 7), (7, 6), (8, 4), (9, 1), (10, 8), (11, 0)],
    (decodeLamiz at0 (wordOf [(0, f.1), (4, f.2)])).isNone = true := by
  decide +kernel

def laneOf (o : Host.Outcome State Fault Refusal) (r l : Nat) : Option W32 :=
  match o with | .next t => (NMap.find? (t.core 0).groups 0).map fun g => g.vreg r l | _ => none
/-- v1 and v2 of lane 31; v3 is the result. -/
def stV2 (a b : W32) : State := stGrp { grp with v := [(63, a), (95, b)] }
def opV (ty : Nat) : VForm := .vv { wVV ty 3 with a := 1, b := 2 }

/-- Wraps, clamps and shifts of R73 at their edges. -/
theorem test_integer_edges :
    laneOf (exec (.add at0 (opV 0)) (stV2 0xFFFFFFFF 1)) 3 31 = some 0 ∧
    laneOf (exec (.add at0 (.vv { wVV 1 3 with a := 1, b := 2, sat := true })) (stV2 0x7FFFFFFF 1)) 3 31 = some 0x7FFFFFFF ∧
    laneOf (exec (.mulHi at0 (opV 1)) (stV2 0xFFFFFFFF 2)) 3 31 = some 0xFFFFFFFF ∧
    laneOf (exec (.mulHi at0 (opV 0)) (stV2 0xFFFFFFFF 2)) 3 31 = some 1 ∧
    laneOf (exec (.shl at0 (opV 0)) (stV2 1 32)) 3 31 = some 0 ∧ laneOf (exec (.sra at0 (opV 1)) (stV2 0x80000000 32)) 3 31 = some 0xFFFFFFFF ∧
    laneOf (exec (.clz at0 (.vv { wVV 0 3 with a := 1 })) (stV2 0 0)) 3 31 = some 32 := by
  refine ⟨?_, ?_, ?_, ?_, ?_, ?_, ?_⟩ <;> decide +kernel

/-- Hand calculation: 1.5 × 2 + 0.25 = 3.25; 1 + 2^-25 rounds to 1; the larger of −0 and +0 is +0 (R119 to R121). -/
theorem test_float_edges :
    laneOf (exec (.fma at0 (.vv { wVV 2 3 with a := 1, b := 2, c := 4 })) (stGrp { grp with v := [(63, 0x3FC00000), (95, 0x40000000), (159, 0x3E800000)] })) 3 31 = some 0x40500000 ∧
    laneOf (exec (.addFloat at0 (opV 2)) (stV2 0x3F800000 0x33000000)) 3 31 = some 0x3F800000 ∧
    laneOf (exec (.maxFloat at0 (opV 2)) (stV2 0x80000000 0)) 3 31 = some 0 := by
  refine ⟨?_, ?_, ?_⟩ <;> decide +kernel

def badSite : Site := ⟨2048, 0⟩
def fwBad : Fwd := { fw with node := 18 }

/-- A command whose operand names nothing the module has is refused: one for each kind of operand. -/
theorem test_ill_formed : ∀ i ∈ [Instr.add badSite (opV 0), .ld ⟨0, 48⟩ ⟨h0, 0, 0, 0, 0, 0, 0, 0, 0, false, 0⟩, .mxaStart 2048, .moverOperationStart 0 2, .hardwareErrorInCore 0 16,
      .prefetchFill 64 0, .taskReady 0 17 0 [], .kernelStart 0 0 [(2 ^ 64, .ok 0)], .blockStart 64, .llmRequest { rdReq 0 with half := 64 }, .llmRequest { rdReq 0 with line := 2 ^ 37 },
      .llmRequest { rdReq 0 with cls := 8 }, .llmRequest { rdReq 0 with agent := .dispatcher 32 }, .llmRequest { wrReq 0 with body := .write [(128, 0)] },
      .scratchRequest (scrReq 64 .mgmt (.read 0)), .devReady ⟨true, true, [36], [], [], none, []⟩, .devReady ⟨true, true, [], [(32, true)], [], none, []⟩, .devReady ⟨true, true, [], [], [18], none, []⟩, .devReady ⟨true, true, [], [], [], none, [2 ^ 39]⟩, .addToLineContribution 0 { contrib none with aty := 7 },
      .reductionHoldEnd 0 (2 ^ 37), .llmPatrol 0 [.sector 0 4 true], .scratchUnitZeroed 0 24, .rds { q63 with node := 18 }, .rds { q63 with src := .agent (.port 4) },
      .rds { q63 with src := .fine 2048 0 0 }, .rdfine q63 4, .wrna q63 [(128, 0)], .putm q63 ⟨[], 0, 0⟩, .atomRequest q63 ⟨0, 0, 2 ^ 44, []⟩, .atomRequest q63 ⟨0, 0, 0, [(32, 0, 0)]⟩,
      .inv 64 0 0 none, .fwds fwBad, .fwdop fw (.body (.write [(128, 0)])), .dataMsg ⟨.half 64, 0, 0, 0, .s, 0, onesData, none⟩, .dataMsg ⟨.half 0, 0, 0, 0, .s, 0, onesData, some 64⟩, .grant (.half 0) 0 18 0 0, .ack 0 0 0 (some (.half 64)), .wbdata fw .fwds ⟨[], 0, 0⟩, .doneMsg (.half 64) 0 0,
      .regimeSwitchDrained 18, .scrubRead (2 ^ 39) ⟨0, 0, none⟩ false, .refresh 0 32 0, .frameRewriteDone 0 48 false, .bridgeReplay 60 0 0, .laneFailed 0 0 0 72, .netLinkCtrlRetrain 0 56 0,
      .multicastConversion 64 0, .commitMsg (bugleTo 1 58 64) 0 0 0, .quiesce ⟨0, 0, 0, 5⟩ true, .lost (bugleTo 5 58 63) [64], .budget (bugleTo 16 58 0) 32 0 0 false false,
      .doorbell (bugleTo 19 58 59) 0 16 0, .dispatch (bugleTo 20 58 0) 0 64 0 false, .intrMsg (bugleTo 22 58 0) 0 4 0, .errMsg (bugleTo 32 0 58) ⟨7, 0, 0, 0, 0, none, none, 0, .nothing⟩, .errMsg (bugleTo 32 0 58) ⟨6, 0, 0, 0, 0, none, none, 0, .farUe 18 0⟩, .errMsg (bugleTo 32 0 58) ⟨6, 0, 0, 0, 0, none, none, 0, .queueUe 512 0⟩, .errMsg (bugleTo 32 0 58) ⟨0, 0, 0, 0, 0, none, none, 0, .fecCe 16⟩, .headRingRefill 512] ++
      [.hostPush 0 none 0x8000 [], .hostPush 0 (some (2 ^ 20)) 0 [], .qfcInChange 8 true, .linkWrite 16 (pkt 1 0 0 []), .linkWrite 0 (pkt 1 0 0 [1]), .linkRefusal 17 (pkt 7 0 0 []),
      .linkPacketReplay 0 65536 false, .portRetrain 16 0, .lnkPortCfgRetrain 2 0, .slcSDoorbell 0 none 16 0, .hostReadCompletion 0 0 5 [], .flrPf0 2, .atsInvalidation 0 0 64 0 0,
      .podWindowAccess 0 (2 ^ 34) 8 none, .podWindowAccess 0 0 9 none, .keyProg 0 0 5 0 true true, .slcCtrlStart 0 64, .slcSJobctlStart 2 none, .modelSwap 0 [(2 ^ 64, .ok 0)], .drainExpiry 256,
      .windowOpen 64, .blockRestore 0 0 2048, .handover 0 256, .attestationKeyCertified 2, .cfgCommitGo 2, .computeDieFailure 32, .pwrEnAssert false 64, .bootTimeout 12,
      .rateLimitedChange (.qfcIn 8) true false 0, .stuckEventInput (.qfcIn 8), .ibcFailure 8, .pwrCap 0 (2 ^ 64), .thermalTrip 60, .telemetrySample 0 0 [⟨60, 0, 0, 0⟩],
      .energyAttribution [⟨0, 4, 0, 0, 1, none⟩], .dynamicAddressAssignment 128, .mgtEvtRead 0 2, .netCohPredCfgClr 0 18 0, .rcRead 0 (2 ^ 28), .registerWrite (.reg (.bar0 0 0 0) 0),
      .registerWrite (.reg (.slice 0 none 0x10000 8) 0), .registerWrite (.msix 0 0 0x1000 0), .registerWrite (.bar 0 0 6 0), .badRegisterRead (.bar0 2 0 4)], i.wf = false := by
  decide +kernel

theorem test_well_formed : Instr.wf (.add at0 (opV 0)) = true ∧ Instr.wf (.linkWrite 0 (pkt 1 0 0 (List.replicate 256 0))) = true ∧ Instr.wf (.rds q63) = true := by
  decide +kernel

end Sys2Proof.Tests
end

section
/-! Which path a switch makes current (R43, R45): the choice among the runnable paths, the group after a switch, and the command
that switches at a boundary. -/

namespace Sys2Proof.Machine

/-- What R45 asks of the entry `e` with path `q` among the runnable paths `l`: none has been runnable longer, and none that has been
runnable as long has a lower entry. -/
def LongestRunnable (l : List (Nat × Path)) (e : Nat) (q : Path) : Prop :=
  (e, q) ∈ l ∧ ∀ f r, (f, r) ∈ l → q.since < r.since ∨ (q.since = r.since ∧ e ≤ f)

/-- The choice among paths listed by rising entry. The head of the list meets its neighbour, and the one that loses has a path still in the
list that beats it. -/
theorem oldest_longestRunnable (l : List (Nat × Path)) (hl : l ≠ []) (hs : l.Pairwise fun a b => a.1 < b.1) :
    ∃ e q, oldest l = some e ∧ LongestRunnable l e q := by
  induction l using oldest.induct with
  | case1 => exact absurd rfl hl
  | case2 e p => exact ⟨e, p, by rw [oldest], by simp, by simp +contextual⟩
  | case3 e p f q r hlt ih =>
    obtain ⟨n, a, hn, hmem, hmin⟩ := ih (by simp) hs.of_cons
    refine ⟨n, a, by rw [oldest, if_pos hlt, hn], List.mem_cons_of_mem _ hmem, fun i b hb => ?_⟩
    rcases List.mem_cons.mp hb with heq | hb
    · cases heq
      have := hmin f q (by simp)
      omega
    · exact hmin i b hb
  | case4 e p f q r hge ih =>
    have hef : e < f := (List.pairwise_cons.mp hs).1 (f, q) (by simp)
    have hs' : ((e, p) :: r).Pairwise fun a b => a.1 < b.1 :=
      hs.sublist (.cons_cons _ (List.sublist_cons_self _ _))
    obtain ⟨n, a, hn, hmem, hmin⟩ := ih (by simp) hs'
    refine ⟨n, a, by rw [oldest, if_neg hge, hn], ?_, fun i b hb => ?_⟩
    · exact (List.Sublist.cons_cons (e, p) (List.sublist_cons_self _ _)).subset hmem
    · simp only [List.mem_cons] at hb hmin
      rcases hb with hb | hb | hb
      · exact hmin i b (.inl hb)
      · cases hb
        have := hmin e p (.inl rfl)
        omega
      · exact hmin i b (.inr hb)

/-- The other runnable paths are listed by rising entry. -/
theorem Group.others_sorted (g : Group) : g.others.Pairwise fun a b => a.1 < b.1 := by
  refine List.Pairwise.filterMap _ (fun a b hab x hx y hy => ?_) List.pairwise_lt_range
  simp only [Option.ite_none_left_eq_some, Option.bind_eq_some_iff, Option.ite_none_right_eq_some, Option.some.injEq] at hx hy
  obtain ⟨-, p, -, -, rfl⟩ := hx
  obtain ⟨-, q, -, -, rfl⟩ := hy
  exact hab

@[simp] theorem Group.path?_putPath_same (g : Group) (e : Nat) (p : Path) : (g.putPath e p).path? e = some p := by
  simp [Group.path?, Group.putPath]

/-- A switch away from a path that is still runnable. -/
theorem Group.switch_of_run {g : Group} {e : Nat} {p : Path} (ho : oldest g.others = some e) (hp : g.path? g.cur = some p)
    (hw : p.wait = .run) :
    g.switch = { g.putPath g.cur { p with since := g.clock } with clock := g.clock + 1, cur := e, turn := 0, loop := false } := by
  simp only [Group.switch, ho, hp, if_pos hw]

/-- A switch away from a path that waits. -/
theorem Group.switch_of_wait {g : Group} {e : Nat} {p : Path} (ho : oldest g.others = some e) (hp : g.path? g.cur = some p)
    (hw : p.wait ≠ .run) : g.switch = { g with cur := e, turn := 0, loop := false } := by
  simp only [Group.switch, ho, hp, if_neg hw]

theorem Group.switch_cur {g : Group} {e : Nat} (ho : oldest g.others = some e) : g.switch.cur = e := by
  simp only [Group.switch, ho]

/-- R45: the path that a switch makes current. -/
theorem Group.switch_longestRunnable {g : Group} (h : g.others ≠ []) : ∃ q, LongestRunnable g.others g.switch.cur q := by
  obtain ⟨e, q, ho, hq⟩ := oldest_longestRunnable g.others h g.others_sorted
  exact ⟨q, by rwa [Group.switch_cur ho]⟩

/-- Where another path is runnable, a switch has a path to take. -/
theorem Group.oldest_others {g : Group} (h : g.others ≠ []) : oldest g.others = some g.switch.cur := by
  obtain ⟨e, q, ho, -⟩ := oldest_longestRunnable g.others h g.others_sorted
  rw [ho, Group.switch_cur ho]

/-- R45: the outgoing path keeps its place where it waits, and is the newest where it does not. -/
theorem Group.switch_path?_cur {g : Group} {p : Path} (h : g.others ≠ []) (hp : g.path? g.cur = some p) :
    g.switch.path? g.cur = some (if p.wait = .run then { p with since := g.clock } else p) := by
  by_cases hw : p.wait = .run
  · rw [Group.switch_of_run (Group.oldest_others h) hp hw, if_pos hw]
    exact Group.path?_putPath_same g g.cur _
  · rw [Group.switch_of_wait (Group.oldest_others h) hp hw, if_neg hw]
    exact hp

theorem Group.switchDue_iff (g : Group) : g.switchDue = true ↔ g.loop = true ∧ 64 ≤ g.turn ∧ g.others ≠ [] := by
  simp [Group.switchDue, and_assoc]

theorem exec_pathSwitch (x : Site) (s : State) : exec (.pathSwitch x) s = execPathSwitch x s := rfl

/-- R43: the command switches where the switch is due. -/
theorem exec_pathSwitch_of_due {s : State} {x : Site} {g : Group} (hg : NMap.find? (s.core x.core).groups x.slot = some g)
    (hd : g.switchDue = true) : exec (.pathSwitch x) s = .next (s.putGroup x.core x.slot g.switch) := by
  simp only [exec_pathSwitch, execPathSwitch, hg, if_pos hd]

end Sys2Proof.Machine

namespace Sys2Proof.Claim

open Machine

theorem onlyGroup_putGroup (s : State) (core slot : Nat) (g : Group) : OnlyGroup s (s.putGroup core slot g) core slot g :=
  ⟨putGroup_frame s core slot g, fun _ hn => core_putGroup_other s slot g hn, by rw [core_putGroup_same],
    group_putGroup_same s core slot g, fun _ hk => group_putGroup_other s core g hk⟩

theorem pathsOf_of_sameRegs {g h : Group} (hr : g.SameRegs h) : pathsOf g h = g := by
  obtain ⟨hblock, hindex, hu, hq, hd, hk, hv, hexited, hops⟩ := hr
  simp only [pathsOf, hblock, hindex, hu, hq, hd, hk, hv, hexited, hops]

end Sys2Proof.Claim

namespace Sys2Proof

open Machine

/-- Settles O13: the runnable paths are listed by rising entry, so a choice that keeps the earlier listed of two equal ages takes the lowest
entry among the oldest; the command is that switch where it is due. -/
theorem pathSwitchTakesOldest : Obligations.PathSwitchTakesOldest := by
  unfold Obligations.PathSwitchTakesOldest
  refine ⟨fun g h => ?_, fun s x g p hg hloop hturn h hp hw _ => ?_⟩
  · obtain ⟨q, hmem, hmin⟩ := Group.switch_longestRunnable h
    exact ⟨q, hmem, hmin, fun p hp => Group.switch_path?_cur h hp⟩
  · obtain ⟨q, hmem, hmin⟩ := Group.switch_longestRunnable h
    have hexec := exec_pathSwitch_of_due hg (g.switchDue_iff.mpr ⟨hloop, hturn, h⟩)
    have hsw := Group.switch_of_run (Group.oldest_others h) hp hw
    have hout := Group.switch_path?_cur h hp
    rw [if_pos hw] at hout
    exact ⟨_, g.switch, q, hexec, Claim.onlyGroup_putGroup s _ _ _, Claim.pathsOf_of_sameRegs g.switch_sameRegs, hmem, hmin,
      by rw [hsw], by rw [hsw], hout, by rw [hsw]⟩

end Sys2Proof
end

section
/-! What an instruction that changes only its own group does as a whole: issue, effect and end of the instruction together (R35, R40,
R43), for an effect on vector registers, on predicates and on uniform registers. -/

namespace Sys2Proof.Machine

/-! The effect of an instruction sees the registers of its group and the mask of its path as they were before the issue. -/

@[simp] theorem Ctx.issued_mask (c : Ctx) : c.issued.p.mask = c.p.mask := rfl
@[simp] theorem Ctx.issued_vreg (c : Ctx) (r l : Nat) : c.issued.g.vreg r l = c.g.vreg r l := rfl
@[simp] theorem Ctx.issued_ureg (c : Ctx) (r : Nat) : c.issued.g.ureg r = c.g.ureg r := rfl
@[simp] theorem Ctx.issued_pred (c : Ctx) (r : Nat) : c.issued.g.pred r = c.g.pred r := rfl
@[simp] theorem Ctx.issued_guarded (c : Ctx) (h : Hdr) : c.issued.guarded h = c.guarded h := rfl
@[simp] theorem Ctx.issued_bLane (c : Ctx) (w : VV) (l : Nat) : w.bLane c.issued.g l = w.bLane c.g l := rfl

theorem Ctx.issued_sameRegs (c : Ctx) : c.g.SameRegs c.issued.g := ⟨rfl, rfl, rfl, rfl, rfl, rfl, rfl, rfl, rfl⟩

/-! Groups that agree but for the path table agree in every register. -/

namespace Group.SameRegs

variable {g h : Group} (hr : g.SameRegs h)
include hr

theorem vreg_eq (r l : Nat) : h.vreg r l = g.vreg r l := by
  obtain ⟨-, -, -, -, -, -, hv, -, -⟩ := hr
  rw [Group.vreg, Group.vreg, hv]

theorem ureg_eq (r : Nat) : h.ureg r = g.ureg r := by
  obtain ⟨-, -, hu, -, -, -, -, -, -⟩ := hr
  rw [Group.ureg, Group.ureg, hu]

theorem pred_eq (r : Nat) : h.pred r = g.pred r := by
  obtain ⟨-, -, -, hq, -, -, -, -, -⟩ := hr
  rw [Group.pred, Group.pred, hq]

theorem withV (v : NMap W32) : SameRegs { g with v := v } { h with v := v } := by
  obtain ⟨h1, h2, h3, h4, h5, h6, -, h8, h9⟩ := hr
  exact ⟨h1, h2, h3, h4, h5, h6, rfl, h8, h9⟩

theorem withU (u : NMap W64) : SameRegs { g with u := u } { h with u := u } := by
  obtain ⟨h1, h2, -, h4, h5, h6, h7, h8, h9⟩ := hr
  exact ⟨h1, h2, rfl, h4, h5, h6, h7, h8, h9⟩

theorem withQ (q : NMap W32) : SameRegs { g with q := q } { h with q := q } := by
  obtain ⟨h1, h2, h3, -, h5, h6, h7, h8, h9⟩ := hr
  exact ⟨h1, h2, h3, rfl, h5, h6, h7, h8, h9⟩

end Group.SameRegs

/-! The lanes of a mask. -/

theorem lt_of_inMask {m : W32} {l : Nat} (h : inMask m l = true) : l < 32 := BitVec.lt_of_getLsbD h

theorem inMask_allLanes {l : Nat} (h : l < 32) : inMask allLanes l = true := by
  have hall : allLanes = BitVec.allOnes 32 := rfl
  rw [inMask, hall, BitVec.getLsbD_allOnes, decide_eq_true h]

theorem inMask_ite_allLanes (b : Bool) {l : Nat} (h : l < 32) : inMask (if b then allLanes else 0) l = b := by
  cases b
  · exact BitVec.getLsbD_zero
  · exact inMask_allLanes h

@[simp] theorem inMask_and (m n : W32) (l : Nat) : inMask (m &&& n) l = (inMask m l && inMask n l) := BitVec.getLsbD_and

@[simp] theorem inMask_or (m n : W32) (l : Nat) : inMask (m ||| n) l = (inMask m l || inMask n l) := BitVec.getLsbD_or

theorem inMask_not (m : W32) {l : Nat} (h : l < 32) : inMask (~~~m) l = !inMask m l := by
  rw [inMask, BitVec.getLsbD_not, decide_eq_true h, Bool.true_and, inMask]

theorem mask_ext_iff {m n : W32} : m = n ↔ ∀ l, l < 32 → inMask m l = inMask n l :=
  ⟨fun h _ _ => h ▸ rfl, BitVec.eq_of_getLsbD_eq⟩

/-- Writes over the lanes of a mask change the vector registers alone. -/
theorem Group.mapV_frame (g : Group) (r : Nat) (m : W32) (f : Nat → W32) : { g.mapV r m f with v := g.v } = g := by
  suffices h : ∀ (ls : List Nat) (k : Group), { ls.foldl (fun k l => k.setV r l (f l)) k with v := g.v } = { k with v := g.v } from
    h _ g
  intro ls
  induction ls with
  | nil => intro k; rfl
  | cons l ls ih => intro k; exact ih (k.setV r l (f l))

/-- The lanes of the mask take their values in the register; every other register and lane is as before. -/
theorem Group.vreg_mapV (g : Group) (r : Nat) (m : W32) (f : Nat → W32) (r' : Nat) {l : Nat} (hl : l < 32) :
    (g.mapV r m f).vreg r' l = if r' = r ∧ inMask m l = true then f l else g.vreg r' l := by
  have hmem : l ∈ lanes.filter (inMask m) ↔ inMask m l = true := by simp [lanes, hl]
  have hlt : ∀ k ∈ lanes.filter (inMask m), k < 32 := fun k hk => lt_of_inMask (List.mem_filter.mp hk).2
  rw [Group.mapV, Group.vreg_foldSetV _ g r f hlt (List.nodup_range.filter _) r' l hl]
  simp only [hmem]

/-- What each lane of a predicate holds after a write in the lanes of a mask. -/
theorem Group.inMask_setPred (g : Group) (r : Nat) (m x : W32) {l : Nat} (hl : l < 32) :
    inMask ((g.setPred r m x).pred r) l = if inMask m l then inMask x l else inMask (g.pred r) l := by
  rw [Group.pred_setPred, if_pos rfl, inMask_or, inMask_and, inMask_and, inMask_not m hl]
  cases inMask m l <;> simp

@[simp] theorem Group.lane_zero (g : Group) (r l : Nat) : g.lane 0 r l = (g.vreg r l).toNat := rfl

end Sys2Proof.Machine

namespace Sys2Proof.Claim

open Machine

theorem OnlyGroup.trans {s t u : State} {core slot : Nat} {g h : Group} (hst : OnlyGroup s t core slot g)
    (htu : OnlyGroup t u core slot h) : OnlyGroup s u core slot h := by
  obtain ⟨hs, hcs, hgs, -, hks⟩ := hst
  obtain ⟨ht, hct, hgt, hfind, hkt⟩ := htu
  refine ⟨?_, fun n hn => (hct n hn).trans (hcs n hn), ?_, hfind, fun k hk => (hkt k hk).trans (hks k hk)⟩
  · exact (congrArg (fun z : State => { z with cores := s.cores }) ht).trans hs
  · exact (congrArg (fun z : Core => { z with groups := (s.core core).groups }) hgt).trans hgs

section
variable {i : Instr} {s : State} {x : Site} {c : Ctx} {legal : Bool} {vs us : List Nat} {h : Hdr}

/-- An instruction that issues, is legal, and changes only its own group, completes: the group is the effect's, but for the path table. -/
theorem Issues.completes (hi : Issues s x c vs us) (hl : legal = true) {f : Ctx → Group}
    (he : exec i s = issue x legal vs us h (groupEff f) s) :
    ∃ t g', exec i s = .next t ∧ OnlyGroup s t x.core x.slot g' ∧ (f c.issued).SameRegs g' := by
  obtain ⟨hc, hr, ht, hv⟩ := hi
  obtain ⟨hcore, hslot, -⟩ := ctx?_spec hc
  rw [he, hl, issue_groupEff h f hc hr ht hv, hcore, hslot]
  exact ⟨_, _, rfl, ((onlyGroup_putGroup _ _ _ _).trans (onlyGroup_putGroup _ _ _ _)).trans (onlyGroup_putGroup _ _ _ _),
    Group.advance_sameRegs _⟩

/-- A write of one vector register in the guarded lanes. -/
theorem Issues.completesV_mapV (hi : Issues s x c vs us) (hl : legal = true) {dst : Nat} {f : Ctx → Nat → W32} {val : Nat → Nat}
    (he : exec i s = issue x legal vs us h (groupEff fun c => c.g.mapV dst (c.guarded h) (f c)) s)
    (hval : ∀ l, (f c.issued l).toNat = val l) :
    CompletesV i s x c fun g' => LanesWritten c.g g' 0 dst (c.guarded h) val := by
  obtain ⟨t, g', hexec, honly, hsame⟩ := hi.completes hl he
  have hframe : c.g.SameRegs { g' with v := c.g.v } := by
    have hw := hsame.withV c.issued.g.v
    rw [Group.mapV_frame] at hw
    exact c.issued_sameRegs.trans hw
  have hreg (r : Nat) {l : Nat} (hlt : l < 32) :
      g'.vreg r l = if r = dst ∧ inMask (c.guarded h) l = true then f c.issued l else c.g.vreg r l := by
    rw [hsame.vreg_eq, Group.vreg_mapV _ _ _ _ _ hlt, Ctx.issued_guarded, Ctx.issued_vreg]
  refine ⟨t, g', hexec, honly, pathsOf_of_sameRegs hframe, fun l hlt hm => ?_, fun r l hlt hout => ?_⟩
  · rw [Group.lane_zero, hreg dst hlt, if_pos ⟨rfl, hm⟩, hval]
  · rw [hreg r hlt, if_neg]
    rintro ⟨rfl, hm⟩
    rcases hout with hout | hout
    · exact absurd hm (by simp [hout])
    · exact hout (List.mem_singleton.mpr rfl)

/-- A write of one uniform register, once for the whole group. -/
theorem Issues.completesU_setU (hi : Issues s x c vs us) (hl : legal = true) {dst : Nat} {f : Ctx → W64}
    (he : exec i s = issue x legal vs us h (groupEff fun c => c.g.setU dst (f c)) s) {P : W64 → Prop} (hP : P (f c.issued)) :
    CompletesU i s x c fun g' => P (g'.ureg dst) ∧ ∀ r, r ≠ dst → g'.ureg r = c.g.ureg r := by
  obtain ⟨t, g', hexec, honly, hsame⟩ := hi.completes hl he
  have hframe : c.g.SameRegs { g' with u := c.g.u } := c.issued_sameRegs.trans (hsame.withU c.issued.g.u)
  refine ⟨t, g', hexec, honly, pathsOf_of_sameRegs hframe, ?_, fun r hr => ?_⟩
  · rwa [hsame.ureg_eq, Group.ureg_setU_same]
  · rw [hsame.ureg_eq, Group.ureg_setU_other _ _ hr, Ctx.issued_ureg]

/-- A write of one predicate in the lanes of a mask. -/
theorem Issues.completesQ_setPred (hi : Issues s x c vs us) (hl : legal = true) {q : Nat} {m f : Ctx → W32} {val : Nat → Bool}
    (he : exec i s = issue x legal vs us h (groupEff fun c => c.g.setPred q (m c) (f c)) s)
    (hval : ∀ l, l < 32 → inMask (f c.issued) l = val l) :
    CompletesQ i s x c fun g' => PredWritten c.g g' q (m c.issued) val := by
  obtain ⟨t, g', hexec, honly, hsame⟩ := hi.completes hl he
  have hframe : c.g.SameRegs { g' with q := c.g.q } := c.issued_sameRegs.trans (hsame.withQ c.issued.g.q)
  refine ⟨t, g', hexec, honly, pathsOf_of_sameRegs hframe, fun l hlt => ?_, fun k hk => ?_⟩
  · rw [hsame.pred_eq, Group.inMask_setPred _ _ _ _ hlt, hval l hlt, Ctx.issued_pred]
  · rw [hsame.pred_eq, Group.pred_setPred, if_neg hk, Ctx.issued_pred]

end

theorem CompletesV.imp {i : Instr} {s : State} {x : Site} {c : Ctx} {P Q : Group → Prop} (hPQ : ∀ g, P g → Q g)
    (h : CompletesV i s x c P) : CompletesV i s x c Q := by
  obtain ⟨t, g', hexec, honly, hframe, hP⟩ := h
  exact ⟨t, g', hexec, honly, hframe, hPQ g' hP⟩

end Sys2Proof.Claim
end

section
/-! Shuffles, votes and ballot (R78). -/

namespace Sys2Proof.Machine

/-! The votes as the dispatch runs them. -/

theorem exec_voteAny (x : Site) (w : VV) (s : State) : exec (.voteAny x w) s = vote (fun _ p => if p = 0 then 0 else 1) x w s := rfl
theorem exec_voteAll (x : Site) (w : VV) (s : State) : exec (.voteAll x w) s = vote (fun a p => if p = a then 1 else 0) x w s := rfl
theorem exec_ballot (x : Site) (w : VV) (s : State) : exec (.ballot x w) s = vote (fun _ p => p) x w s := rfl

/-- The source that the model reads: an active lane that the rule names, and no other. -/
theorem getD_active_iff (m : W32) (o : Option Nat) :
    (o.getD 32 < 32 ∧ inMask m (o.getD 32) = true) ↔ ∃ j, o = some j ∧ inMask m j = true := by
  cases o with
  | none => simp
  | some j => simpa using lt_of_inMask

theorem lanes_any_iff (p : Nat → Bool) : lanes.any p = true ↔ ∃ l, l < 32 ∧ p l = true := by simp [lanes]

theorem lanes_all_iff (p : Nat → Bool) : lanes.all p = true ↔ ∀ l, l < 32 → p l = true := by simp [lanes]

/-- An active lane holds the predicate where the mask of those lanes is not empty. -/
theorem and_eq_zero_iff (m p : W32) : p &&& m = 0 ↔ ¬ lanes.any (fun l => inMask m l && inMask p l) = true := by
  rw [mask_ext_iff, lanes_any_iff]
  simp [inMask, Bool.and_comm]

/-- Every active lane holds the predicate where the mask of those lanes is the whole mask. -/
theorem and_eq_self_iff (m p : W32) : p &&& m = m ↔ lanes.all (fun l => !inMask m l || inMask p l) = true := by
  rw [mask_ext_iff, lanes_all_iff]
  refine forall₂_congr fun l _ => ?_
  rw [inMask_and]
  cases inMask m l <;> simp

end Sys2Proof.Machine

namespace Sys2Proof.Claim

open Machine

/-- Every shuffle row runs as a shuffle by a source rule that names the same lanes, of the lanes 0 to 31, as the row's rule. -/
theorem shuffleRows_run : ∀ row ∈ shuffleRows, ∃ src,
    (∀ x w s, exec (row.make x w) s = shuffle src x w s) ∧ ∀ b l j, j < 32 → (src b l = some j ↔ row.src b l = some j) := by
  simp only [shuffleRows, List.forall_mem_cons]
  refine ⟨⟨fun b _ => some (b % 32), fun _ _ _ => rfl, fun _ _ _ _ => Iff.rfl⟩,
    ⟨fun b l => if b ≤ l then some (l - b) else none, fun _ _ _ => rfl, fun _ _ _ _ => Iff.rfl⟩,
    ⟨fun b l => some (l + b), fun _ _ _ => rfl, fun b l j hj => ?_⟩,
    ⟨fun b l => some (l ^^^ b), fun _ _ _ => rfl, fun b l j hj => ?_⟩, by simp⟩
  · simp only [Option.ite_none_right_eq_some, Option.some.injEq]
    omega
  · have hxor : l ^^^ b = Nat.xor l b := rfl
    simp only [Option.ite_none_right_eq_some, Option.some.injEq, hxor]
    omega

section
variable {s : State} {x : Site} {c : Ctx} {w : VV}

/-- A shuffle gives the guarded lanes the value of the active source lane, or their own. -/
theorem completesV_shuffle {i : Instr} {src : Nat → Nat → Option Nat} {val : Nat → Nat}
    (hi : Issues s x c ([w.dst.toNat, w.a.toNat] ++ (if w.ub then [] else [w.b.toNat])) w.uregs) (hok : crossOk w = true) (hc : w.c = 0)
    (hb : w.bOk {} = true) (he : exec i s = shuffle src x w s)
    (hsome : ∀ l j, src (w.bLane c.g l) l = some j → inMask c.p.mask j = true → (c.g.vreg w.a.toNat j).toNat = val l)
    (hown : ∀ l, (∀ j, src (w.bLane c.g l) l = some j → inMask c.p.mask j = false) → (c.g.vreg w.a.toNat l).toNat = val l) :
    CompletesV i s x c fun g' => LanesWritten c.g g' 0 w.dst.toNat (c.guarded w.h) val := by
  refine hi.completesV_mapV (by simp [hok, hc, hb]) he fun l => ?_
  simp only [Ctx.issued_bLane, Ctx.issued_mask, Ctx.issued_vreg, getD_active_iff]
  split
  · next hj =>
    obtain ⟨j, hsrc, hj⟩ := hj
    rw [hsrc]
    exact hsome l j hsrc hj
  · next hno =>
    exact hown l fun j hsrc => by simpa using fun hj => hno ⟨j, hsrc, hj⟩

/-- A vote gives every guarded lane one value, of the active lanes and those of them that hold the predicate. -/
theorem completesV_vote {i : Instr} {f : W32 → W32 → W32} {val : Nat} (hi : Issues s x c [w.dst.toNat] []) (hok : crossOk w = true)
    (ha : w.a = 0) (hb : w.b = 0) (hub : w.ub = false) (hc : w.c.toNat < 8) (he : exec i s = vote f x w s)
    (hval : (f c.p.mask (c.g.pred w.c.toNat &&& c.p.mask)).toNat = val) :
    CompletesV i s x c fun g' => LanesWritten c.g g' 0 w.dst.toNat (c.guarded w.h) fun _ => val :=
  hi.completesV_mapV (by simp [hok, ha, hb, hub, hc]) he fun _ => hval

end

end Sys2Proof.Claim

namespace Sys2Proof

open Machine Claim

/-- Settles O7: a shuffle's guarded lanes read the source that the row names where it is an active lane; the mask of the active lanes
that hold the predicate decides the votes and is the ballot. -/
theorem crossLaneResults : Obligations.CrossLaneResults := by
  unfold Obligations.CrossLaneResults
  refine ⟨fun row hrow s x c w hi hok hc hb => ?shuffle, fun s x c w hi hok ha hb hub hc => ⟨?any, ?all, ?ballot⟩⟩
  case shuffle =>
    obtain ⟨src, hexec, hsrc⟩ := shuffleRows_run row hrow
    refine completesV_shuffle hi hok hc hb (hexec x w s) (fun l j hj hm => ?_) fun l hno => ?_
    · simp only [(hsrc _ _ j (lt_of_inMask hm)).mp hj, if_pos hm]
    · cases hr : row.src (w.bLane c.g l) l with
      | none => rfl
      | some j =>
        have hm : ¬ inMask c.p.mask j = true := fun hm =>
          absurd (hno j ((hsrc _ _ j (lt_of_inMask hm)).mpr hr)) (by simp [hm])
        exact (if_neg hm).symm
  case any =>
    refine completesV_vote hi hok ha hb hub hc (exec_voteAny x w s) ?_
    simp only [and_eq_zero_iff, ite_not]
    split <;> rfl
  case all =>
    refine completesV_vote hi hok ha hb hub hc (exec_voteAll x w s) ?_
    simp only [and_eq_self_iff]
    split <;> rfl
  case ballot =>
    refine (completesV_vote hi hok ha hb hub hc (exec_ballot x w s) rfl).imp fun g' hg => ⟨c.g.pred w.c.toNat &&& c.p.mask, fun l _ => ?_, hg⟩
    exact (inMask_and _ _ l).trans (Bool.and_comm _ _)

end Sys2Proof
end

section
/-! Uniform operations (R74). -/

namespace Sys2Proof.Machine

/-! The uniform rows that are not binary, as the dispatch runs them. -/

theorem exec_addi (x : Site) (w : UF) (s : State) : exec (.addi x w) s =
    uniOp (w.b == 0) [w.dst.toNat, w.a.toNat] (fun c => c.g.setU w.dst.toNat (c.g.ureg w.a.toNat + w.imm.signExtend 64)) x w s := rfl

theorem exec_movi (x : Site) (w : UF) (s : State) : exec (.movi x w) s =
    uniOp (w.a == 0 && w.b == 0) [w.dst.toNat] (fun c => c.g.setU w.dst.toNat (w.imm.signExtend 64)) x w s := rfl

theorem exec_ori (x : Site) (w : UF) (s : State) : exec (.ori x w) s =
    uniOp (w.b == 0) [w.dst.toNat, w.a.toNat] (fun c => c.g.setU w.dst.toNat (c.g.ureg w.a.toNat ||| w.imm.zeroExtend 64)) x w s := rfl

theorem exec_v2u (x : Site) (w : UF) (s : State) : exec (.v2u x w) s =
    issue x (w.h.unguarded && w.a == 0 && w.b == 0 && decide (w.imm.toNat < 256)) [w.imm.toNat % 256] [w.dst.toNat] w.h
      (groupEff fun c => c.g.setU w.dst.toNat ((c.g.vreg (w.imm.toNat % 256) (lowestLane c.p.mask)).zeroExtend 64)) s := rfl

theorem exec_u2q (x : Site) (w : UF) (s : State) : exec (.u2q x w) s =
    uniOp (decide (w.dst.toNat < 8) && w.b == 0 && w.imm == 0) [w.a.toNat]
      (fun c => c.g.setPred w.dst.toNat c.p.mask ((c.g.ureg w.a.toNat).truncate 32)) x w s := rfl

theorem exec_setpU (x : Site) (w : UF) (s : State) : exec (.setpU x w) s =
    uniOp (decide (w.dst.toNat < 8) && decide (w.imm.toNat < 6)) [w.a.toNat, w.b.toNat]
      (fun c => c.g.setPred w.dst.toNat c.p.mask
        (if intCond w.imm.toNat (c.g.ureg w.a.toNat).toInt (c.g.ureg w.b.toNat).toInt then allLanes else 0)) x w s := rfl

end Sys2Proof.Machine

namespace Sys2Proof.Claim

open Machine

/-- Every binary uniform row runs as one operation on 64 bits that meets the row's rule. -/
theorem uniformRows_run : ∀ row ∈ uniformRows, ∃ f : W64 → W64 → W64,
    (∀ x w s, exec (row.make x w) s = uniBin f x w s) ∧ ∀ a b, row.rule a b (f a b) := by
  simp only [uniformRows, List.forall_mem_cons]
  refine ⟨⟨fun a b => a + b, fun _ _ _ => rfl, fun a b => BitVec.toNat_add a b⟩,
    ⟨fun a b => a - b, fun _ _ _ => rfl, fun a b => ?sub⟩,
    ⟨fun a b => a * b, fun _ _ _ => rfl, fun a b => BitVec.toNat_mul a b⟩,
    ⟨fun a b => a &&& b, fun _ _ _ => rfl, fun a b i => BitVec.getLsbD_and⟩,
    ⟨fun a b => a ||| b, fun _ _ _ => rfl, fun a b i => BitVec.getLsbD_or⟩,
    ⟨fun a b => a ^^^ b, fun _ _ _ => rfl, fun a b i => BitVec.getLsbD_xor⟩,
    ⟨fun a b => a <<< b, fun _ _ _ => rfl, fun a b => ?shl⟩,
    ⟨fun a b => a >>> b, fun _ _ _ => rfl, fun a b => ?shr⟩,
    ⟨fun a b => a.sshiftRight b.toNat, fun _ _ _ => rfl, fun a b => ?sra⟩,
    ⟨fun a b => if a.sle b then a else b, fun _ _ _ => rfl, fun a b => ?min⟩,
    ⟨fun a b => if a.sle b then b else a, fun _ _ _ => rfl, fun a b => ?max⟩, by simp⟩
  case sub => rw [← BitVec.toNat_add, BitVec.sub_add_cancel]
  case shl => simp only [BitVec.shiftLeft_eq', BitVec.toNat_shiftLeft, Nat.shiftLeft_eq]
  case shr => simp only [BitVec.ushiftRight_eq', BitVec.toNat_ushiftRight, Nat.shiftRight_eq_div_pow]
  case sra => rw [BitVec.toInt_sshiftRight, Int.shiftRight_eq_div_pow]
  case min =>
    simp only [BitVec.sle_iff_toInt_le]
    exact (apply_ite BitVec.toInt _ _ _).trans (Int.min_def _ _).symm
  case max =>
    simp only [BitVec.sle_iff_toInt_le]
    exact (apply_ite BitVec.toInt _ _ _).trans (Int.max_def _ _).symm

section
variable {i : Instr} {s : State} {x : Site} {c : Ctx} {w : UF} {legal : Bool} {us : List Nat}

/-- A uniform operation that writes one uniform register. -/
theorem completesU_uniOp (hi : Issues s x c [] us) (hh : w.h.unguarded = true) (hl : legal = true) {f : Ctx → W64}
    (he : exec i s = uniOp legal us (fun c => c.g.setU w.dst.toNat (f c)) x w s) {P : W64 → Prop} (hP : P (f c.issued)) :
    CompletesU i s x c fun g' => P (g'.ureg w.dst.toNat) ∧ ∀ r, r ≠ w.dst.toNat → g'.ureg r = c.g.ureg r :=
  hi.completesU_setU (by rw [hh, hl]; rfl) he hP

/-- A uniform operation that writes one predicate in the lanes of the current path. -/
theorem completesQ_uniOp (hi : Issues s x c [] us) (hh : w.h.unguarded = true) (hl : legal = true) {f : Ctx → W32} {val : Nat → Bool}
    (he : exec i s = uniOp legal us (fun c => c.g.setPred w.dst.toNat c.p.mask (f c)) x w s)
    (hval : ∀ l, l < 32 → inMask (f c.issued) l = val l) :
    CompletesQ i s x c fun g' => PredWritten c.g g' w.dst.toNat c.p.mask val :=
  hi.completesQ_setPred (by rw [hh, hl]; rfl) he hval

end

end Sys2Proof.Claim

namespace Sys2Proof

open Machine Claim

/-- Settles O8: each row issues as one write of a uniform register, or of a predicate under the mask of the current path, and the rules
are those of the bit vectors' own operations. -/
theorem uniformRegisterResults : Obligations.UniformRegisterResults := by
  unfold Obligations.UniformRegisterResults
  refine ⟨fun row hrow s x c w hi hh himm => ?binary, fun s x c w hh => ⟨fun hi hb => ?addi, fun hi ha hb => ?movi, fun hi hb => ?ori,
    fun hi ha hb hr => ?v2u, fun hi hd hb himm => ?u2q, fun hi hd himm => ?setpU⟩⟩
  case binary =>
    obtain ⟨f, hexec, hrule⟩ := uniformRows_run row hrow
    exact completesU_uniOp hi hh (by simp [himm]) (hexec x w s) (hrule _ _)
  case addi => exact completesU_uniOp (P := (· = _)) hi hh (by simp [hb]) (exec_addi x w s) rfl
  case movi =>
    exact completesU_uniOp (P := (BitVec.toInt · = _)) hi hh (by simp [ha, hb]) (exec_movi x w s) (BitVec.toInt_signExtend_of_le (by decide))
  case ori =>
    refine completesU_uniOp (P := fun r => ∀ i, r.getLsbD i = ((c.g.ureg w.a.toNat).getLsbD i || w.imm.getLsbD i)) hi hh
      (by simp [hb]) (exec_ori x w s) fun i => ?_
    have himm : (w.imm.zeroExtend 64).getLsbD i = w.imm.getLsbD i := by
      rw [BitVec.getLsbD_setWidth, Bool.and_eq_right_iff_imp, decide_eq_true_eq]
      exact fun h => Nat.lt_trans (BitVec.lt_of_getLsbD h) (by decide)
    rw [BitVec.getLsbD_or, himm, Ctx.issued_ureg]
  case v2u =>
    have hreg : w.imm.toNat % 256 = w.imm.toNat := Nat.mod_eq_of_lt hr
    rw [← hreg] at hi
    refine hi.completesU_setU (P := (BitVec.toNat · = _)) (by simp [hh, ha, hb, hr]) (exec_v2u x w s) ?_
    rw [hreg, Ctx.issued_vreg, Ctx.issued_mask]
    exact BitVec.toNat_setWidth_of_le (by decide)
  case u2q =>
    refine completesQ_uniOp hi hh (by simp [hd, hb, himm]) (exec_u2q x w s) fun l hl => ?_
    simp [inMask, hl]
  case setpU =>
    refine completesQ_uniOp hi hh (by simp [hd, himm]) (exec_setpU x w s) fun l hl => ?_
    rw [inMask_ite_allLanes _ hl]
    simp only [Ctx.issued_ureg]

end Sys2Proof
end

section
/-! Jobs (R462, R463): what the emptying of queues leaves alone, which blocks stay when blocks are dropped, and from that what the start and
the end of a job do. -/

namespace Sys2Proof.NMap

variable {α : Type} {m : NMap α} {k : Nat}

theorem mem_of_find? {v : α} (h : find? m k = some v) : (k, v) ∈ m := by
  induction m with
  | nil => cases h
  | cons x r ih =>
    obtain ⟨a, w⟩ := x
    by_cases hk : k = a
    · simp_all [find?]
    · exact List.mem_cons_of_mem _ (ih (by simpa [find?, hk] using h))

theorem exists_of_find?_mapV {f : α → α} {w : α} (h : find? (mapV m f) k = some w) : ∃ v, w = f v := by
  obtain ⟨x, -, hx⟩ := List.mem_map.mp (mem_of_find? h)
  exact ⟨x.2, (congrArg Prod.snd hx).symm⟩

theorem find?_eq_none_of_notMem (h : k ∉ m.map Prod.fst) : find? m k = none := by
  cases hv : find? m k with
  | none => rfl
  | some v => exact absurd (List.mem_map.mpr ⟨_, mem_of_find? hv, rfl⟩) h

end Sys2Proof.NMap

namespace Sys2Proof.Machine

/-! Queues that are emptied. -/

/-- From `s` to `t` only queues and the register of the flow-control pins (R394) differ, and no empty queue has gained an item. -/
structure QueuesDrain (s t : State) : Prop where
  frame : ∃ qs r, t = { s with queues := qs, regs := r }
  reg : ∀ a, a ≠ aCqG 0x48 → t.reg a = s.reg a
  items : ∀ q, (s.queue q).items = [] → (t.queue q).items = []

namespace QueuesDrain

variable {s t u : State}

theorem refl (s : State) : QueuesDrain s s := ⟨⟨_, _, rfl⟩, fun _ _ => rfl, fun _ h => h⟩

theorem trans (hst : QueuesDrain s t) (htu : QueuesDrain t u) : QueuesDrain s u := by
  obtain ⟨qs, r, rfl⟩ := hst.frame
  obtain ⟨qs', r', hu⟩ := htu.frame
  exact ⟨⟨qs', r', hu⟩, fun a ha => (htu.reg a ha).trans (hst.reg a ha), fun q h => htu.items q (hst.items q h)⟩

theorem mem_eq (h : QueuesDrain s t) : t.mem = s.mem := by obtain ⟨_, _, rfl⟩ := h.frame; rfl

theorem cores_eq (h : QueuesDrain s t) : t.cores = s.cores := by obtain ⟨_, _, rfl⟩ := h.frame; rfl

theorem slice_eq (h : QueuesDrain s t) (sl : Nat) : t.slice sl = s.slice sl := by obtain ⟨_, _, rfl⟩ := h.frame; rfl

theorem fld_eq (h : QueuesDrain s t) {a lo w : Nat} (ha : a ≠ aCqG 0x48) : t.fld a lo w = s.fld a lo w :=
  congrArg (bits · lo w) (h.reg a ha)

/-- No queue's configuration is the register of the flow-control pins. -/
theorem qOwner_eq (h : QueuesDrain s t) (q : Nat) : t.qOwner q = s.qOwner q :=
  h.fld_eq (by simp only [aCq, aCqG]; omega)

theorem putQueue {q : Nat} {x : Queue} (hx : (s.queue q).items = [] → x.items = []) : QueuesDrain s (s.putQueue q x) := by
  refine ⟨⟨_, _, rfl⟩, fun _ _ => rfl, fun j hj => ?_⟩
  by_cases hjq : j = q
  · subst hjq
    rw [queue_putQueue_same]
    exact hx hj
  · rwa [queue_putQueue_other _ _ hjq]

theorem setFld_pins (lo w x : Nat) : QueuesDrain s (s.setFld (aCqG 0x48) lo w x) :=
  ⟨⟨_, _, rfl⟩, fun _ ha => reg_setFld_other s lo w x ha, fun _ h => h⟩

end QueuesDrain

/-- Flow control changes the queue's own state and the pins (R393, R394). -/
theorem flow_queuesDrain (s : State) (q : Nat) : QueuesDrain s (s.flow q) := by
  unfold State.flow
  refine List.foldlRecOn (motive := QueuesDrain s) _ _ (QueuesDrain.putQueue id) fun t ht i _ => ?_
  split
  · exact ht.trans (.setFld_pins _ _ _)
  · exact ht

theorem emptyQueue_queuesDrain (s : State) (q sl : Nat) : QueuesDrain s (s.emptyQueue q sl) :=
  (QueuesDrain.putQueue fun _ => rfl).trans (flow_queuesDrain _ q)

/-- R391: the queue that is emptied holds nothing. -/
theorem emptyQueue_items (s : State) (q sl : Nat) : ((s.emptyQueue q sl).queue q).items = [] :=
  (flow_queuesDrain _ q).items q (by rw [queue_putQueue_same])

/-- Queue `q` is emptied where slice `sl` owns it. -/
def State.emptyOwned (s : State) (sl q : Nat) : State := if s.qOwner q = sl then s.emptyQueue q sl else s

/-- The queues of a slice are emptied, as at the start and at the end of its job. -/
def State.emptyAllOwned (s : State) (sl : Nat) : State := NMap.foldV s.queues s fun s q _ => s.emptyOwned sl q

theorem emptyOwned_queuesDrain (s : State) (sl q : Nat) : QueuesDrain s (s.emptyOwned sl q) := by
  unfold State.emptyOwned
  split
  · exact emptyQueue_queuesDrain s q sl
  · exact .refl s

theorem emptyOwned_items (s : State) {sl q : Nat} (ho : s.qOwner q = sl) : ((s.emptyOwned sl q).queue q).items = [] := by
  rw [State.emptyOwned, if_pos ho]
  exact emptyQueue_items s q sl

theorem emptyAllOwned_queuesDrain (s : State) (sl : Nat) : QueuesDrain s (s.emptyAllOwned sl) :=
  foldV_cases (QueuesDrain s) _ (fun t q _ ht => ht.trans (emptyOwned_queuesDrain t sl q)) _ s (.refl s)

/-- Of the queues of a list, those that the slice owns are emptied, and those that were empty stay so. -/
theorem foldV_emptyOwned_items (m : NMap Queue) (s : State) {sl q : Nat} (ho : s.qOwner q = sl)
    (h : q ∈ m.map Prod.fst ∨ (s.queue q).items = []) :
    ((NMap.foldV m s fun s q _ => s.emptyOwned sl q).queue q).items = [] := by
  induction m generalizing s with
  | nil => exact h.resolve_left (by simp)
  | cons x m ih =>
    have hd := emptyOwned_queuesDrain s sl x.1
    refine ih (s.emptyOwned sl x.1) ((hd.qOwner_eq q).trans ho) ?_
    rcases h with h | h
    · rcases List.mem_cons.mp h with rfl | h
      · exact .inr (emptyOwned_items s ho)
      · exact .inl h
    · exact .inr (hd.items q h)

/-- R462: every queue that the slice owns is empty; one that the table does not list holds nothing already. -/
theorem emptyAllOwned_items (s : State) {sl q : Nat} (ho : s.qOwner q = sl) : ((s.emptyAllOwned sl).queue q).items = [] := by
  refine foldV_emptyOwned_items s.queues s ho ?_
  by_cases hq : q ∈ s.queues.map Prod.fst
  · exact .inl hq
  · exact .inr (by rw [State.queue, NMap.find?_eq_none_of_notMem hq]; rfl)

/-! The end of a job. -/

/-- No core holds a block that was dropped. -/
theorem dropBlocks_core_blocks (s : State) (p : Block → Bool) {n k : Nat} {b : Block}
    (h : NMap.find? ((s.dropBlocks p).core n).blocks k = some b) : p b = false := by
  obtain ⟨m, hm⟩ : ∃ m, (s.dropBlocks p).cores = NMap.mapV m fun c => c.dropBlocks p := ⟨_, rfl⟩
  rw [State.core, hm] at h
  cases hc : NMap.find? (NMap.mapV m fun c => c.dropBlocks p) n with
  | none => simp [hc, Core.init, NMap.find?] at h
  | some c =>
    obtain ⟨d, rfl⟩ := NMap.exists_of_find?_mapV hc
    rw [hc] at h
    exact dropBlocks_blocks d p k b (NMap.mem_of_find? h)

/-- The slice and its job register at the end of its job (R463, R481): the slice holds nothing, the register names the next generation, the
reason and the fault code. -/
def State.jobClose (s : State) (sl gen reason code : Nat) : State :=
  let s := s.putSlice sl { s.slice sl with bells := [], launch := [], kernels := [], saved := [], landed := 0 }
  let s := (s.setFld (aSlc sl 0x40) 0 16 gen).setFld (aSlc sl 0x40) 16 2 2
  (s.setFld (aSlc sl 0x40) 24 8 reason).setFld (aSlc sl 0x40) 32 8 code

/-- How the end of a job is told (R463): an interrupt and an event. -/
def State.jobTold (s : State) (sl gen reason : Nat) : State :=
  (s.emit (.msix (s.portOf sl) 1 (4 * sl + 3) gen)).emit (.event (s.portOf sl) 0x463 [sl, reason])

/-- R463: whatever a running job's end has done before, in halves, engines and queues, it then drops the slice's blocks, closes the slice and
tells of it. -/
theorem jobEnd_of_running {s : State} {sl : Nat} (h : s.jobOf sl = 1) (reason code : Nat) : ∃ u : State, s.jobEnd sl reason code =
    ((u.dropBlocks fun b => b.slice == sl).jobClose sl ((s.gen sl + 1) % 2 ^ 16) reason code).jobTold sl ((s.gen sl + 1) % 2 ^ 16) reason :=
  ⟨_, if_neg fun hne => hne h⟩

section

variable (s : State) (sl : Nat) {gen reason code : Nat}

/-- R463, R481: the fields of the job register. -/
theorem jobClose_register (hg : gen < 2 ^ 16) (hr : reason < 2 ^ 8) (hc : code < 2 ^ 8) :
    (s.jobClose sl gen reason code).jobOf sl = 2 ∧ (s.jobClose sl gen reason code).gen sl = gen ∧
    (s.jobClose sl gen reason code).fld (aSlc sl 0x40) 24 8 = reason ∧ (s.jobClose sl gen reason code).fld (aSlc sl 0x40) 32 8 = code := by
  simpa [State.jobClose, State.jobOf, State.gen, fld_setFld_same, fld_setFld_below] using And.intro hg (And.intro hr hc)

theorem jobClose_slice (gen reason code : Nat) : (s.jobClose sl gen reason code).slice sl =
    { s.slice sl with bells := [], launch := [], kernels := [], saved := [], landed := 0 } :=
  slice_putSlice_same s sl _

theorem jobClose_core (gen reason code n : Nat) : (s.jobClose sl gen reason code).core n = s.core n := rfl

theorem jobTold_fld (gen reason a lo w : Nat) : (s.jobTold sl gen reason).fld a lo w = s.fld a lo w := rfl

/-- R463: the owner of the slice's port is interrupted. -/
theorem jobTold_msix (gen reason : Nat) : .msix (s.portOf sl) 1 (4 * sl + 3) gen ∈ (s.jobTold sl gen reason).out :=
  List.mem_append_left _ (List.mem_append_right _ (List.mem_singleton.mpr rfl))

end

end Sys2Proof.Machine

namespace Sys2Proof.Claim

open Machine

/-- An end is complete where it is told of a slice that is closed. -/
theorem jobEnded_jobTold {s t : State} {sl gen reason code : Nat} (hgen : (s.gen sl + 1) % 2 ^ 16 = gen) (hjob : t.jobOf sl = 2)
    (hg : t.gen sl = gen) (hreason : t.fld (aSlc sl 0x40) 24 8 = reason) (hcode : t.fld (aSlc sl 0x40) 32 8 = code)
    (hslice : (t.slice sl).kernels = [] ∧ (t.slice sl).launch = [] ∧ (t.slice sl).saved = [])
    (hblocks : ∀ n k b, NMap.find? (t.core n).blocks k = some b → b.slice ≠ sl) :
    JobEnded s (t.jobTold sl gen reason) sl reason code := by
  obtain ⟨hkernels, hlaunch, hsaved⟩ := hslice
  refine ⟨hjob, hg.trans hgen.symm, hreason, hcode, hkernels, hlaunch, hsaved, hblocks, ?_⟩
  rw [State.portOf, State.gen, jobTold_fld, jobTold_fld, ← State.portOf, ← State.gen, hg]
  exact jobTold_msix t sl gen reason

/-- The end of a running job for a reason and a code that their fields hold. -/
theorem jobEnded_jobEnd {s : State} {sl reason code : Nat} (h : s.jobOf sl = 1) (hr : reason < 2 ^ 8) (hc : code < 2 ^ 8) :
    JobEnded s (s.jobEnd sl reason code) sl reason code := by
  have hgen : (s.gen sl + 1) % 2 ^ 16 < 2 ^ 16 := Nat.mod_lt _ (by decide)
  obtain ⟨u, hend⟩ := jobEnd_of_running h reason code
  rw [hend]
  generalize hnext : (s.gen sl + 1) % 2 ^ 16 = gen at hgen ⊢
  obtain ⟨hjob, hg, hreason, hcode⟩ := jobClose_register (u.dropBlocks fun b => b.slice == sl) sl hgen hr hc
  refine jobEnded_jobTold hnext hjob hg hreason hcode ?_ fun n k b hb => ?_
  · simp [jobClose_slice]
  · rw [jobClose_core] at hb
    exact beq_eq_false_iff_ne.mp (dropBlocks_core_blocks u _ hb)

end Sys2Proof.Claim

namespace Sys2Proof.Machine

/-! The start of a job. -/

/-- What a slice itself holds at the start of its job (R462). -/
def State.jobOpen (s : State) (sl : Nat) : State :=
  s.putSlice sl { s.slice sl with
    taskCtr := 0, bells := [], launch := [], kernels := [], saved := [], model := none, energy := [], qenergy := [], charge := 0, charged := 0, landed := 0 }

/-- JOB reads 1 and the link engine of the slice is as at the start (R462). -/
def State.jobRun (s : State) (sl : Nat) : State := { s with engines := NMap.del s.engines sl }.setFld (aSlc sl 0x40) 16 2 1

/-- The start of a running job is ignored (R462). -/
theorem jobStart_of_running {s : State} {sl : Nat} (h : s.jobOf sl = 1) : s.jobStart sl = s :=
  if_pos (by simp [h])

/-- Where no job runs, a start clears counters of the slice's window, opens the slice and empties its queues (R462). -/
theorem jobStart_of_idle {s : State} {sl : Nat} (he : s.exists? sl = true) (h : s.jobOf sl ≠ 1) : ∃ w : NMap W64,
    s.jobStart sl = ((({ s with swin := w } : State).jobOpen sl).emptyAllOwned sl).jobRun sl :=
  ⟨_, if_neg (by simp [he, h])⟩

section

variable (s : State) (sl : Nat)

theorem jobOpen_slice : (s.jobOpen sl).slice sl = { s.slice sl with
    taskCtr := 0, bells := [], launch := [], kernels := [], saved := [], model := none, energy := [], qenergy := [], charge := 0, charged := 0, landed := 0 } :=
  slice_putSlice_same _ sl _

theorem jobRun_jobOf : (s.jobRun sl).jobOf sl = 1 := fld_setFld_same _ _ _ _ _ (by decide)

theorem jobRun_gen : (s.jobRun sl).gen sl = s.gen sl := fld_setFld_below _ _ _ _ _ _ _ (by decide) (by decide)

theorem jobRun_slice : (s.jobRun sl).slice sl = s.slice sl := rfl

theorem jobRun_queue (q : Nat) : (s.jobRun sl).queue q = s.queue q := rfl

end

/-! The commands. -/

theorem mgrWrite_of_may {s : State} {host a : Nat} (h : Claim.ManagerMay s host a) (f : State → State) : s.mgrWrite host a f = f s := by
  obtain ⟨hresp, hown⟩ := h
  simp [State.mgrWrite, hresp, hown]

theorem tenant_of_may {s : State} {port sl : Nat} {pasid : Option Nat} (h : Claim.TenantMay s port pasid sl) (f : Nat → State → State) :
    s.tenant port pasid f = f sl s := by
  obtain ⟨hphase, hlock, hbound, htdi⟩ := h
  simp [State.tenant, hphase, hlock, hbound, htdi]

theorem exec_slcCtrlStart {s : State} {host sl : Nat} (h : Claim.ManagerMay s host (aSlc sl 0x48)) :
    exec (.slcCtrlStart host sl) s = .next (s.jobStart sl) := congrArg Host.Outcome.next (mgrWrite_of_may h _)

theorem exec_slcCtrlStop {s : State} {host sl : Nat} (h : Claim.ManagerMay s host (aSlc sl 0x48)) :
    exec (.slcCtrlStop host sl) s = .next (s.jobEnd sl 3 0) := congrArg Host.Outcome.next (mgrWrite_of_may h _)

theorem exec_slcSJobctlStart {s : State} {port sl : Nat} {pasid : Option Nat} (h : Claim.TenantMay s port pasid sl) :
    exec (.slcSJobctlStart port pasid) s = .next (s.jobStart sl) := congrArg Host.Outcome.next (tenant_of_may h _)

theorem exec_slcSJobctlEnd {s : State} {port sl : Nat} {pasid : Option Nat} (h : Claim.TenantMay s port pasid sl) :
    exec (.slcSJobctlEnd port pasid) s = .next (s.jobEnd sl 2 0) := congrArg Host.Outcome.next (tenant_of_may h _)

end Sys2Proof.Machine

namespace Sys2Proof.Claim

open Machine

/-- The start of a job where none runs. -/
theorem jobStarted_jobStart {s : State} {sl : Nat} (he : s.exists? sl = true) (h : s.jobOf sl ≠ 1) : JobStarted s (s.jobStart sl) sl := by
  obtain ⟨w, hstart⟩ := jobStart_of_idle he h
  rw [hstart]
  have hd := emptyAllOwned_queuesDrain (({ s with swin := w } : State).jobOpen sl) sl
  have hslice := (jobRun_slice _ sl).trans (hd.slice_eq sl)
  rw [jobOpen_slice] at hslice
  refine ⟨jobRun_jobOf _ sl, ?gen, by rw [hslice], by rw [hslice], by rw [hslice], by rw [hslice], fun q _ ho => ?queue, hd.mem_eq, hd.cores_eq⟩
  case gen => rw [jobRun_gen, State.gen, hd.fld_eq (by simp only [aSlc, aCqG]; omega)]; rfl
  case queue =>
    rw [jobRun_queue]
    exact emptyAllOwned_items _ ho

end Sys2Proof.Claim

namespace Sys2Proof

open Machine Claim

/-- Settles O31: the manager's write and the tenant's request reach the same start and the same end, with reasons 3 and 2; a start of a running
job is no change. -/
theorem jobsStartAndEnd : Obligations.JobsStartAndEnd := by
  unfold Obligations.JobsStartAndEnd
  refine ⟨fun s host sl _ hmay hex => ⟨fun hjob => ?_, fun hjob => ?_, fun hjob => ?_⟩,
    fun s port sl pasid _ hmay hex => ⟨fun hjob => ?_, fun hjob => ?_, fun hjob => ?_⟩⟩
  · exact ⟨_, exec_slcCtrlStart hmay, jobStarted_jobStart hex hjob⟩
  · rw [exec_slcCtrlStart hmay, jobStart_of_running hjob]
  · exact ⟨_, exec_slcCtrlStop hmay, jobEnded_jobEnd hjob (by decide) (by decide)⟩
  · exact ⟨_, exec_slcSJobctlStart hmay, jobStarted_jobStart hex hjob⟩
  · rw [exec_slcSJobctlStart hmay, jobStart_of_running hjob]
  · exact ⟨_, exec_slcSJobctlEnd hmay, jobEnded_jobEnd hjob (by decide) (by decide)⟩

end Sys2Proof
end
